-- ==== Sys2Proof/Word.lean ====
section
/-!
DEFINITION. The word types of the model: bytes, 32-bit register words, 64-bit words, the 256-bit
command word of the instruction memories and the 2,048-bit flit are bit vectors; an address, a cycle
and a count are natural numbers.
-/
namespace Sys2Proof

/-- One byte. -/
abbrev Byte := BitVec 8

/-- A run of bytes, lowest address first (R14). -/
abbrev Bytes := List Byte

/-- A 32-bit register word (R472). -/
abbrev Reg := BitVec 32

/-- A 64-bit word. -/
abbrev Word64 := BitVec 64

/-- A tile command, 32 bytes (R101). -/
abbrev CmdWord := BitVec 256

/-- A function of the endpoint: 0 is PF0, p + 1 is the VF of partition p (R358). -/
abbrev Fn := Fin 9

/-- A partition number (R20). -/
abbrev Part := Fin 8

/-- A logical tile of the module (R19). -/
abbrev TileId := Fin 64

/-- A link port of the module (R19). -/
abbrev PortId := Fin 16

/-- A ring pair of a function (R358). -/
abbrev PairId := Fin 16

/-- The two instruction streams of a tile (R62). -/
inductive Stream where
  | access
  | execute
  deriving DecidableEq, Repr, Inhabited

end Sys2Proof
end

