-- ==== Sys2Proof/Syntax.lean ====
section
/-!
DEFINITION. The commands of the module: one constructor for each row of the table of operations and
events (spec/opcode_table.json), in the table's order. A row that a stream of a tile issues names the
logical tile (and, where both streams carry the opcode, the stream): its command word is the one that
stands at the stream's program index in the tile's instruction memory. A row that the host rings carry
names the function and the ring pair: its descriptor is the one at the head of that ring. Every other
operand is what the outside world brings with the event (a flit, a register value, a measurement).
-/
namespace Sys2Proof

/-- How the external part of a V command ends, as far as the outside world decides it (R135, R137, R165).
A tag mismatch is not among them: the module finds it by its own check. -/
inductive ExtOutcome where
  /-- The device, flash or host answered. -/
  | ok
  /-- The flash page could not be corrected (cause 2 of V_DATA_ERROR). -/
  | flashUe
  /-- The device or the host link is absent, or a PCIe error ended the DMA (cause 3). -/
  | targetAbsent
  /-- The target rejected the write (cause 5). -/
  | writeRejected
  /-- The random bit generator failed its health test (cause 6). -/
  | entropyFailure
  deriving DecidableEq, Repr, Inhabited

/-- A book that a hardware fault has put out of balance (R452): the partition, the quantity 1 to 8 of
BOOKS_UNBALANCED and the port or tile. -/
structure BookUpset where
  part : Part
  quantity : Nat
  object : Nat
  deriving DecidableEq, Repr, Inhabited

/-- What the receiver of a port direction finds beside the bytes of a received slot (R243, R244, R271): the symbol errors on
each physical receive lane in the codeword that begins in the slot, where one does, and, in the first slot of a frame,
the logical positions that the alignment markers of the five lanes carry. -/
structure FecReport where
  errors : List Nat
  markers : Option (List Nat)
  deriving DecidableEq, Repr, Inhabited

/-- Where the packet stands that PACKET_ROUTE takes (R293): at the head of a receive buffer of a port, or
at the head of a partition's origination queue. -/
inductive PacketSource where
  | rx (q : PortId) (vc : Fin 6)
  | origin (p : Part)
  deriving DecidableEq, Repr, Inhabited

/-- The outcome of the tile self-test (R98): bit i is 1 when physical tile i fails it. -/
structure SelfTest where
  fails : BitVec 72
  deriving DecidableEq, Repr, Inhabited

/-- What step 3 of start-up finds on flash (R393, R424): the image cannot be read, and the digest of the factory or of
the user calibration area does not match. -/
structure FlashFound where
  flashUe : Bool := false
  factoryBad : Bool := false
  userBad : Bool := false
  deriving DecidableEq, Repr, Inhabited

/-- What step 5 of start-up finds (R421, R25): bit b is 1 when the HBM stack of bay b fails its training; the capacity
in GiB that the CXL device on each port reports, 0 where there is none. -/
structure Found where
  hbmStacks : BitVec 8
  cxl0 : Nat
  cxl1 : Nat
  deriving DecidableEq, Repr, Inhabited

/-- A ring of a function: a ring pair, or the result ring (R362). -/
inductive RingRef where
  | pair (n : PairId)
  | result
  deriving DecidableEq, Repr, Inhabited

/-- A register whose stored bits an upset has changed (R475): its byte offset, and whether the shadow or
the active value is in mismatch. -/
structure RegUpset where
  off : BitVec 16
  shadow : Bool
  deriving DecidableEq, Repr, Inhabited

/-- Why the fast clock leaves LOCKED for HOLDOVER (Table TIM-1). -/
inductive ClockLoss where
  /-- No valid symbol on the recovery lane for 1 us. -/
  | noSymbol
  /-- Phase error beyond 100 ps. -/
  | phaseError
  deriving DecidableEq, Repr, Inhabited

/-- One reading of the sensors of Tables OPS-6 and PHY-6, in the units of R465: 0.1 degrees C for the
temperatures, 0.01 L/min for the flow, 0.1 kPa for the static pressure. -/
structure Sensors where
  compute : List Int
  base : List Int
  hbm : List Int
  hub : Int
  inlet : Int
  outlet : Int
  flow : Nat
  pressure : Nat
  deriving DecidableEq, Repr, Inhabited

/-- The measured quantities of one telemetry capture (R435, Table REG-8): input voltage in 10 mV, input
current in 10 mA, input power in W, the sensors, and the energy in mJ of each partition's bays. -/
structure Meters where
  volt : Nat
  amp : Nat
  watt : Nat
  sensors : Sensors
  energy : List Nat
  spareBlocks : Nat
  flashWritten : Nat
  deriving DecidableEq, Repr, Inhabited

/-- A line of a protected array: of the local store of a physical tile, or of the HBM stack of a bay. -/
inductive LineRef where
  | localStore (phys : Fin 72) (line : Nat)
  | hbm (bay : Fin 8) (line : Nat)
  deriving DecidableEq, Repr, Inhabited

/-- The commands of the module (spec/opcode_table.json), in the table's order. -/
inductive Instr where
  /-- `END` (R78). A stream issues END and issues nothing further in that plan. -/
  | endCmd (t : TileId) (st : Stream)
  /-- `SYNC` (R114). A header-only command that waits, signals, pops and pushes through its header alone. -/
  | sync (t : TileId) (st : Stream)
  /-- `REPEAT` (R109). Issues the following LEN commands COUNT times, with the pass counters ITER0 and ITER1. -/
  | repeatCmd (t : TileId) (st : Stream)
  /-- `PSET` (R113). Writes the stream's predicate register in the mode selected by its MODE field. -/
  | pset (t : TileId) (st : Stream)
  /-- `FSET` (R115). Sets a counting flag to VALUE at the end of its completion cycle. -/
  | fset (t : TileId) (st : Stream)
  /-- `QPUSH` (R116). Pushes the immediate ENTRY unchanged to the queue named by PUSH. -/
  | qpush (t : TileId) (st : Stream)
  /-- `LOAD_HBM` (R117). Copies an HBM block into a local-store block on the mesh-in class. -/
  | loadHbm (t : TileId)
  /-- `STORE_HBM` (R117). Copies a local-store block into HBM on the mesh-out class. -/
  | storeHbm (t : TileId)
  /-- `PAGE_GATHER` (R119). Reads page-table entries and moves the present firkins into a local-store block. -/
  | pageGather (t : TileId)
  /-- `PAGE_SCATTER` (R119). Reads page-table entries and moves firkins from local store back to HBM. -/
  | pageScatter (t : TileId)
  /-- `SEND` (R124). Sends a source block as planned flits in the link slots assigned by the loader. -/
  | send (t : TileId)
  /-- `RELEASE` (R122). Releases the valid half of a bin at the end of its issue cycle. -/
  | release (t : TileId)
  /-- `CXL_READ` (R135). V command that reads the CXL window into staging and delivers the data at its deadline. -/
  | cxlRead (t : TileId)
  /-- `CXL_WRITE` (R135). V command that reads local store at issue and writes it to the CXL window, completing at its deadline. -/
  | cxlWrite (t : TileId)
  /-- `FLASH_STAGE` (R132). V command that stages flash namespace pages and delivers them at its deadline. -/
  | flashStage (t : TileId)
  /-- `HOST_READ` (R132). V command that reads the host exchange window by DMA and delivers the data at its deadline. -/
  | hostRead (t : TileId)
  /-- `HOST_WRITE` (R132). V command that writes a local-store block to the host exchange window, completing at its deadline. -/
  | hostWrite (t : TileId)
  /-- `MATMUL` (R125). Accumulates A times B into an accumulator set on the anchor grid, draining it if closing. -/
  | matmul (t : TileId)
  /-- `VLOAD` (R129). Loads a local-store block into a vector register with format conversion. -/
  | vload (t : TileId)
  /-- `VSTORE` (R129). Stores a vector register to local store with conversion and rounding. -/
  | vstore (t : TileId)
  /-- `VOP` (R130). Performs the 512-lane vector subop selected by SUBOP. -/
  | vop (t : TileId)
  /-- `TRANS` (R131). Evaluates the transcendental function FUNC over a vector register. -/
  | trans (t : TileId)
  /-- `ACCADD` (R156). Adds a WIDE block exactly into an accumulator set. -/
  | accadd (t : TileId)
  /-- `SELECT` (R158). Selects the top k candidates per row and fills bushel groups and the gate block. -/
  | select (t : TileId)
  /-- `SEED_HW` (R163). V command that replaces the tile's rounding seed with 256 random bits at its deadline. -/
  | seedHw (t : TileId)
  /-- `CXL_GATHER` (R164). V command that reads the CXL-tier firkins of a page table and delivers them at its deadline. -/
  | cxlGather (t : TileId)
  /-- `COMMAND_COMPLETE` (R74). A command completes, writes its pushed entry and adds its signal count to its flag. -/
  | commandComplete (t : TileId) (st : Stream) (index : Nat)
  /-- `V_EXTERNAL_COMPLETE` (R135). The external part of a V command finishes, with data in staging or the write acknowledged; off is the byte offset of the first failing page where it ends in error. -/
  | vExternalComplete (t : TileId) (index : Nat) (out : ExtOutcome) (off : Nat)
  /-- `V_COMMAND_DEADLINE` (R137). A V command reaches its deadline and completes, enters the mesh-in class or faults. -/
  | vCommandDeadline (t : TileId) (index : Nat)
  /-- `T0_REACHED` (R297). The plan counter reaches T0, the member enters RUNNING and both streams begin issuing. -/
  | t0Reached (p : Part)
  /-- `FURLONG_BOUNDARY` (R44). At a furlong boundary the bin halves change roles and the slot tables advance. -/
  | furlongBoundary (p : Part)
  /-- `PLAN_END` (R297). The plan reaches T0 + 5L × FURLONGS and the member enters TEARDOWN. -/
  | planEnd (p : Part)
  /-- `STREAM_DEADLOCK` (R446). The watchdog raises a fault at the end of the furlong in which a tile entered the dead state. -/
  | streamDeadlock (t : TileId)
  /-- `BOOKS_CHECK` (R452). At the end of each rod the module checks its conserved books. -/
  | booksCheck (upset : Option BookUpset)
  /-- `PLANNED_FLIT_WATCH` (R48). Each rod the transmitting module computes the wall slack of watched flits and issues a hold notice for any at risk. -/
  | plannedFlitWatch (q : PortId)
  /-- `V_HOLD_CHECK` (R136). At each rod an outstanding V command with a hold budget may issue a hold or extension. -/
  | vHoldCheck (p : Part) (rod : Nat)
  /-- `THERMAL_HOLD_NOTICE` (R430). In emergency the module issues a THERMAL hold notice at its scheduled plan rod. -/
  | thermalHoldNotice (p : Part)
  /-- `HOLD_START` (R53). The plan counter reaches a recorded TARGET and stops for the hold. -/
  | holdStart (p : Part)
  /-- `HOLD_END` (R53). A hold has stood (e + 1) × H rods, its entry is removed and counters resume. -/
  | holdEnd (p : Part)
  /-- `LINK_SLOT` (R250). In each link slot the transmitter sends the first eligible flit by precedence. -/
  | linkSlot (q : PortId)
  /-- `FLIT_RECEIVE` (R248). A received flit is checked against the window set and classified, and its header fields are taken. -/
  | flitReceive (q : PortId) (flit : BitVec 2048) (fec : FecReport)
  /-- `HOLD_NOTICE` (R52). A received HOLD notice is checked, recorded and forwarded on the domain's ports. -/
  | holdNotice (q : PortId)
  /-- `INIT` (R266). LCTL INIT is received and, once both INITs are exchanged, the port enters ACTIVE or NARROW. -/
  | init (q : PortId)
  /-- `KA_REQ` (R268). A keep-alive request is received and answered once this end's direction is drained. -/
  | kaReq (q : PortId)
  /-- `KA_ACK` (R268). A keep-alive acknowledgement is received and the port switches to PRBS31 at the next frame. -/
  | kaAck (q : PortId)
  /-- `KA_REQ_RETRY` (R268). A KA_REQ not answered within 400 rods is sent again. -/
  | kaReqRetry (q : PortId)
  /-- `SWAP_REQ` (R271). A swap request for a degraded or failed lane is received and a swap is scheduled, with a hold if planned traffic uses the port. -/
  | swapReq (q : PortId)
  /-- `LANE_SWAP` (R271). At the swap frame the spare lane takes over the data of the named lane. -/
  | laneSwap (q : PortId)
  /-- `PV` (R273). A received PV flit is counted and otherwise not acted on. -/
  | pv (q : PortId)
  /-- `NAK_RESEND` (R257). A hole still unfilled 2h + 6 rods after its last NAK is NAKed again. -/
  | nakResend (q : PortId)
  /-- `GO_BACK_REPLAY` (R259). The ACK has not advanced for 400 rods, so every outstanding flit is replayed. -/
  | goBackReplay (q : PortId)
  /-- `LOSS_OF_SYMBOL_LOCK` (R270). A lane without symbol lock for 1 µs is marked FAILED and a swap follows. -/
  | lossOfSymbolLock (q : PortId) (lane : Fin 5)
  /-- `PRBS31_CHECK` (R269). Errors on a spare or keep-alive lane exceed the PRBS31 window threshold and the lane is marked DEGRADED. -/
  | prbs31Check (q : PortId) (lane : Fin 5) (errors : Nat)
  /-- `ALIGN_LOST` (R36). The receiver phase drifts beyond ±2 cycles and the port carries unplanned traffic only. -/
  | alignLost (q : PortId)
  /-- `TRAIN_START` (R265). The partner starts training and the port enters TRAIN. -/
  | trainStart (q : PortId)
  /-- `TRAIN_COMPLETE` (R265). Training ends and the port enters CALIBRATE, measuring its latency. -/
  | trainComplete (q : PortId) (rx : BitVec 5) (tx : BitVec 5) (roundTrip : Nat)
  /-- `TRAIN_FAILED` (R265). Three training attempts time out and the port enters DOWN. -/
  | trainFailed (q : PortId) (laneOrder : Bool)
  /-- `CALIBRATE_TIMEOUT` (R265). CALIBRATE does not complete within 100 µs and the port enters DOWN. -/
  | calibrateTimeout (q : PortId)
  /-- `KEEPALIVE_EXIT` (R265). An end leaves STANDBY and the port returns through CALIBRATE to ACTIVE. -/
  | keepaliveExit (q : PortId)
  /-- `PWRITE` (R287). A planned packet is written into the receiving half of its bin. -/
  | pwrite (q : PortId)
  /-- `WRITE` (R287). An unplanned write is performed at its destination and answered with STATUS. -/
  | write (q : PortId)
  /-- `READ` (R287). An unplanned read is served and answered with RDATA or STATUS. -/
  | read (q : PortId)
  /-- `RDATA` (R286). Read data is written at the return offset. -/
  | rdata (q : PortId)
  /-- `STATUS` (R288). A status answer completes an outstanding WRITE or READ. -/
  | status (q : PortId)
  /-- `CHAIN` (R352). A chain write lands in a landing slot and is forwarded to the successor. -/
  | chain (q : PortId)
  /-- `MCAST` (R295). A multicast body is written locally and sent on to the next member of the line. -/
  | mcast (q : PortId)
  /-- `PACKET_ROUTE` (R293). A packet at the head of its queue is routed, delivered or left to wait for credit. -/
  | packetRoute (src : PacketSource)
  /-- `REQUEST_TIMEOUT` (R288). A WRITE or READ unanswered after 10 ms completes with TIMEOUT. -/
  | requestTimeout (p : Part) (tag : BitVec 12)
  /-- `PREPARE` (R303). A member receives PREPARE, runs its job start, checks its causes and forwards the PREPARE down the tree. -/
  | prepare (p : Part) (src : Option PortId) (test : SelfTest)
  /-- `VOTE` (R303). A VOTE is received and, once all children have voted, sent up or decided at the root. -/
  | vote (p : Part) (src : Option PortId)
  /-- `COMMIT` (R305). A member loads its plan counter from STAMP, forwards COMMIT and builds its routes. -/
  | commit (p : Part) (src : Option PortId)
  /-- `ABANDON` (R306). A member returns to IDLE on abandonment of its attempt. -/
  | abandon (p : Part) (src : Option PortId)
  /-- `ABORT` (R298). A member stops its plans, enters TEARDOWN and floods the ABORT. -/
  | abort (p : Part) (src : Option PortId)
  /-- `FREEZE` (R300). A member stops originating unplanned packets for a route change. -/
  | freeze (p : Part) (src : Option PortId)
  /-- `DRAINED` (R300). A drained report moves up the start tree. -/
  | drained (p : Part) (src : Option PortId)
  /-- `SWITCH` (R300). A member installs its new route table and resumes origination. -/
  | switch (p : Part) (src : Option PortId)
  /-- `COUNTER_SYNC` (R60). A waking module loads its counter from the parent's value plus the link latency. -/
  | counterSync (value : Option Nat)
  /-- `PREPARE_TIMEOUT` (R297). A PREPARED member without a COMMIT after 200 ms returns to IDLE. -/
  | prepareTimeout (p : Part)
  /-- `VOTE_TIMEOUT` (R303). The root lacks a full COUNT 100 ms after PREPARE. -/
  | voteTimeout (p : Part)
  /-- `REISSUE_DELAY` (R306). 16 ms after abandoning an attempt, the root sends PREPARE for the next attempt. -/
  | reissueDelay (p : Part)
  /-- `ROUTE_DRAIN` (R300). SWITCH has not reached the root 20 ms after FREEZE, and the domain fails. -/
  | routeDrain (p : Part)
  /-- `TEARDOWN_COMPLETE` (R299). Once drained, the member resets its port IDs, enters IDLE and reports the end. -/
  | teardownComplete (p : Part)
  /-- `TEARDOWN_TIMEOUT` (R299). A port not drained 12 ms after teardown entry is taken to DOWN. -/
  | teardownTimeout (p : Part) (q : PortId)
  /-- `STEP_COMMIT` (R318). The firmware's doorbell commits a step table, which the hub locks. -/
  | stepCommit (p : Part) (db : BitVec 64)
  /-- `OUT_RELEASE` (R325). The firmware releases a step's output buffer for reuse. -/
  | outRelease (p : Part) (buf : Fin 2)
  /-- `STEP_GATE` (R319). At a step's gate cycle the hub decides whether the step runs or runs all off. -/
  | stepGate (p : Part)
  /-- `STEP_END` (R324). A member reaches the end of a step without fault, and its firmware writes the clean array. -/
  | stepEnd (p : Part)
  /-- `FIRMWARE_COMMIT` (R325). The lead's firmware commits a step, checking and advancing each request and posting results. -/
  | firmwareCommit (p : Part)
  /-- `RESULT_RECORD_POST` (R379). The firmware writes result records to the result ring when entries are free. -/
  | resultRecordPost (p : Part)
  /-- `TIER_MOVE_COMPLETE` (R331). The pause tier move completes and the lead starts the TTL timer. -/
  | tierMoveComplete (p : Part) (handle : BitVec 32)
  /-- `TTL_EXPIRY` (R332). A paused request's TTL expires, its firkins are freed and END 0x04 is posted. -/
  | ttlExpiry (p : Part) (handle : BitVec 32)
  /-- `SQ_TAIL_DOORBELL` (R365). A doorbell moves a submission tail and makes descriptors visible. -/
  | sqTailDoorbell (f : Fn) (w : Reg)
  /-- `CQ_HEAD_DOORBELL` (R365). A doorbell moves a completion head and frees completion entries. -/
  | cqHeadDoorbell (f : Fn) (w : Reg)
  /-- `RESULT_HEAD_DOORBELL` (R365). A doorbell moves the result head and frees result entries. -/
  | resultHeadDoorbell (f : Fn) (w : Reg)
  /-- `NOP` (R369). A descriptor that completes at once. -/
  | nop (f : Fn) (n : PairId)
  /-- `PLAN_LOAD` (R369). Loads, checks and makes resident a plan image in a plan slot. -/
  | planLoad (f : Fn) (n : PairId)
  /-- `PLAN_DROP` (R370). Empties a plan slot. -/
  | planDrop (f : Fn) (n : PairId)
  /-- `JOB_ABORT` (R370). Fails the partition's member with cause HOST_ABORT according to its state. -/
  | jobAbort (f : Fn) (n : PairId)
  /-- `EXWIN_SET` (R369). Sets or removes the host exchange window. -/
  | exwinSet (f : Fn) (n : PairId)
  /-- `COPY_IN` (R370). Copies host memory into HBM lines. -/
  | copyIn (f : Fn) (n : PairId)
  /-- `COPY_OUT` (R370). Copies HBM lines to host memory, stopping at an uncorrectable line. -/
  | copyOut (f : Fn) (n : PairId)
  /-- `MANIFEST_PUT` (R338). Verifies and makes resident a signed manifest. -/
  | manifestPut (f : Fn) (n : PairId)
  /-- `MANIFEST_DROP` (R369). Drops a resident manifest. -/
  | manifestDrop (f : Fn) (n : PairId)
  /-- `STONE_WRITE` (R340). Writes a stone record to the namespace. -/
  | stoneWrite (f : Fn) (n : PairId)
  /-- `STONE_RECORD_ENTERED` (R340). Once all pages of a record are on flash, it is entered in the stone directory. -/
  | stoneRecordEntered (p : Part) (foff : Nat)
  /-- `STONE_DELETE` (R340). Deletes a directory record once no load or install reads it. -/
  | stoneDelete (f : Fn) (n : PairId)
  /-- `STONE_LOAD` (R345). Checks and starts a load of stones into HBM or the CXL tier. -/
  | stoneLoad (f : Fn) (n : PairId)
  /-- `STONE_RECORD_ARRIVAL` (R346). A stone record has been read, decrypted and digested, and is placed or stops the load. -/
  | stoneRecordArrival (p : Part) (flashUe : Bool)
  /-- `LOAD_ZEROING_COMPLETE` (R347). The zeroing of a failed load's placements ends and the load completes with its status. -/
  | loadZeroingComplete (p : Part)
  /-- `CHAIN_INSTALL` (R351). Starts a chain install of stone records along a row or column. -/
  | chainInstall (f : Fn) (n : PairId)
  /-- `REQ_SUBMIT` (R369). Queues a serving request and copies its prompt. -/
  | reqSubmit (f : Fn) (n : PairId)
  /-- `REQ_CANCEL` (R370). Cancels a serving request. -/
  | reqCancel (f : Fn) (n : PairId)
  /-- `REQ_PAUSE` (R331). Pauses a request in DECODE with a time to live. -/
  | reqPause (f : Fn) (n : PairId)
  /-- `REQ_RESUME` (R332). Resumes a paused request before its expiry. -/
  | reqResume (f : Fn) (n : PairId)
  /-- `PART_ADMIT` (R370). Admits a partition after its checks and reserves its power. -/
  | partAdmit (f : Fn) (n : PairId)
  /-- `PART_RELEASE` (R369). Releases a partition and zeroes its bays. -/
  | partRelease (f : Fn) (n : PairId)
  /-- `NS_CREATE` (R369). Creates a partition's flash namespace. -/
  | nsCreate (f : Fn) (n : PairId)
  /-- `NS_DELETE` (R387). Destroys the namespace key and erases the namespace. -/
  | nsDelete (f : Fn) (n : PairId)
  /-- `CXL_WINDOW_SET` (R231). Checks, zeroes and registers a partition's CXL window. -/
  | cxlWindowSet (f : Fn) (n : PairId)
  /-- `DOMAIN_PUT` (R281). Holds a checked domain descriptor. -/
  | domainPut (f : Fn) (n : PairId)
  /-- `DOMAIN_START` (R303). Starts a domain at the root by sending PREPARE. -/
  | domainStart (f : Fn) (n : PairId)
  /-- `SERVING_PUT` (R311). Holds a serving descriptor. -/
  | servingPut (f : Fn) (n : PairId)
  /-- `TRANSACTION_GROUP` (R372). A whole group is checked and acts all or nothing. -/
  | transactionGroup (f : Fn) (n : PairId)
  /-- `COMPLETION_POST` (R376). Completion entries are written once free places exist. -/
  | completionPost (f : Fn) (n : PairId)
  /-- `RING_DRAIN_COMPLETE` (R364). A DRAINING pair finishes its taken descriptors and enters DISABLED. -/
  | ringDrainComplete (f : Fn) (n : PairId)
  /-- `HOST_MEMORY_ERROR` (R364). A PCIe error on a ring DMA puts the ring in ERROR. -/
  | hostMemoryError (f : Fn) (ring : RingRef)
  /-- `MSIX_COALESCE_TIMER` (R382). COAL_US after the first counted completion, the ring sends its MSI-X message. -/
  | msixCoalesceTimer (f : Fn) (n : PairId)
  /-- `HOT_RESET` (R360). A hot reset, PERST_N or link down disables every ring. -/
  | hotReset
  /-- `VF_FLR` (R360). A VF reset disables its rings and fails its running job. -/
  | vfFlr (p : Part)
  /-- `PF0_FLR` (R360). A PF0 reset disables the PF0 rings. -/
  | pf0Flr
  /-- `HOST_LINK_DEGRADED` (R356). The host link trains to a lower rate or width and the event is reported. -/
  | hostLinkDegraded
  /-- `RINGS_LOST` (R480). When the host link returns, the loss of rings is posted. -/
  | ringsLost
  /-- `UPDATE` (R474). A strobe applies the shadows of the named blocks to their active values. -/
  | update (f : Fn) (w : Reg)
  /-- `RING_RESET` (R363). Writing RESET to a disabled pair resets head, tail and phase. -/
  | ringReset (f : Fn) (ring : RingRef) (w : Reg)
  /-- `EVENT_WRITE_BACK` (R478). Writing back a SEQ value clears the events stamped up to it. -/
  | eventWriteBack (f : Fn) (w : Reg)
  /-- `NODE_ADDR` (R483). A write sets HALL, AISLE and RACK while every port is DOWN. -/
  | nodeAddr (w : Reg)
  /-- `PORT_RELEASE` (R483). Releases an ISOLATED port to TRAIN. -/
  | portRelease (w : Reg)
  /-- `HOLD_REQ` (R483). Issues a HOST_REQUEST hold notice for a partition's domain. -/
  | holdReq (w : Reg)
  /-- `TILE_RETIRE` (R483). Records a host retirement of a physical tile. -/
  | tileRetire (w : Reg)
  /-- `RECOVERY_GO` (R394). In RECOVERY, reads, checks and writes a firmware image, then restarts the hub. -/
  | recoveryGo
  /-- `FIRMWARE_UPDATE` (R395). Outside RECOVERY, checks and writes a new firmware image for the next boot. -/
  | firmwareUpdate
  /-- `SVN_COMMIT` (R395). Raises the fused SVN minimum to the running image's SVN. -/
  | svnCommit
  /-- `REQ_STANDBY` (R417). Requests STANDBY, which is accepted only when the module is idle. -/
  | reqStandby (w : Reg)
  /-- `STANDBY_ENTERED` (R417). The ports reach KEEPALIVE, clocks stop and STANDBY_ENTERED is posted. -/
  | standbyEntered
  /-- `REQ_WAKE` (R418). Wakes the module from STANDBY. -/
  | reqWake (w : Reg)
  /-- `REQ_SHUTDOWN` (R419). Takes the module to OFF. -/
  | reqShutdown (w : Reg)
  /-- `RESTORE_FACTORY` (R426). Discards user calibration and retrains every port and stack. -/
  | restoreFactory (w : Reg) (hbmStacks : BitVec 8)
  /-- `REGISTER_WRITE` (R16). A write to a register field that has no step of its own. -/
  | registerWrite (f : Fn) (off : BitVec 16) (be : BitVec 4) (w : Reg)
  /-- `CFG_PARITY_CHECK` (R475). Every 1 µs, active register values are checked for parity. -/
  | cfgParityCheck (f : Fn) (upset : Option RegUpset)
  /-- `CLOCK_LOCKED` (R34). The PLL holds phase for 10 µs and the clock enters LOCKED. -/
  | clockLocked
  /-- `HOLDOVER_ENTRY` (R35). The reference is lost or the phase error is too large, so running plans stop and the clock enters HOLDOVER. -/
  | holdoverEntry (why : ClockLoss)
  /-- `HOLDOVER_EXIT` (R34). The reference is valid for 100 µs and the clock enters ACQUIRING. -/
  | holdoverExit
  /-- `POWER_APPLIED` (R455). A qualified 56 V input starts the power stage and the start-up sequence. -/
  | powerApplied (mv : Nat) (present : Bool) (straps : BitVec 8) (flow : Nat)
  /-- `SECURE_BOOT` (R393). The boot ROM verifies and starts the firmware image and checks calibration. -/
  | secureBoot (flash : FlashFound)
  /-- `START_NO_REFERENCE` (R422). No parent reference arrives within 100 ms at start-up. -/
  | startNoReference
  /-- `STARTUP_CALIBRATION` (R423). Step 6 applies repairs, tile maps and training results, and STARTUP_DONE is posted. -/
  | startupCalibration (test : SelfTest) (found : Found)
  /-- `INPUT_UV` (R456). An input undervoltage takes the module to OFF. -/
  | inputUv (mv : Nat) (us : Nat) (present : Bool)
  /-- `INPUT_OV` (R456). An input overvoltage takes the module to OFF and latches. -/
  | inputOv (mv : Nat) (us : Nat)
  /-- `INPUT_OC` (R454). An input overcurrent takes the module to OFF and latches. -/
  | inputOc (ma : Nat) (us : Nat)
  /-- `LEAK_DETECTED` (R467). The leak sensor finds liquid and the module goes OFF. -/
  | leakDetected
  /-- `THERMAL_SAMPLE` (R429). Every 10 ms the emergency bit is sampled and the thermal step updated. -/
  | thermalSample (r : Sensors)
  /-- `CRITICAL_SENSOR_READ` (R431). Every 100 µs the sensors are read for critical values. -/
  | criticalSensorRead (r : Sensors)
  /-- `TELEMETRY_CAPTURE` (R435). Every 10 ms a snapshot of the counters is captured and exchanged. -/
  | telemetryCapture (m : Meters)
  /-- `POWER_ON` (R464). An I3C command clears a latched fault and starts the module. -/
  | powerOn (args : List Byte)
  /-- `POWER_OFF` (R464). An I3C command takes the module to OFF. -/
  | powerOff (args : List Byte)
  /-- `WAKE` (R464). An I3C wake source. -/
  | wake (args : List Byte)
  /-- `I3C_SELECT` (R464). Chooses the status block that I3C reads return. -/
  | i3cSelect (args : List Byte)
  /-- `I3C_DYNAMIC_ADDRESS` (R463). SETDASA or ENTDAA assigns the target's dynamic address. -/
  | i3cDynamicAddress (addr : BitVec 7)
  /-- `SCRUB` (R238). A reserved-share scrub reads, corrects and rewrites lines. -/
  | scrub (line : LineRef)
  /-- `HBM_PHY_CALIBRATION` (R238). Periodic calibration of an HBM pseudo-channel in reserved rods. -/
  | hbmPhyCalibration (bay : Fin 8) (pc : Fin 32)
  /-- `CORRECTED_LINE_REWRITE` (R226). A corrected line is rewritten in the reserved share. -/
  | correctedLineRewrite (line : LineRef)
  /-- `INTERVAL_CHECK` (R349). A pass re-digests the resident stones at each interval. -/
  | intervalCheck (p : Part)
  /-- `HBM_ROW_REPAIR` (R433). A due HBM row is repaired when the conditions allow. -/
  | hbmRowRepair (bay : Fin 8) (pc : Fin 32) (row : Nat)
  /-- `REENCRYPTION_PAGE` (R408). The rotation pass re-encrypts one page under CUR. -/
  | reencryptionPage (p : Part)
  /-- `TIER_PAGE_ACK` (R406). A device acknowledgement moves a page between tier slot counts. -/
  | tierPageAck (p : Part) (page : Nat)
  /-- `CXL_DEVICE_FAIL` (R231). A CXL device fails and later accesses give target not present. -/
  | cxlDeviceFail (x : Fin 2)
  /-- `FLASH_SPARE_EXHAUSTED` (R343). Flash spare blocks run out and namespace writes are refused. -/
  | flashSpareExhausted
  /-- `TILE_FAILED` (R98). A tile fails while a job runs and its partition's plans stop. -/
  | tileFailed (t : TileId)
  /-- `CONTEXT_SLICE` (R388). A control core switches to the next firmware context of its fixed rotation. -/
  | contextSlice (core : Fin 4)
  /-- `GET_VERSION` (R397). SPDM request for the supported version. -/
  | getVersion (f : Fn) (msg : List Byte)
  /-- `GET_CAPABILITIES` (R397). SPDM request for capabilities. -/
  | getCapabilities (f : Fn) (msg : List Byte)
  /-- `NEGOTIATE_ALGORITHMS` (R397). SPDM algorithm negotiation. -/
  | negotiateAlgorithms (f : Fn) (msg : List Byte)
  /-- `GET_DIGESTS` (R397). SPDM request for certificate digests. -/
  | getDigests (f : Fn) (msg : List Byte)
  /-- `GET_CERTIFICATE` (R397). SPDM request for the slot 0 certificate chain. -/
  | getCertificate (f : Fn) (msg : List Byte)
  /-- `CHALLENGE` (R397). SPDM challenge signed with the Alias or partition key. -/
  | challenge (f : Fn) (msg : List Byte)
  /-- `GET_MEASUREMENTS` (R398). SPDM request for signed measurement blocks. -/
  | getMeasurements (f : Fn) (msg : List Byte)
  /-- `CHUNK_SEND` (R397). SPDM chunked request transfer. -/
  | chunkSend (f : Fn) (msg : List Byte)
  /-- `CHUNK_GET` (R397). SPDM chunked response retrieval. -/
  | chunkGet (f : Fn) (msg : List Byte)
  /-- `UNSUPPORTED_REQUEST` (R397). Any other SPDM request is answered with UnsupportedRequest. -/
  | unsupportedRequest (f : Fn) (msg : List Byte)
  /-- `ENCAP_GET` (R401). Returns the partition's ML-KEM encapsulation key and admission counter. -/
  | encapGet (f : Fn) (msg : List Byte)
  /-- `KEY_PUT` (R403). Unwraps a key release package into a model slot. -/
  | keyPut (f : Fn) (msg : List Byte)
  /-- `KEY_DROP` (R404). Empties a model slot. -/
  | keyDrop (f : Fn) (msg : List Byte)
  /-- `TIER_ROTATE` (R407). Installs a new tier key as CUR and starts the re-encryption pass. -/
  | tierRotate (f : Fn) (msg : List Byte)
  /-- `KEY_STATUS` (R401). Reports model slot occupancy and tier key state. -/
  | keyStatus (f : Fn) (msg : List Byte)
  /-- `OSC_FAIL` (R421). The oscillator is not stable within the 10 ms bound of start-up step 2, so the module stays OFF and reports OSC_FAIL over I3C. -/
  | oscFail
  /-- `BAY_ZEROING_COMPLETE` (R221). The zeroing of a departing bay's HBM stack and local stores ends, so the bay becomes admissible and PART_RELEASE completes. -/
  | bayZeroingComplete (bay : Fin 8)
  /-- `NAMESPACE_ERASE_COMPLETE` (R387). The block erasure of a deleted namespace ends and NS_DELETE completes. -/
  | namespaceEraseComplete (p : Part)
  /-- `WINDOW_ZEROING_COMPLETE` (R231). Every page of a new CXL window has been written as zero under CUR, the window becomes registered and CXL_WINDOW_SET completes. -/
  | windowZeroingComplete (p : Part)
  /-- `COPY_COMPLETE` (R370). A COPY_IN or COPY_OUT finishes moving its lines, or stops at an uncorrectable line, and completes. -/
  | copyComplete (f : Fn) (n : PairId)
  /-- `TABLE_BUFFER_WRITE` (R318). The serving firmware writes a step-table buffer, and the hub refuses the write if the buffer is locked. -/
  | tableBufferWrite (p : Part) (buf : Fin 2) (line : Nat) (data : BitVec 512)
  deriving DecidableEq, Repr, Inhabited

end Sys2Proof
end

