-- ==== Sys2Proof/Decode.lean ====
section
/-!
DEFINITION. The commands that a word of the table spells. No row of spec/opcode_table.json gives bits: a
command of this block is an event with its operands, so no word spells one. (The command words of the
instruction memories are data of the block: Sys2Proof.Machine.Operands reads their fields.)
-/
namespace Sys2Proof

/-- The command that a word of nbits bits spells by the table's bits: none. -/
def decodeTableWord (_nbits _w : Nat) : Option Instr := none

end Sys2Proof
end

