-- ==== Sys2Proof/Machine/State.lean ====
section
/-!
DEFINITION. The state of the module as plain data, its fault and refusal reasons, and the state right
after reset: everything the spec gives the machine, and the queue of commands that wait. A comment beside
a field names the rule of spec/ that gives it. Cycles and wall nanoseconds are one unit (R10: one cycle is
1 ns).
-/
namespace Sys2Proof.Machine

/-- A map from natural keys in one canonical form: keys strictly rising, no entry equal to what an
unlisted key reads as. -/
abbrev Sparse (α : Type) := List (Nat × α)

/-- A byte memory in the same form: an unlisted address reads as zero. -/
abbrev Mem := List Host.Cell

/-! ### Reasons to stop -/

/-- Why the machine stops. Raised where the spec gives the module no behaviour at all. -/
inductive Fault where
  /-- Raised by POWER_APPLIED and INPUT_OV where an input above 72 V damages the module: Table PHY-1 says that damage is
  possible, and no rule gives a damaged module a state. Safe: the model stops where the hardware may do anything. -/
  | inputDamage
  deriving DecidableEq, Repr, Inhabited

/-- Why a command is refused. -/
inductive Refusal where
  /-- Raised by the dispatcher alone, for a row that has no meaning yet. Safe. -/
  | notModelled (mnemonic : String)
  deriving DecidableEq, Repr, Inhabited

/-! ### The tile (03, 04, 05, 07) -/

/-- A counter of telemetry: 63-bit count that stops at its maximum, and its overflow bit (R484). -/
structure Cnt where
  n : Nat := 0
  ovf : Bool := false
  deriving DecidableEq, Repr, Inhabited

/-- A location of a fault record (R444): logical tile, stream, command index (0xFFFF where there is no
command), ITER0 and ITER1. -/
structure Loc where
  tile : Nat
  stream : Stream
  index : Nat
  iter0 : Nat
  iter1 : Nat
  deriving DecidableEq, Repr, Inhabited

/-- A fault or hazard record (Table CHK-3). -/
structure FaultRec where
  code : Nat
  cause : Nat
  seq : Nat
  cycle : Nat
  locA : Option Loc
  locB : Option Loc
  object : Nat
  ptileA : Option Nat
  ptileB : Option Nat
  /-- Of a MEM_UE: its partition-relative bay (R228). -/
  bay : Nat := 0
  deriving DecidableEq, Repr, Inhabited

/-- One open REPEAT of a stream (R109): index of the first command of its body, LEN, COUNT, the pass
number, and whether the REPEAT itself was skipped (R112). -/
structure Loop where
  first : Nat
  len : Nat
  count : Nat
  pass : Nat
  skipped : Bool
  deriving DecidableEq, Repr, Inhabited

/-- An instruction stream of a tile (R62, R63, R78, R109, R112). -/
structure StreamState where
  /-- Index of the next command in program order (R63). -/
  pc : Nat := 0
  /-- An END has issued (R78). -/
  ended : Bool := false
  /-- Open repeats, innermost first; at most 4 (R109). -/
  loops : List Loop := []
  /-- Predicate register (R112): zero at T0. -/
  pred : Word64 := 0
  /-- Earliest plan cycle of the next issue: one command per cycle (R63). -/
  nextIssue : Nat := 0
  /-- Index of the last command issued (R79, IMEM_BOUNDS). -/
  lastIndex : Nat := 0
  /-- First cycle of the present stall (R446). -/
  stalledAt : Option Nat := none
  deriving DecidableEq, Repr, Inhabited

/-- A reserved place of a data queue (R70): its reservation number, and the entry with its completion
cycle once it is written. -/
structure QSlot where
  id : Nat
  entry : Option (BitVec 64 × Nat) := none
  deriving DecidableEq, Repr, Inhabited

/-- A data queue of 64 places (R68 to R71): reservations oldest first, the latest completion and the
latest visibility among the entries already popped, and the places popped in cycle popCycle, which
are free only from the next cycle. -/
structure Queue where
  slots : List QSlot := []
  prevDone : Nat := 0
  prevVis : Nat := 0
  popCycle : Nat := 0
  popCount : Nat := 0
  deriving DecidableEq, Repr, Inhabited

/-- The cycle from which each engine and each local-store class is free (R64, R82, Table TIL-3). -/
structure UnitFree where
  matrix : Nat := 0
  matRead : Nat := 0
  matWrite : Nat := 0
  vecUnit : Nat := 0
  vecRead : Nat := 0
  vecWrite : Nat := 0
  trans : Nat := 0
  selector : Nat := 0
  meshIn : Nat := 0
  meshOut : Nat := 0
  deriving DecidableEq, Repr, Inhabited

/-- One accumulator cell: the exact sum S and the invalid mark (R182). -/
structure AccCell where
  sum : Int := 0
  invalid : Bool := false
  deriving DecidableEq, Repr, Inhabited

/-- An accumulator set (R127, R149, R182): open or closed, recorded anchor, the cells by 256r + c. -/
structure AccSet where
  isOpen : Bool := false
  anchor : Int := 0
  cells : Sparse AccCell := []
  deriving DecidableEq, Repr, Inhabited

/-- An entry of a bushel group (Table BSH-3). -/
structure BEntry where
  score : Reg
  src : Nat
  rank : Nat
  rerouted : Bool
  deriving DecidableEq, Repr, Inhabited

/-- The state of a bushel group (R203, R204): the occupied entries by entry number, and the counts of the
status line. The fill count of a bushel is the number of its entries. -/
structure Group where
  entries : List (Nat × BEntry) := []
  rowNext : Nat := 0
  dropped : Nat := 0
  rerOut : Nat := 0
  rerIn : Nat := 0
  deriving DecidableEq, Repr, Inhabited

/-- What a command changes at its completion (R65, R70, R74). -/
structure Landing where
  /-- Local-store writes: byte address and bytes. -/
  writes : List (Nat × Bytes) := []
  /-- HBM writes: stack, byte address, bytes. -/
  hbmWrites : List (Nat × Nat × Bytes) := []
  vreg : Option (Nat × List Reg) := none
  acc : Option (Nat × AccSet) := none
  pred : Option (Word64 × Word64) := none
  fset : Option (Nat × Nat) := none
  groups : List (Nat × Group) := []
  /-- Writes of an on-module SEND: destination logical tile, byte address, bytes (R123). -/
  mesh : List (Nat × Nat × Bytes) := []
  selChoices : Nat := 0
  selDropped : Nat := 0
  selRerouted : Nat := 0
  sat : Bool := false
  invalid : Bool := false
  /-- Of a SEND that leaves the module: port, furlong and slots of its flits (R124). -/
  sentOn : Option (Nat × Nat × List Nat) := none
  deriving DecidableEq, Repr, Inhabited

/-- A local-store line that a command touches beside another command's unordered access (R85): its bytes as the command
sees them, and the command in flight that wrote them, by stream and issue cycle, where one did. -/
structure SeenLine where
  line : Nat
  bytes : Bytes
  writer : Option (Stream × Nat) := none
  deriving DecidableEq, Repr, Inhabited

/-- What a command in flight worked on at its issue beside the lines of the local store: its pops, its repeat, and the
registers, sets, seed and groups it saw. -/
structure AtIssue where
  popA : BitVec 64
  popB : BitVec 64
  n0 : Nat
  fur : Nat
  vregs : List (Nat × List Reg)
  sets : Vector AccSet 2
  seed : BitVec 256
  work : List (Nat × Group)
  groups : List (Nat × Group)
  released : List Nat
  deriving DecidableEq, Repr

/-- A command issued and not completed (R65, R67, R70, R74). -/
structure Inflight where
  stream : Stream
  index : Nat
  iter0 : Nat
  iter1 : Nat
  op : Nat
  issue : Nat
  complete : Nat
  skipped : Bool
  /-- Reserved queue place and the entry it will hold. -/
  push : Option (Nat × Nat × BitVec 64) := none
  /-- Flag and count signalled. -/
  sig : Option (Nat × Nat) := none
  /-- Vector register written, for the interlock (R67). -/
  wreg : Option Nat := none
  /-- Accumulator set named, for the interlock (R67). -/
  acc : Option Nat := none
  /-- Bins read (R122). -/
  bins : List Nat := []
  /-- Local-store lines read and written: first line and count of each contiguous run (R448). -/
  reads : List (Nat × Nat) := []
  writes : List (Nat × Nat) := []
  /-- Predicate bits a PSET writes (R448). -/
  predMask : Word64 := 0
  /-- Lines it reads beside an unordered write, as it sees them, and lines it writes that another unordered write
  reaches last (R85). -/
  seen : List SeenLine := []
  lost : List Nat := []
  /-- What it works on, where it reads lines. -/
  inputs : Option AtIssue := none
  landing : Landing := {}
  deriving DecidableEq, Repr, Inhabited

/-- The external part of a V command (R135, R137). -/
inductive ExtState where
  | pending
  /-- Finished with its data. -/
  | done (data : Bytes)
  /-- Ended in error: cause of V_DATA_ERROR and byte offset. -/
  | failed (cause offset : Nat)
  deriving DecidableEq, Repr, Inhabited

/-- A page of the CXL tier that a V write has replaced: window page, port, device page, what it and its metadata record
held, and the record that the write left. -/
structure PageUndo where
  page : Nat
  port : Fin 2
  n : Nat
  data : Bytes
  record : Bytes
  wrote : Bytes
  deriving DecidableEq, Repr, Inhabited

/-- A held V entry (R133 to R138). -/
structure VEntry where
  index : Nat
  iter0 : Nat
  iter1 : Nat
  op : Nat
  issue : Nat
  deadline : Nat
  vhold : Nat
  used : Nat
  skipped : Bool
  /-- The read has entered the mesh-in class and completes as an in-flight command. -/
  entered : Bool
  ext : ExtState
  first : Nat
  rows : Nat
  cols : Nat
  stride : Nat
  xaddr : Nat
  /-- Write data read at issue (R135). -/
  data : Bytes
  /-- Firkins of CXL_GATHER: position in LREF in lines, window page, and lines (R164). -/
  firkins : List (Nat × Nat × Nat)
  /-- An error found when the access took effect, reported at its external completion: cause, offset. -/
  error : Option (Nat × Nat)
  /-- Local-store runs it reads from its issue (R448), and bins it reads (R122). -/
  touch : List (Nat × Nat)
  bins : List Nat := []
  /-- Its source could not be read, so no external access is made (Table MEM-3). -/
  barred : Bool := false
  /-- Pages of the CXL tier that a write has replaced and that its discarding puts back (R137). -/
  undo : List PageUndo := []
  push : Option (Nat × Nat × BitVec 64)
  sig : Option (Nat × Nat)
  deriving DecidableEq, Repr, Inhabited

/-- What takes effect at the end of the present cycle (R75, R112, R115, R122, R163, R215). -/
inductive EndEffect where
  | flagSub (flag count : Nat) (loc : Loc)
  | flagAdd (flag count : Nat) (loc : Loc)
  | flagSet (flag value : Nat) (loc : Loc)
  | pred (st : Stream) (mask value : Word64) (loc : Loc)
  | release (bin : Nat) (loc : Loc)
  | seed (v : BitVec 256) (loc : Loc)
  | group (g : Nat) (state : Group)
  deriving DecidableEq, Repr, Inhabited

/-- A protected cell of a tile other than a line (Table MEM-2): an entry of a queue by its reservation number, a flag, a
vector register, a set. -/
inductive CellRef where
  | queue (q id : Nat)
  | flag (f : Nat)
  | vreg (r : Nat)
  | acc (a : Nat)
  deriving DecidableEq, Repr, Inhabited

/-- One line of planned flits written into a bin while the plan counter stands: the line, the slot of the mesh-in class
that served its bank, and the wall cycle of that slot (R81). -/
structure BinWrite where
  line : Nat
  slot : Nat
  cycle : Nat
  deriving DecidableEq, Repr, Inhabited

/-- A logical tile (R62, Table TIL-1). -/
structure Tile where
  /-- Instruction memories, 4,096 commands each; a word not listed is zero (R77). -/
  codeA : List CmdWord := []
  codeX : List CmdWord := []
  /-- Commands whose SECDED word is upset: stream, index, double error (R79). -/
  imemErr : List (Stream × Nat × Bool) := []
  /-- Shape table, 256 entries of 8 bytes (R105). -/
  shapes : List (BitVec 64) := []
  /-- Bin declarations, 64 of 8 bytes (R120). -/
  bins : List (BitVec 64) := []
  /-- Transfer table, 16 bytes an entry (R123). -/
  xfers : List (BitVec 128) := []
  /-- Bushel group declarations, 32 of 32 bytes (R201). -/
  decls : List (BitVec 256) := []
  acc : StreamState := {}
  exe : StreamState := {}
  queues : Vector Queue 16 := Vector.replicate 16 {}
  /-- Counting flags, 64 of 16 bits (R73). -/
  flags : Sparse Nat := []
  units : UnitFree := {}
  /-- Vector registers, 32 of 512 lanes (R62); an unlisted register is all zero. -/
  vregs : List (Nat × List Reg) := []
  sets : Vector AccSet 2 := Vector.replicate 2 {}
  inflight : List Inflight := []
  /-- Held V entries, at most 8 (R133). -/
  ventries : List VEntry := []
  /-- Bins whose valid half has been released in the present furlong (R121, R122), and transfers whose SEND has issued in
  it (R45). -/
  released : List Nat := []
  sends : List Nat := []
  /-- The bin lines written in the standing hold: line, mesh-in slot and wall cycle of each (R81). -/
  holdWrites : List BinWrite := []
  /-- Rounding seed (R151). -/
  seed : BitVec 256 := 0
  /-- Sticky status (R184). -/
  sat : Bool := false
  invalid : Bool := false
  /-- Group state as the selector holds it after the SELECTs issued, and as published (R215). -/
  groupsWork : List (Nat × Group) := []
  groups : List (Nat × Group) := []
  atEnd : List EndEffect := []
  /-- Next reservation number. -/
  nextId : Nat := 0
  /-- Cells with an uncorrectable error (R227), and with a correctable one (R226). -/
  cellErr : List CellRef := []
  cellSoft : List CellRef := []
  /-- Choices made, dropped and re-routed by its SELECTs (R218). -/
  selChoices : Cnt := {}
  selDropped : Cnt := {}
  selRerouted : Cnt := {}
  /-- The watchdog has raised STREAM_DEADLOCK for this job (R446). -/
  deadRaised : Bool := false
  deriving DecidableEq, Repr, Inhabited

/-! ### Links (09) and packets (10) -/

/-- Port states (Table LNK-7). -/
inductive PortSt where
  | down | train | calibrate | active | narrow | keepalive | isolated
  deriving DecidableEq, Repr, Inhabited

/-- One lane of a direction of a port (R241, R270). -/
structure Lane where
  /-- Carries data. -/
  active : Bool := true
  degraded : Bool := false
  failed : Bool := false
  /-- A swap has taken its data (R271): it stays failed for good (R432). -/
  swapped : Bool := false
  deriving DecidableEq, Repr, Inhabited

/-- A flit as it is handed to the transmitter: what a replay keeps (R246). -/
structure TxFlit where
  type : Nat
  vc : Nat
  sop : Bool
  eop : Bool
  domain : BitVec 16
  payload : Bytes
  /-- For a planned flit: its deadline plan rod and the nominal rods from here to its destination (R48). -/
  deadline : Nat := 0
  rem : Nat := 0
  /-- A planned flit of a running plan (VC PL). -/
  planned : Bool := false
  deriving DecidableEq, Repr, Inhabited

/-- A flit as it goes on the lanes in one slot: the 64-bit header word, payload, check (R245, R247). -/
structure WireFlit where
  header : BitVec 64
  payload : Bytes
  check : BitVec 64
  /-- Its sequence number, which is not transmitted (R247); 0xFFFF for IDLE. -/
  seq : Nat
  deriving DecidableEq, Repr, Inhabited

/-- An outstanding flit in the replay buffer (R254). -/
structure Outst where
  seq : Nat
  flit : TxFlit
  deriving DecidableEq, Repr, Inhabited

/-- A packet assembled from DATA flits (R285): VC, header word, body bytes, flit count, arrival cycle. -/
structure Packet where
  vc : Nat
  header : BitVec 128
  body : Bytes
  flits : Nat
  /-- Wall cycle since which it stands at the head of its queue, and that of the delivery of its first flit. -/
  since : Nat
  first : Nat := 0
  domain : BitVec 16
  deriving DecidableEq, Repr, Inhabited

/-- A packet being received on one VC of a port (R261), and the wall cycle of its first flit. -/
structure Partial where
  payload : Bytes
  flits : Nat
  domain : BitVec 16
  first : Nat := 0
  deriving DecidableEq, Repr, Inhabited

/-- A planned flit with the plan slot index that the slot tables give it on this port (R290). -/
structure PlannedFlit where
  slot : Nat
  furlong : Nat
  flit : TxFlit
  deriving DecidableEq, Repr, Inhabited

/-- An entry of a fence log (R487). -/
structure FenceRec where
  header : BitVec 128
  domain : BitVec 16
  vc : Nat
  deriving DecidableEq, Repr, Inhabited

/-- A hole of the receiver (R255, R257): the missing number and the wall cycle of its last NAK. -/
structure Hole where
  seq : Nat
  lastNak : Option Nat
  deriving DecidableEq, Repr, Inhabited

/-- Counts of a port (R276, Table REG-7). -/
structure PortCnt where
  corrupt : Cnt := {}
  symbols : Vector Cnt 5 := Vector.replicate 5 {}
  uncorrectable : Cnt := {}
  duplicates : Cnt := {}
  beyond : Cnt := {}
  selReplays : Cnt := {}
  goBacks : Cnt := {}
  stallRods : Cnt := {}
  displaced : Cnt := {}
  violations : Vector Cnt 9 := Vector.replicate 9 {}
  stateChanges : Cnt := {}
  /-- PV flits received (R273), and flits discarded on entry to DOWN (R267). -/
  pvReceived : Cnt := {}
  discarded : Cnt := {}
  deriving DecidableEq, Repr, Inhabited

/-- A link port (09). -/
structure Port where
  st : PortSt := .down
  /-- Lane roles: user calibration (R241). -/
  txLanes : Vector Lane 5 := #v[{}, {}, {}, {}, { active := false }]
  rxLanes : Vector Lane 5 := #v[{}, {}, {}, {}, { active := false }]
  /-- Calibrated one-way latency in cycles: user calibration (R36). -/
  latency : Option Nat := none
  /-- TRAIN ended with fewer than four good lanes in a direction (R265). -/
  narrowBuild : Bool := false
  /-- The last training report: 0 none, 1 TRAIN_FAILED, 2 TRAIN_FAILED with cause LANE_ORDER (R459), 3 LINK_TOO_LONG
  (R260). -/
  trainReport : Nat := 0
  /-- Training uses stored calibration (R265, R426). -/
  stored : Bool := false
  enteredAt : Nat := 0
  /-- The receiver phase has drifted: unplanned traffic only until retraining (R36). -/
  alignLost : Bool := false
  /-- Domain ID of the port (R283), and that of the last good flit received (Table FAB-11, ID_CONFLICT). -/
  domain : BitVec 16 := 0
  rxDomain : BitVec 16 := 0
  /-- Partner node and port, from its INIT (R266). -/
  partner : Option (BitVec 24 × Nat) := none
  initSent : Bool := false
  initRcvd : Option (List Nat) := none
  /-- Transmitter (R254 to R264). -/
  nextSeq : Nat := 0
  ackTaken : Nat := 0
  replayBuf : List Outst := []
  /-- Numbers waiting for their replay, the wall cycle from which it may start, and whether a go-back replay put it there
  (R258, R259). -/
  replayQ : List (Nat × Nat × Bool) := []
  displacedQ : List TxFlit := []
  credits : Vector Nat 5 := Vector.replicate 5 0
  crTaken : Vector Nat 5 := Vector.replicate 5 0
  crPending : List (Nat × Nat × Nat) := []
  lastVc : Nat := 5
  nextCrvc : Nat := 1
  planned : List PlannedFlit := []
  txHold : List TxFlit := []
  txLctl : List TxFlit := []
  txPv : List TxFlit := []
  txVc : Vector (List TxFlit) 5 := Vector.replicate 5 []
  /-- Wall cycle before which no further slot starts, and the flit in the last slot sent (R243). -/
  slotAt : Nat := 0
  sent : Option WireFlit := none
  ackSince : Nat := 0
  goBackRun : Nat := 0
  kaSent : Option Nat := none
  kaRcvd : Bool := false
  /-- A swap of this end's transmit direction waiting for its frame: physical lane, and the plan cycle of the hold from
  which on it may take place, where it awaits one (R271). -/
  swapLane : Option Nat := none
  swapTarget : Option Nat := none
  /-- Frames (R243): wall cycle at which the present transmit frame began, and its count; slots received since the frames
  of the partner began. -/
  txFrameAt : Nat := 0
  txFrame : Nat := 0
  rxSlots : Nat := 0
  /-- Symbol errors by lane of the codeword that the last received slot ended in (R244); the markers of the present frame
  disagree with the lane mapping (R271). -/
  fecOpen : List Nat := []
  rxDiscard : Bool := false
  /-- Receiver (R255 to R263). -/
  ack : Nat := 0
  next : Nat := 0
  held : List (Nat × BitVec 64 × Bytes) := []
  holes : List Hole := []
  nakQ : List (Nat × Nat) := []
  /-- DATA flits of VCs 1 to 5 received new, places freed, and places freed at the last report sent (R262, R273). -/
  used : Vector Nat 5 := Vector.replicate 5 0
  freed : Vector Nat 5 := Vector.replicate 5 0
  reported : Vector Nat 5 := Vector.replicate 5 0
  partials : Vector (Option Partial) 6 := Vector.replicate 6 none
  pkts : Vector (List Packet) 6 := Vector.replicate 6 []
  /-- Delivered HOLD and LCTL payloads, each with its header and sequence number, and PV payloads. -/
  rxHold : List (Bytes × BitVec 64 × Nat) := []
  rxLctl : List (Bytes × BitVec 64 × Nat) := []
  rxPv : List Bytes := []
  /-- Error window (R269, R270): slots counted, and the counts of the present window. -/
  slots : Nat := 0
  winCorrupt : Nat := 0
  winSymbols : Vector Nat 5 := Vector.replicate 5 0
  winViol : Nat := 0
  counts : PortCnt := {}
  violLog : List Bytes := []
  fenceLog : List FenceRec := []
  deriving DecidableEq, Repr, Inhabited

/-! ### Holds, jobs and members (02, 10, 16) -/

/-- A recorded hold (R52): TARGET, largest EXT, and REASON and ORIGIN of the notice recorded with it. -/
structure HoldEntry where
  target : Nat
  ext : Nat
  reason : Nat
  origin : BitVec 24
  deriving DecidableEq, Repr, Inhabited

/-- The timing parameters of a domain (R40, R41). -/
structure Params where
  n : Nat := 8
  g : Nat := 1
  h : Nat := 128
  s : Nat := 0
  d : Nat := 0
  pathLat : Nat := 0
  deriving DecidableEq, Repr, Inhabited

/-- Member states (Table FAB-8). -/
inductive MemberSt where
  | idle | prepared | committed | running | teardown
  deriving DecidableEq, Repr, Inhabited

/-- A link record of a domain descriptor (Table FAB-2). -/
structure LinkRec where
  nodeA : BitVec 24
  portA : Nat
  nodeB : BitVec 24
  portB : Nat
  deriving DecidableEq, Repr, Inhabited

/-- A domain descriptor (R281), parsed, with its bytes. -/
structure DomainDesc where
  domain : BitVec 16
  fexp : Nat
  sealUse : Bool
  xw : Nat
  yw : Nat
  root : Nat
  greq : Nat
  hreq : Nat
  plan : BitVec 256
  sealDigest : BitVec 256
  members : List (BitVec 24 × BitVec 8)
  links : List LinkRec
  raw : Bytes
  deriving DecidableEq, Repr, Inhabited

/-- The slots of one planned transfer (R290): source member, source tile index, XFER, destination member,
bay of the destination and bay offset in an even furlong, bytes of a half of the bin, cycle of the furlong at whose end its source read completes, the slot
index of each flit on the first hop, and each hop with its member, port and the slots it lies behind. -/
structure SendPlan where
  member : Nat
  tile : Nat
  xfer : Nat
  dst : Nat
  dbay : Nat
  offset : Nat
  half : Nat
  occ : Nat := 0
  readEnd : Nat
  slots : List Nat
  hops : List (Nat × Nat × Nat)
  /-- Nominal rods from the sender to the destination. -/
  rem : Nat
  deriving DecidableEq, Repr, Inhabited

/-- The slot tables of a domain (R290, R291): the transfers of each furlong evaluated, and the stretches of
furlongs that repeat earlier ones: first furlong, length, furlong repeated, period (R439). -/
structure Schedule where
  furlongs : List (Nat × List SendPlan) := []
  skips : List (Nat × Nat × Nat × Nat) := []
  deriving DecidableEq, Repr, Inhabited

/-- A retained seal with its set-up (R307, R308). -/
structure Retained where
  sealDigest : BitVec 256
  params : Params
  latency : List Nat
  sched : Schedule
  valid : Bool
  deriving DecidableEq, Repr, Inhabited

/-- The VOTE a member has taken from a tree child (R303). -/
structure VoteRec where
  child : Nat
  count : Nat
  cause : Nat
  origin : BitVec 24
  /-- Latency records: link index, cycles, DOWN. -/
  latency : List (Nat × Nat × Bool)
  /-- Stepping records: member index, stepping code. -/
  stepping : List (Nat × Nat)
  deriving DecidableEq, Repr, Inhabited

/-- A PREPARE that a member holds (R303), whether or not it accepted it: its own outcome of the checks of Table
FAB-11, its place in the start tree, and the VOTEs taken from its tree children. -/
structure StartRec where
  domain : BitVec 16
  attempt : Nat
  /-- Wall cycle of its arrival. -/
  since : Nat
  excl : List Nat
  sealed : Bool
  sealDigest : BitVec 256
  /-- Member index and port of each tree child, and the port to the parent. -/
  children : List (Nat × Nat)
  parentPort : Option Nat
  cause : Nat
  votes : List VoteRec := []
  voted : Bool := false
  deriving DecidableEq, Repr, Inhabited

/-- An unplanned request whose answer is awaited (R288). -/
structure PendReq where
  tag : BitVec 12
  kind : Nat
  sentAt : Nat
  done : Option Nat
  deriving DecidableEq, Repr, Inhabited

/-- A management message waiting to be handled by the partition itself (the root's own PREPARE, VOTE,
COMMIT and so on): the message bytes of Table FAB-9 and its lines (R301, R303). -/
abbrev MgMsg := Bytes

/-- A member of a job domain (R297 to R308). -/
structure Member where
  st : MemberSt := .idle
  desc : Option DomainDesc := none
  /-- The PREPARE held (R303). -/
  start : Option StartRec := none
  attempt : Nat := 0
  /-- Wall cycle of acceptance of the PREPARE, or of entry to TEARDOWN. -/
  since : Nat := 0
  /-- Excluded links, tree children and parent port of the accepted start. -/
  excl : List Nat := []
  children : List (Nat × Nat) := []
  parentPort : Option Nat := none
  params : Params := {}
  t0 : Nat := 0
  latency : List Nat := []
  ready : Bool := false
  /-- The module has lost lock while the member was PREPARED (R61). -/
  unlocked : Bool := false
  sealed : Bool := false
  /-- This member's own seal of the job (R307). -/
  sealDigest : BitVec 256 := 0
  sched : Schedule := {}
  retained : Option Retained := none
  /-- JOB_ABORT held until the attempt ends (R370): function and ring. -/
  abortHeld : Option (Nat × Nat) := none
  /-- Failure cause of the job, and later ABORTs logged (R298). -/
  failed : Option Nat := none
  aborts : List Bytes := []
  /-- Root: the ring that waits for DOMAIN_START, the present attempt (0 when none is under way), its exclusions,
  whether it is sealed, wall cycle of its PREPARE, and of its abandonment. -/
  startRing : Option (Nat × Nat) := none
  rootAttempt : Nat := 0
  rootExcl : List Nat := []
  rootSealed : Bool := false
  preparedAt : Option Nat := none
  reissueAt : Option Nat := none
  /-- Messages to itself (R303: the root is a member). -/
  inbox : List MgMsg := []
  /-- Route change (R300). -/
  freezeGen : Nat := 0
  frozen : Bool := false
  drained : List Nat := []
  drainedSent : Bool := false
  freezeAt : Option Nat := none
  /-- Links no longer candidates of the unplanned route table (R300). -/
  dropped : List Nat := []
  dropPending : List Nat := []
  requests : List PendReq := []
  nextTag : Nat := 0
  originQ : List Packet := []
  deriving DecidableEq, Repr, Inhabited

/-- A stop of the plan counter (R53): its TARGET and the wall cycle at which it began. -/
structure Standing where
  target : Nat
  since : Nat
  deriving DecidableEq, Repr, Inhabited

/-- An entry of the UE log (R228, Table REG-6): the line, the plan cycle, and the logical tile that met it. -/
structure UeEntry where
  ref : LineRef
  cycle : Nat
  tile : Nat
  deriving DecidableEq, Repr, Inhabited

/-- Telemetry of a partition (Table OPS-8). -/
structure PartTel where
  holdCount : Cnt := {}
  holdExt : Cnt := {}
  holdRods : Cnt := {}
  holdOrig : Vector Cnt 5 := Vector.replicate 5 {}
  lastHold : Option HoldEntry := none
  selChoices : Cnt := {}
  selDropped : Cnt := {}
  selRerouted : Cnt := {}
  satEvents : Cnt := {}
  invalidEvents : Cnt := {}
  ce : Vector Cnt 4 := Vector.replicate 4 {}
  queueResidue : Cnt := {}
  stepsRun : Cnt := {}
  stepsOff : Cnt := {}
  checkPasses : Cnt := {}
  unchecked : Cnt := {}
  mismatched : Cnt := {}
  /-- Start and end of the latest pass of the interval check, and stones it checked (R349). -/
  passStart : Nat := 0
  passEnd : Nat := 0
  checked : Cnt := {}
  /-- INDEX and status of each record that failed its check in the latest chain install (R353). -/
  installFails : List (Nat × Nat) := []
  energy : Cnt := {}
  fenceDrop : Cnt := {}
  lateAnswer : Cnt := {}
  ueLog : List UeEntry := []
  deriving DecidableEq, Repr, Inhabited

/-- One buffer of a telemetry snapshot (R485). -/
structure Snapshot where
  capture : Nat := 0
  tick : Nat := 0
  tel : PartTel := {}
  power : Nat := 0
  step : Nat := 0
  emergency : Bool := false
  tileSat : BitVec 64 := 0
  tileInvalid : BitVec 64 := 0
  builds : List (BitVec 64) := []
  ports : List (Nat × PortSt × PortCnt) := []
  deriving DecidableEq, Repr, Inhabited

/-- The module snapshot (Table REG-8). -/
structure ModSnap where
  capture : Nat := 0
  tick : Nat := 0
  meters : Meters := default
  tileSpare : BitVec 8 := 0
  laneSpare : BitVec 32 := 0
  repairRows : List Nat := []
  dbDropped : Cnt := {}
  dbInvalid : Cnt := {}
  meshFence : Cnt := {}
  ctxFence : Cnt := {}
  /-- Events of CXL capacity beyond 2 TiB (R25). -/
  cxlBeyond : Nat := 0
  tileMap : List Nat := []
  replCause : BitVec 32 := 0
  replPort : BitVec 32 := 0
  deriving DecidableEq, Repr, Inhabited

/-! ### Serving (11) -/

/-- The serving descriptor (Table SRV-1). -/
structure ServingDesc where
  sf : Nat
  f0 : Nat
  sd : Nat
  sp : Nat
  nreq : Nat
  lead : Nat
  wline : Nat
  ptline : Nat
  npt : Nat
  ptlines : Nat
  deriving DecidableEq, Repr, Inhabited

/-- Request states (Table SRV-11). -/
inductive ReqSt where
  | queued | prefill | decode | ending | endingPause | paused | ended
  deriving DecidableEq, Repr, Inhabited

/-- A serving request (R325 to R332). -/
structure Request where
  handle : BitVec 32
  /-- Number of its submission, which tells it from an earlier request of the same handle. -/
  id : Nat := 0
  st : ReqSt
  /-- Committed KV length K. -/
  k : Nat
  /-- Tokens emitted so far. -/
  total : Nat
  prompt : List Reg
  maxTok : Nat
  stops : List Reg
  depth : Nat
  /-- The last emitted token and the drafts, kept for a later NEW. -/
  lastTok : Option Reg
  drafts : List Reg
  /-- END code to post at ENDED, and whether a commit has posted the record with END already. -/
  endCode : Nat := 0
  endPosted : Bool := false
  ttl : Nat := 0
  /-- TTL timer: expiry in always-on seconds. -/
  expiry : Option Nat := none
  /-- Ring whose REQ_PAUSE waits for PAUSED. -/
  pauseRing : Option (Nat × Nat) := none
  /-- Firkins present, those of them in the CXL tier, and those freed whose entries stay until a step has ended
  (R329): firkin, step. -/
  firkins : List Nat := []
  tierFirkins : List Nat := []
  /-- Pages of its tier move already written, as a TIER_ROTATE has found (R414). -/
  moved : Nat := 0
  freeAfter : List (Nat × Nat) := []
  /-- Page-table slot. -/
  pts : Nat := 0
  deriving DecidableEq, Repr, Inhabited

/-- A result record waiting to be posted (Table SRV-10), and the output buffer of its step. -/
structure ResultRec where
  handle : BitVec 32
  k : Nat
  step : Nat
  ntok : Nat
  endCode : Nat
  total : Nat
  tokens : List Reg
  out : Option Nat := none
  deriving DecidableEq, Repr, Inhabited

/-- A request record of a committed step table (Table SRV-6) with the length of its prefill run (R316). -/
structure NameRec where
  handle : BitVec 32
  kind : Nat
  depth : Nat
  pts : Nat
  run : Nat
  /-- The request that it names, as its commit found it. -/
  id : Nat := 0
  deriving DecidableEq, Repr, Inhabited

/-- An accepted commit of a step table (R318): buffer, PREVSTEP, records in use. -/
structure TableCommit where
  buf : Nat
  prev : Nat
  names : List NameRec
  deriving DecidableEq, Repr, Inhabited

/-- A step that has passed its gate (R319, R324, R325). -/
structure StepRec where
  step : Nat
  ran : Bool
  buf : Nat
  out : Nat
  names : List NameRec
  deriving DecidableEq, Repr, Inhabited

/-- Serving events reported to the lead's firmware (R319, R324). -/
inductive ServEvent where
  | stepLate (s : Nat)
  | stepStale (s : Nat)
  | stepBackpressure (s : Nat)
  | stepRan (s : Nat)
  | stepEnd (s : Nat)
  | commitRefused (rule : Nat)
  deriving DecidableEq, Repr, Inhabited

/-- Serving state of a partition (11). -/
structure Serving where
  desc : Option ServingDesc := none
  /-- The next step to pass its gate, and the accepted commit for it (R318). -/
  nextStep : Nat := 0
  commit : Option TableCommit := none
  /-- Lines of table buffers that the firmware wrote in the wall cycle given, with what they held before (R320). -/
  freshLines : List (Nat × Nat × Nat × Bytes) := []
  /-- Output buffers not released, those whose step is committed, and the releases with their plan cycles (R320, R325). -/
  outBusy : List Nat := []
  toRelease : List Nat := []
  releasedAt : List (Nat × Nat) := []
  nextOut : Nat := 0
  /-- Last run step that has ended, and its output buffer. -/
  lastRun : Option (Nat × Nat) := none
  /-- The step in progress; and the run steps that ended and are not committed. -/
  current : Option StepRec := none
  steps : List StepRec := []
  /-- Steps whose end this member has reported (R324). -/
  ended : Nat := 0
  requests : List Request := []
  submitted : Nat := 0
  /-- Handles of requests that expired, until they are in use again (R332). -/
  expired : List (BitVec 32) := []
  /-- Result records not yet posted (R379). -/
  records : List ResultRec := []
  events : List ServEvent := []
  /-- Firmware writes to a locked table buffer that were refused. -/
  refused : Nat := 0
  deriving DecidableEq, Repr, Inhabited

/-! ### Weights, keys and windows (08, 12, 14) -/

/-- A verified manifest (R337, R338): entries are INDEX, VERSION, DIGEST. -/
structure Manifest where
  model : BitVec 64
  mver : Nat
  owner : BitVec 512
  entries : List (Nat × Nat × BitVec 512)
  deriving DecidableEq, Repr, Inhabited

/-- A directory record of a namespace (R340). -/
structure DirRec where
  foff : Nat
  model : BitVec 64
  index : Nat
  version : Nat
  /-- The ring whose STONE_DELETE of it waits for its readers. -/
  deleting : Option (Nat × Nat) := none
  deriving DecidableEq, Repr, Inhabited

/-- A flash namespace (R339 to R341): granules of 1 GiB, stored bytes, spare area of the pages outside
records (tag, write count), directory. -/
structure Namespace where
  granules : Nat
  data : Mem := []
  spare : Sparse (BitVec 128 × Nat) := []
  wcount : Nat := 0
  dir : List DirRec := []
  deriving DecidableEq, Repr, Inhabited

/-- A load entry (Table WGT-4). -/
structure LoadEntry where
  index : Nat
  foff : Nat
  tier : Bool
  bay : Nat
  loc : Nat
  deriving DecidableEq, Repr, Inhabited

/-- The outstanding load of a partition (R344 to R347). -/
structure LoadJob where
  ring : Nat × Nat
  model : BitVec 64
  entries : List LoadEntry
  pos : Nat := 0
  /-- First failing entry and its status; then only the zeroing is left. -/
  failed : Option (Nat × Nat) := none
  /-- Handle of the model slot whose stone key the load uses (R400). -/
  keySlot : Fin 8 := 0
  /-- Stones marked corrupt that have arrived again; a load that fails marks them anew (R350). -/
  cured : List Nat := []
  deriving DecidableEq, Repr, Inhabited

/-- A resident stone placed in HBM, and the manifest version that placed it (R349). -/
structure Resident where
  bay : Nat
  line : Nat
  model : BitVec 64
  mver : Nat
  index : Nat
  digest : BitVec 512
  deriving DecidableEq, Repr, Inhabited

/-- A chain install at this member (R351 to R353). -/
structure ChainJob where
  ring : Nat × Nat
  dir : Nat
  first : Nat
  last : Nat
  model : BitVec 64
  foffs : List Nat
  nland : Nat
  bay : Nat
  line : Nat
  /-- Packets landed: record, packet. -/
  got : List (Nat × Nat) := []
  /-- Records checked here: record, status, 0 for those entered, and INDEX. -/
  kept : List (Nat × Nat × Nat) := []
  /-- Handle of the model slot whose stone key the install uses (R400). -/
  keySlot : Fin 8 := 0
  /-- The next packet to forward: record, packet. -/
  sentRec : Nat := 0
  sentPkt : Nat := 0
  /-- Landing slots freed here. -/
  freed : Nat := 0
  deriving DecidableEq, Repr, Inhabited

/-- A model key slot (Table SEC-7). -/
structure ModelSlot where
  model : Option (BitVec 64) := none
  stoneKey : Option (BitVec 256) := none
  ownerKey : Option Bytes := none
  deriving DecidableEq, Repr, Inhabited

/-- A tier key slot (Table SEC-7). -/
structure TierSlot where
  key : BitVec 256
  wcount : Nat
  pages : Nat
  deriving DecidableEq, Repr, Inhabited

/-- The CXL window of a partition (R231): extents port, first granule, count; registered or still being
zeroed for the ring that waits. -/
structure Window where
  extents : List (Nat × Nat × Nat)
  registered : Bool
  waiting : Option (Nat × Nat)
  deriving DecidableEq, Repr, Inhabited

/-- A rotation pass (R407, R408): next window page, pages stalled. -/
structure Rotation where
  pos : Nat
  stalled : List Nat
  deriving DecidableEq, Repr, Inhabited

/-- A place of R389 that a firmware context may reach: of its own partition, or of the module context. -/
inductive CtxPlace where
  | sram | servingWindow | pageTables | rings | prompts | ttlTimers | packets | telemetry | tierMover | engines
  | modRings | management | modTelemetry | powerControls
  deriving DecidableEq, Repr, Inhabited

/-- A message of the mailbox (R391). -/
inductive Mail where
  | power (watts : Nat)
  | thermal (step : Nat)
  | shutdown
  | telemetry
  deriving DecidableEq, Repr, Inhabited

/-- A firmware context (R388 to R391): the windows that the checker holds for it, its private SRAM, which PART_ADMIT
clears, and its messages in the mailbox, oldest first. -/
structure Context where
  windows : List CtxPlace := []
  sram : Mem := []
  mail : List Mail := []
  deriving DecidableEq, Repr, Inhabited

/-- A key as it lies on flash: wrapped under a storage key (Table SEC-7). -/
structure WrappedKey where
  under : BitVec 256
  key : BitVec 256
  deriving DecidableEq, Repr, Inhabited

/-- Key slots of a partition (R399, R403, R405). -/
structure Keys where
  models : Vector ModelSlot 8 := Vector.replicate 8 {}
  tier : Vector (Option TierSlot) 2 := Vector.replicate 2 none
  cur : Fin 2 := 0
  rotation : Option Rotation := none
  /-- Tier pages written and not yet acknowledged: window page, slot it counted under, slot written. -/
  pendingAck : List (Nat × Fin 2 × Fin 2) := []
  flashKey : Option (BitVec 256) := none
  attest : Option (BitVec 256) := none
  kem : Option (BitVec 512) := none
  maxSeq : Option Nat := none
  deriving DecidableEq, Repr, Inhabited

/-! ### The partition (14 R384) -/

/-- A partition: its entry of the partition map and everything that belongs to it. -/
structure Partition where
  admitted : Bool := false
  bayMask : BitVec 8 := 0
  power : Nat := 0
  ttlShare : Nat := 0
  /-- Admission counter, 32 bits, zero at power-on (R385). -/
  admissions : BitVec 32 := 0
  /-- Generation in force (R168): 2 or 3. -/
  gen : Option Nat := none
  /-- Resident plan images (R370). -/
  plans : Vector (Option Bytes) 4 := Vector.replicate 4 none
  /-- Host exchange window: address and size (R369). -/
  exwin : Option (Nat × Nat) := none
  ns : Option Namespace := none
  /-- The namespace's flash key as flash keeps it, wrapped (Table SEC-7). -/
  wrapped : Option WrappedKey := none
  /-- The firmware context of the partition (R388). -/
  ctx : Context := {}
  /-- NS_DELETE in progress: the ring that waits (R387). -/
  nsErasing : Option (Nat × Nat) := none
  window : Option Window := none
  /-- PART_RELEASE in progress: the ring that waits. -/
  releasing : Option (Nat × Nat) := none
  member : Member := {}
  /-- The domain plan counter is loaded (R304, R305), and its value (R37). -/
  ctrOn : Bool := false
  ctr : Nat := 0
  holds : List HoldEntry := []
  standing : Option Standing := none
  /-- Issue count of this module in the domain (R51). -/
  serial : Nat := 0
  /-- A plan runs: from T0 until it ends or stops (R483). -/
  running : Bool := false
  /-- Plan slot of the running job, and its FURLONGS. -/
  slot : Nat := 0
  furlongs : Nat := 0
  /-- Furlong index whose boundary has been passed (R44). -/
  furlong : Nat := 0
  /-- Faults raised, with the cycle at whose end they take effect (R445). -/
  dueFaults : List FaultRec := []
  faultLog : List FaultRec := []
  faultCount : Nat := 0
  hazardLog : List FaultRec := []
  hazardCount : Nat := 0
  hlogOvf : Bool := false
  flogOvf : Bool := false
  /-- The check registers' active value that the running job keeps (R447). -/
  chk : BitVec 2 := 0
  chkPending : Bool := false
  /-- The block takes its reset values at the next job start (R473 CFG_PARITY). -/
  chkReset : Bool := false
  tel : PartTel := {}
  snaps : Vector Snapshot 2 := Vector.replicate 2 {}
  serving : Serving := {}
  manifests : List Manifest := []
  maxMver : List (BitVec 64 × Nat) := []
  load : Option LoadJob := none
  resident : List Resident := []
  /-- Stones that failed their check and are not placed again (R350): MODEL and INDEX. -/
  corrupt : List (BitVec 64 × Nat) := []
  chain : Option ChainJob := none
  /-- Stone writes in progress: offset, host address and the ring that waits. -/
  stoneWrites : List (Nat × Nat × Nat × Nat) := []
  /-- Wall time at which the interval of the next stone check began (R349). -/
  checkedAt : Nat := 0
  keys : Keys := {}
  /-- Thermal holds of the domain (R430): plan rod of the previous one, next target rod. -/
  thermPrev : Option Nat := none
  thermNext : Option Nat := none
  deriving DecidableEq, Repr, Inhabited

/-! ### The host interface (13, 18) -/

/-- A shadowed register word (R16 RWS). -/
structure Rws where
  shadow : Reg := 0
  active : Reg := 0
  deriving DecidableEq, Repr, Inhabited

/-- Ring states (Table HST-2). -/
inductive RingSt where
  | disabled | running | error | draining
  deriving DecidableEq, Repr, Inhabited

/-- A completion (Table HST-6) waiting for its place. -/
structure Compl where
  tag : BitVec 32
  index : Nat
  head : Nat
  status : Nat
  detail : Nat := 0
  result : Nat := 0
  irq : Bool := false
  deriving DecidableEq, Repr, Inhabited

/-- A descriptor that a ring has taken and whose operation is still in progress (R368). -/
structure Busy where
  /-- MODEL'S OWN: number of the operation on its ring. -/
  no : Nat
  opcode : Nat
  tag : BitVec 32
  index : Nat
  irq : Bool
  body : Bytes
  /-- It is a member of a group: the completions of the members before it, the members after it (index, bytes), the
  partitions and the CXL bytes the group concerns as they stood before it (R372), and its own end where the rest still has to act:
  status, DETAIL, RESULT. -/
  group : Bool := false
  before : List Compl := []
  todo : List (Nat × Bytes) := []
  undo : List (Nat × Partition) := []
  undoCxl : List (Nat × Nat × Nat × Mem) := []
  fin : Option (Nat × Nat × Nat) := none
  /-- Its completion is lost: the ring met an error (R364). -/
  lost : Bool := false
  deriving DecidableEq, Repr, Inhabited

/-- A ring pair (R362 to R368). -/
structure RingPair where
  sqLo : Rws := {}
  sqHi : Rws := {}
  cqLo : Rws := {}
  cqHi : Rws := {}
  ctrl : Rws := {}
  head : Nat := 0
  tail : Nat := 0
  cqTail : Nat := 0
  cqHead : Nat := 0
  /-- Completion entries written and not freed. -/
  cqUsed : Nat := 0
  phase : Bool := true
  /-- Tails that doorbells set and HEAD has not reached, with the wall time of each (R373); and the time at which the held
  group became whole. -/
  shown : List (Nat × Nat) := []
  wholeAt : Nat := 0
  st : RingSt := .disabled
  /-- Members of an open group fetched and held (R371): index, bytes. -/
  held : List (Nat × Bytes) := []
  /-- MODEL'S OWN: operations taken so far. -/
  taken : Nat := 0
  busy : Option Busy := none
  post : List Compl := []
  coal : Nat := 0
  coalAt : Option Nat := none
  deriving DecidableEq, Repr, Inhabited

/-- The result ring of a VF (R362, R379). -/
structure ResultRing where
  lo : Rws := {}
  hi : Rws := {}
  wbLo : Rws := {}
  wbHi : Rws := {}
  ctrl : Rws := {}
  tail : Nat := 0
  head : Nat := 0
  /-- Result entries written and not freed. -/
  used : Nat := 0
  st : RingSt := .disabled
  deriving DecidableEq, Repr, Inhabited

/-- SPDM connection of a function (R397). -/
structure Spdm where
  version : Bool := false
  caps : Bool := false
  algs : Bool := false
  /-- Transcript since GET_VERSION. -/
  transcript : Bytes := []
  /-- Chunked request being received, and chunked response being read. -/
  chunkIn : Option (Nat × Bytes) := none
  chunkOut : Option (Nat × Bytes) := none
  /-- Last response. -/
  response : Bytes := []
  deriving DecidableEq, Repr, Inhabited

/-- A function of the endpoint. -/
structure Func where
  /-- EVT_STATUS: SEQ and the stamp of each set event bit (R478). -/
  seq : BitVec 8 := 0
  events : List (Nat × BitVec 8) := []
  evtMask : Rws := { shadow := 0xFFFFFF00, active := 0xFFFFFF00 }
  thermStep : Nat := 0
  thermTick : BitVec 56 := 0
  stalled : Nat := 0
  stone : Nat := 0
  evtPort : Nat := 0
  evtDomain : Reg := 0
  parityInfo : Reg := 0
  rejectInfo : Reg := 0
  pairs : Vector RingPair 16 := Vector.replicate 16 {}
  result : ResultRing := {}
  chk : Rws := {}
  partCfg : Rws := { shadow := 24, active := 24 }
  /-- MSI-X: masked vectors, pending bits, messages sent (R381). -/
  msixMask : BitVec 64 := 0
  msixPend : BitVec 64 := 0
  msixSent : List Nat := []
  spdm : Spdm := {}
  /-- Parity bit of a register in upset: byte offset and whether it is the shadow (R475). -/
  upset : List (Nat × Bool) := []
  /-- The latest mismatch found in active values: UPDATE bit of the block and wall time; a strobe of that block in the same
  cycle is not applied (R488). -/
  mismatch : Option (Nat × Nat) := none
  deriving DecidableEq, Repr, Inhabited

/-! ### The module -/

/-- Fast-clock states (Table TIM-1). -/
inductive ClockSt where
  | off | acquiring | locked | holdover
  deriving DecidableEq, Repr, Inhabited

/-- Power states of the module (Table OPS-1), with start-up and RECOVERY (Table PHY-5). -/
inductive PowerSt where
  | off | startup | recovery | standby | ready
  deriving DecidableEq, Repr, Inhabited

/-- Why a physical tile is retired (R98, R425). -/
inductive RetireBy where
  | factory | selfTest | host
  deriving DecidableEq, Repr, Inhabited

/-- Power, start-up, thermal and sideband state (15, 17). -/
structure Power where
  st : PowerSt := .off
  /-- Steps of Table OPS-4 that have ended. -/
  step : Nat := 0
  /-- Doorbell writes that wait for READY (R418): function, word. -/
  doorbells : List (Nat × Reg) := []
  /-- STANDBY entry under way (R417). -/
  entering : Bool := false
  /-- Waking (R418). -/
  waking : Bool := false
  wakeDb : Bool := true
  wakeTtl : Bool := true
  result : Nat := 0
  lastWake : Nat := 0
  userCalLost : Bool := false
  thermStep : Nat := 0
  zeroRun : Nat := 0
  emergency : Bool := false
  /-- I3C status (Table PHY-5) and target (R463, R464). -/
  fault : Nat := 0
  latched : Bool := false
  cmdErr : Bool := false
  block : Nat := 0
  dynAddr : Option (BitVec 7) := none
  /-- The module is going OFF and waits for its teardowns until this wall time (R419). -/
  leaving : Option Nat := none
  /-- The flow read at the end of step 2 was critical (R468). -/
  flowLow : Bool := false
  /-- Number of the last thermal sample: its tick count in units of 10 ms (R428). -/
  samples : Nat := 0
  /-- 56 V applied. -/
  input : Bool := false
  deriving DecidableEq, Repr, Inhabited

/-- The user calibration area (R425) and what else survives loss of power. -/
structure UserCal where
  good : Bool := true
  factoryGood : Bool := true
  /-- Physical tiles retired, and why (R98, R425, R483). -/
  retired : List (Nat × RetireBy) := []
  /-- The stored clock settings (R422, R425): the module is a timing root, or its parent port. -/
  root : Bool := true
  parent : Nat := 0
  hbmSeeds : Bool := false
  /-- Repair rows installed: bay, pseudo-channel, row; rows due. -/
  repairs : List (Nat × Nat × Nat) := []
  due : List (Nat × Nat × Nat) := []
  /-- Corrections by scrub of a row: bay, pseudo-channel, row, pass, always-on tick (R433). -/
  scrubFixes : List (Nat × Nat × Nat × Nat × Nat) := []
  deriving DecidableEq, Repr, Inhabited

/-- A CXL device on a port (R25, R229): capacity in GiB, stored bytes by device offset. -/
structure CxlDev where
  present : Bool := false
  failed : Bool := false
  gib : Nat := 0
  /-- It reports capacity beyond the 2 TiB mapped (R25). -/
  beyond : Bool := false
  data : Mem := []
  deriving DecidableEq, Repr, Inhabited

/-- Secure boot and firmware (R392 to R396). -/
structure Boot where
  /-- The boot area of flash: the stored image. -/
  area : Bytes := []
  /-- The running image's digest and SVN. -/
  digest : BitVec 512 := 0
  svn : Nat := 0
  svnMin : Nat := 0
  raises : Nat := 0
  code : Nat := 0
  fwAddr : BitVec 64 := 0
  fwLen : Reg := 0
  fwState : Nat := 0
  fwCode : Nat := 0
  commitRefused : Bool := false
  /-- Wall time of the latest write of the boot area, and of one that a loss of power has cut short (R394). -/
  wroteAt : Option Nat := none
  torn : Option Nat := none
  /-- Contexts loaded and started: the measurement of each, partitions 0 to 7 and the module context (R393). -/
  contexts : Vector (Option (BitVec 512)) 9 := Vector.replicate 9 none
  deriving DecidableEq, Repr, Inhabited

/-- Module-wide registers and counts of PF0 (18). -/
structure ModRegs where
  clk : Rws := {}
  portEn : Rws := {}
  /-- Straps latched at step 2 (R462): TRAY, SLOT. -/
  straps : BitVec 8 := 0
  /-- HALL, AISLE, RACK of NODE_ADDR [23:8], and WRITTEN. -/
  node : BitVec 16 := 0
  nodeWritten : Bool := false
  holdReq : Nat := 0
  /-- The latest HOLD_REQ that issued a notice: partition and wall time; a failure in the same cycle governs it (R488). -/
  holdReqAt : Option (Nat × Nat) := none
  /-- What the latest STARTUP_DONE reported (R423): usable bays, and the state of each port. -/
  startReport : Option (BitVec 8 × List PortSt) := none
  /-- In-band interrupts of I3C, one byte each, and the STATE last reported (R466). -/
  ibi : List Byte := []
  shown : Nat := 0
  dbDropped : Cnt := {}
  dbInvalid : Cnt := {}
  meshFence : Cnt := {}
  ctxFence : Cnt := {}
  /-- Events of CXL capacity beyond 2 TiB (R25). -/
  cxlBeyond : Nat := 0
  capture : Nat := 0
  replCause : BitVec 32 := 0
  replPort : BitVec 32 := 0
  snaps : Vector ModSnap 2 := Vector.replicate 2 {}
  deriving DecidableEq, Repr, Inhabited

/-- A recorded error of a line of a protected array (R226, R227): double when it is uncorrectable. -/
structure LineErr where
  line : LineRef
  double : Bool
  deriving DecidableEq, Repr, Inhabited

/-- Power, start-up, fast clock, firmware and core rotation: what only the rows of chapters 14, 15 and 17 change. -/
structure Hub where
  power : Power := {}
  clock : ClockSt := .off
  clockSince : Nat := 0
  boot : Boot := {}
  /-- The value that the last counter sync loaded, and its wall time (R60). -/
  sync : Option (Nat × Nat) := none
  /-- LOCKED was left, and no counter sync has succeeded since (R61). -/
  resync : Bool := false
  /-- The module context (R389). -/
  modCtx : Context := {}
  /-- Firmware context in its slice on each control core, as slot 0, 1, 2 of the rotation (R388). -/
  slices : Vector Nat 4 := Vector.replicate 4 0
  deriving DecidableEq, Repr, Inhabited

/-- Everything else of the module: tiles, memories, ports, partitions, functions. -/
structure Mod where
  /-- Wall time in ns since the model's start. -/
  wall : Nat := 0
  /-- Wall time at which the always-on domain started: step 2 of start-up (R58). -/
  aonAt : Nat := 0
  /-- Stepping code 0xB0 or 0xC0 (R3) and option code 0x10 or 0x04 (R26). -/
  stepping : Nat := 0xB0
  option : Nat := 0x10
  cal : UserCal := {}
  regs : ModRegs := {}
  parts : Vector Partition 8 := Vector.replicate 8 {}
  tiles : Vector Tile 64 := Vector.replicate 64 {}
  /-- Physical tile of each logical tile at its bay's last job start; 0xFF not mapped (R97, Table REG-5). -/
  tileMap : Vector Nat 64 := Vector.replicate 64 0xFF
  /-- Epoch records of the always-on domain (R58): domain ID, last counter, tick. -/
  epochs : List (BitVec 16 × Nat × Nat) := []
  /-- Local stores by physical tile (R22, R80). -/
  ls : Vector Mem 72 := Vector.replicate 72 []
  /-- HBM stacks by bay (R222). -/
  hbm : Vector Mem 8 := Vector.replicate 8 []
  /-- Stacks that trained (R421), and bays being zeroed (R221). -/
  hbmGood : BitVec 8 := 0xFF
  zeroing : BitVec 8 := 0
  lineErrs : List LineErr := []
  /-- Corrected lines waiting for their rewrite (R226). -/
  rewrites : List LineRef := []
  /-- HBM pseudo-channels calibrated: count by bay and pseudo-channel (R238). -/
  hbmCal : Sparse Nat := []
  /-- The present scrub pass over HBM, and the lines it has taken (R238). -/
  scrubPass : Nat := 0
  scrubbed : List LineRef := []
  /-- Per bay: the next reserved slot is the second of its pair (R238). -/
  secondSlot : BitVec 8 := 0
  cxl : Vector CxlDev 2 := Vector.replicate 2 {}
  /-- Spare blocks of flash exhausted (R343). -/
  flashWorn : Bool := false
  ports : Vector Port 16 := Vector.replicate 16 {}
  funcs : Vector Func 9 := Vector.replicate 9 {}
  /-- Host link up, and its loss not yet posted (R360). -/
  hostUp : Bool := true
  ringsLost : Bool := false
  /-- MODEL'S OWN: host memory as DMA reaches it, and address ranges whose DMA ends in a PCIe error. -/
  hostMem : Mem := []
  hostBad : List (Nat × Nat) := []
  /-- MODEL'S OWN: how many free values have been drawn. -/
  free : Nat := 0
  deriving DecidableEq, Repr, Inhabited

/-- The state of the module. -/
structure State where
  /-- Commands that wait, first in, first out. -/
  pending : List Instr := []
  hub : Hub := {}
  m : Mod := {}
  deriving DecidableEq, Repr, Inhabited

/-- The module right after reset: 56 V not yet applied, power state OFF, fast clock OFF, nothing listed in
any memory. Where the spec gives a register no reset value it is zero (assumption log). -/
def State.reset : State := {}

end Sys2Proof.Machine
end

