-- ==== Sys2Proof/Machine/Bits.lean ====
section
/-!
DEFINITION. Fields of words, little-endian bytes (R14), sparse maps and byte memories in canonical form,
and small list helpers: the operations every family uses.
-/
namespace Sys2Proof.Machine

/-! ### Fields and bytes -/

/-- Bits [hi:lo] of a word as a number (R17 `bits`). -/
def fld {n : Nat} (w : BitVec n) (hi lo : Nat) : Nat := w.toNat / 2 ^ lo % 2 ^ (hi + 1 - lo)

/-- Bits [hi:lo] of a number. -/
def bitsN (x hi lo : Nat) : Nat := x / 2 ^ lo % 2 ^ (hi + 1 - lo)

/-- Byte i of a word. -/
def byteOf {n : Nat} (w : BitVec n) (i : Nat) : Nat := w.toNat / 2 ^ (8 * i) % 256

/-- Bit i of a number. -/
def bitN (x i : Nat) : Bool := x / 2 ^ i % 2 == 1

/-- Two's complement value of the low n bits of x. -/
def signed (n x : Nat) : Int :=
  let y := x % 2 ^ n
  if y < 2 ^ (n - 1) then (y : Int) else (y : Int) - (2 ^ n : Nat)

/-- The low n bits of an integer, two's complement. -/
def unsigned (n : Nat) (x : Int) : Nat := (x % ((2 ^ n : Nat) : Int)).toNat

/-- x as n bytes, least significant first (R14). -/
def leBytes : Nat → Nat → Bytes
  | 0, _ => []
  | n + 1, x => BitVec.ofNat 8 x :: leBytes n (x / 256)

/-- The number a run of bytes holds, least significant first (R14). -/
def leNat : Bytes → Nat
  | [] => 0
  | b :: r => b.toNat + 256 * leNat r

/-- n bytes of a run from offset o, zero beyond its end. -/
def sliceB (bs : Bytes) (o n : Nat) : Bytes :=
  let r := (bs.drop o).take n
  r ++ List.replicate (n - r.length) 0

/-- The number in bytes [o+n-1:o] of a run. -/
def leAt (bs : Bytes) (o n : Nat) : Nat := leNat (sliceB bs o n)

/-- All of a run is zero. -/
def allZero (bs : Bytes) : Bool := bs.all (· == 0)

/-- a rounded up to a multiple of b, divided by b. -/
def ceilDiv (a b : Nat) : Nat := (a + b - 1) / b

/-- Smallest multiple of g at or above x. -/
def roundUp (x g : Nat) : Nat := ceilDiv x g * g

/-- Replace entry i of a list. -/
def listSet {α : Type} (l : List α) (i : Nat) (x : α) : List α := l.set i x

/-- Insert into a list kept in ascending order of a key; equal keys keep their order of arrival. -/
def insertBy {α : Type} (key : α → Nat) (x : α) : List α → List α
  | [] => [x]
  | y :: r => if key x < key y then x :: y :: r else y :: insertBy key x r

/-- Sort in ascending order of a key, stable. -/
def sortBy {α : Type} (key : α → Nat) (l : List α) : List α := l.foldl (fun acc x => insertBy key x acc) []

/-- Largest of a list of numbers, at least d. -/
def maxL (d : Nat) (l : List Nat) : Nat := l.foldl max d

/-- Smallest of a list of numbers, where there is one. -/
def minL : List Nat → Option Nat
  | [] => none
  | x :: r => some (r.foldl min x)

/-- Numbers a to b, both included. -/
def span (a b : Nat) : List Nat := (List.range (b + 1 - a)).map (a + ·)

/-! ### Sparse maps -/

/-- What a sparse map reads at a key, d where the key is not listed. -/
def Sparse.get {α : Type} (d : α) : Sparse α → Nat → α
  | [], _ => d
  | (k, v) :: r, i => if i = k then v else if i < k then d else Sparse.get d r i

/-- Set one key, keeping the canonical form. -/
def Sparse.put {α : Type} [DecidableEq α] (d : α) : Sparse α → Nat → α → Sparse α
  | [], i, x => if x = d then [] else [(i, x)]
  | (k, v) :: r, i, x =>
    if i < k then (if x = d then (k, v) :: r else (i, x) :: (k, v) :: r)
    else if i = k then (if x = d then r else (i, x) :: r)
    else (k, v) :: Sparse.put d r i x

/-- Visit rising keys of a map in one walk: f gives the new value of a key from its old one, and carries a value along.
done holds the entries passed, last first. -/
def Sparse.visit {α σ : Type} [DecidableEq α] (d : α) (f : Nat → α → σ → α × σ) :
    List Nat → List (Nat × α) → Sparse α → σ → Sparse α × σ
  | [], done, l, z => (done.reverse ++ l, z)
  | i :: is, done, l, z =>
    let post := l.dropWhile (fun e => e.1 < i)
    let done := (l.takeWhile (fun e => e.1 < i)).reverse ++ done
    let here := post.takeWhile (fun e => e.1 == i)
    let (y, z) := f i ((here.head?.map (·.2)).getD d) z
    Sparse.visit d f is (if y = d then done else (i, y) :: done) (post.drop here.length) z

/-- The canonical form: keys strictly rising from lo, no entry equal to d. -/
def Sparse.wfFrom {α : Type} [DecidableEq α] (d : α) : Nat → Sparse α → Bool
  | _, [] => true
  | lo, (k, v) :: r => decide (lo ≤ k) && decide (v ≠ d) && Sparse.wfFrom d (k + 1) r

/-! ### Byte memories -/

/-- The canonical form of a byte memory: addresses strictly rising, no zero byte listed. -/
def Mem.wf (m : Mem) : Bool := Sparse.wfFrom (0 : BitVec 8) 0 m

/-- The byte at an address. -/
def Mem.byte (m : Mem) (a : Nat) : Byte := Sparse.get (0 : BitVec 8) m a

/-- n bytes from an address, walking the list once. -/
def Mem.readGo : Mem → Nat → Nat → Bytes
  | _, _, 0 => []
  | [], a, n + 1 => 0 :: Mem.readGo [] (a + 1) n
  | (k, v) :: r, a, n + 1 =>
    if k = a then v :: Mem.readGo r (a + 1) n else 0 :: Mem.readGo ((k, v) :: r) (a + 1) n

/-- n bytes from an address. -/
def Mem.read (m : Mem) (a n : Nat) : Bytes := Mem.readGo (m.dropWhile (fun c => c.1 < a)) a n

/-- The cells of a run of bytes placed at an address: zero bytes are not listed. -/
def Mem.cells : Nat → Bytes → Mem
  | _, [] => []
  | a, b :: r => if b = 0 then Mem.cells (a + 1) r else (a, b) :: Mem.cells (a + 1) r

/-- Write a run of bytes at an address. -/
def Mem.write (m : Mem) (a : Nat) (bs : Bytes) : Mem :=
  m.takeWhile (fun c => c.1 < a) ++ Mem.cells a bs ++ m.dropWhile (fun c => c.1 < a + bs.length)

/-- Write zero to n bytes from an address. -/
def Mem.clear (m : Mem) (a n : Nat) : Mem := m.filter (fun c => c.1 < a || a + n ≤ c.1)

/-- Runs that rise and do not overlap. -/
def runsRise : List (Nat × Nat) → Bool
  | [] => true
  | [_] => true
  | r :: s :: l => decide (r.1 + r.2 ≤ s.1) && runsRise (s :: l)

/-- Write rising runs in one walk. -/
def Mem.writesUp : List (Nat × Bytes) → Mem → Mem
  | [], m => m
  | w :: ws, m =>
    m.takeWhile (fun c => c.1 < w.1) ++ Mem.cells w.1 w.2
      ++ Mem.writesUp ws (m.dropWhile (fun c => c.1 < w.1 + w.2.length))

/-- Write several runs in order. -/
def Mem.writes (m : Mem) (ws : List (Nat × Bytes)) : Mem :=
  if runsRise (ws.map (fun w => (w.1, w.2.length))) then Mem.writesUp ws m else ws.foldl (fun m w => m.write w.1 w.2) m

/-- Read rising runs in one walk. -/
def Mem.readsUp : List (Nat × Nat) → Mem → Bytes
  | [], _ => []
  | r :: rs, m =>
    let m := m.dropWhile (fun c => c.1 < r.1)
    Mem.readGo m r.1 r.2 ++ Mem.readsUp rs m

/-- Read several runs, one after another. -/
def Mem.reads (m : Mem) (rs : List (Nat × Nat)) : Bytes :=
  if runsRise rs then Mem.readsUp rs m else rs.flatMap (fun r => m.read r.1 r.2)

/-- Cut bytes into runs of the given lengths. -/
def cutRuns : List (Nat × Nat) → Bytes → List (Nat × Bytes)
  | [], _ => []
  | r :: rs, bs => (r.1, sliceB bs 0 r.2) :: cutRuns rs (bs.drop r.2)

/-! ### Counters that stop at their maximum (R57, R484) -/

/-- Add n to a 63-bit counter, which stops at its maximum and sets its overflow bit. -/
def Cnt.add (c : Cnt) (n : Nat) : Cnt :=
  if c.n + n < 2 ^ 63 then { c with n := c.n + n } else { n := 2 ^ 63 - 1, ovf := true }

/-- A counter as its 64-bit register reads. -/
def Cnt.word (c : Cnt) : Nat := c.n + (if c.ovf then 2 ^ 63 else 0)

/-- Add n to a count that stops at max. -/
def satAdd (max c n : Nat) : Nat := min max (c + n)

/-! ### Access to the indexed parts of the module -/

/-- The bay of a logical tile (R19). -/
def bayOf (t : TileId) : Fin 8 := ⟨t.val / 8, by omega⟩

/-- The bay of a port (R19). -/
def bayOfPort (q : PortId) : Fin 8 := ⟨q.val / 2, by omega⟩

/-- A number taken into a finite type, modulo its size. -/
def toFin (n : Nat) [NeZero n] (x : Nat) : Fin n := Fin.ofNat n x

def Mod.part (m : Mod) (p : Part) : Partition := m.parts.get p
def Mod.tile (m : Mod) (t : TileId) : Tile := m.tiles.get t
def Mod.port (m : Mod) (q : PortId) : Port := m.ports.get q
def Mod.func (m : Mod) (f : Fn) : Func := m.funcs.get f

def Mod.setPart (m : Mod) (p : Part) (x : Partition) : Mod := { m with parts := m.parts.set p.val x p.isLt }
def Mod.setTile (m : Mod) (t : TileId) (x : Tile) : Mod := { m with tiles := m.tiles.set t.val x t.isLt }
def Mod.setPort (m : Mod) (q : PortId) (x : Port) : Mod := { m with ports := m.ports.set q.val x q.isLt }
def Mod.setFunc (m : Mod) (f : Fn) (x : Func) : Mod := { m with funcs := m.funcs.set f.val x f.isLt }

def Mod.updPart (m : Mod) (p : Part) (f : Partition → Partition) : Mod := m.setPart p (f (m.part p))
def Mod.updTile (m : Mod) (t : TileId) (f : Tile → Tile) : Mod := m.setTile t (f (m.tile t))
def Mod.updPort (m : Mod) (q : PortId) (f : Port → Port) : Mod := m.setPort q (f (m.port q))
def Mod.updFunc (m : Mod) (n : Fn) (f : Func → Func) : Mod := m.setFunc n (f (m.func n))

/-- All partitions, tiles, ports and functions, in ascending number. -/
def allParts : List Part := List.finRange 8
def allTiles : List TileId := List.finRange 64
def allPorts : List PortId := List.finRange 16
def allFns : List Fn := List.finRange 9
def allPairs : List PairId := List.finRange 16

/-- The VF of a partition (R358): function p + 1. -/
def vfOf (p : Part) : Fn := ⟨p.val + 1, by omega⟩

/-- The partition of a function; PF0 has none. -/
def partOfFn (f : Fn) : Option Part := if h : f.val = 0 then none else some ⟨f.val - 1, by omega⟩

/-- PF0. -/
def pf0 : Fn := 0

/-- Partition p holds bay b. -/
def Partition.hasBay (x : Partition) (b : Nat) : Bool := x.admitted && x.bayMask.getLsbD b

/-- The bays of a partition in ascending number: bay index k is the k-th (R107). -/
def Partition.bays (x : Partition) : List Nat := (List.range 8).filter x.bayMask.getLsbD

/-- The bay of a partition-relative bay index (R107). -/
def Partition.bayAt (x : Partition) (k : Nat) : Option Nat := x.bays[k]?

/-- The logical tile of a partition-relative tile index (R107): 8b + i. -/
def Partition.tileAt (x : Partition) (k : Nat) : Option TileId :=
  match x.bayAt (k / 8) with
  | some b => some (toFin 64 (8 * b + k % 8))
  | none => none

/-- Logical tiles of a partition, ascending. -/
def Partition.tiles (x : Partition) : List TileId := allTiles.filter (fun t => x.bayMask.getLsbD (t.val / 8))

/-- Link ports of a partition, ascending (R19, R20). -/
def Partition.ports (x : Partition) : List PortId := allPorts.filter (fun q => x.bayMask.getLsbD (q.val / 2))

/-- The admitted partition that holds a bay. -/
def Mod.partOfBay (m : Mod) (b : Nat) : Option Part := allParts.find? (fun p => (m.part p).hasBay b)

/-- The admitted partition of a logical tile. -/
def Mod.partOfTile (m : Mod) (t : TileId) : Option Part := m.partOfBay (t.val / 8)

/-- The admitted partition of a port. -/
def Mod.partOfPort (m : Mod) (q : PortId) : Option Part := m.partOfBay (q.val / 2)

/-- The partition-relative index of a logical tile (R107). -/
def Partition.tileIndex (x : Partition) (t : TileId) : Nat :=
  8 * ((x.bays.filter (· < t.val / 8)).length) + t.val % 8

end Sys2Proof.Machine
end

