-- ==== Sys2Proof/Machine/Arith.lean ====
section
/-!
DEFINITION. Arithmetic (06): formats (R172 to R175), rounding (R176 to R178), matrix products and drains
(R179 to R183), vector subops (R186 to R188), conversions (R189 to R191) and transcendental functions
(R192 to R198). Exact values are integers and rationals; each result is rounded once.
-/
namespace Sys2Proof.Machine

/-! ### Formats (Table ARI-1, Table FJ3-6) -/

/-- A floating format: exponent and mantissa widths, bias, code of the largest finite value, and whether the
top exponent code holds infinities and NaNs. -/
structure FFmt where
  eb : Nat
  mb : Nat
  bias : Nat
  maxCode : Nat
  /-- 0: every code is finite. 1: only the all-ones code is NaN (E4M3). 2: infinities and NaNs. -/
  specials : Nat
  deriving DecidableEq, Repr, Inhabited

def fE4M3 : FFmt := { eb := 4, mb := 3, bias := 7, maxCode := 0x7E, specials := 1 }
def fE5M2 : FFmt := { eb := 5, mb := 2, bias := 15, maxCode := 0x7B, specials := 2 }
def fBF16 : FFmt := { eb := 8, mb := 7, bias := 127, maxCode := 0x7F7F, specials := 2 }
def fFP32 : FFmt := { eb := 8, mb := 23, bias := 127, maxCode := 0x7F7FFFFF, specials := 2 }
def fE3M2 : FFmt := { eb := 3, mb := 2, bias := 3, maxCode := 0x1F, specials := 0 }
def fE2M3 : FFmt := { eb := 2, mb := 3, bias := 1, maxCode := 0x1F, specials := 0 }
def fE2M1 : FFmt := { eb := 2, mb := 1, bias := 1, maxCode := 0x7, specials := 0 }

/-- The exponent of the largest finite value of an MX element format (R191). -/
def FFmt.emax (f : FFmt) : Int :=
  if f.specials = 2 then ((2 ^ f.eb - 2 : Nat) : Int) - f.bias else ((2 ^ f.eb - 1 : Nat) : Int) - f.bias

/-- Bits of an encoding. -/
def FFmt.bits (f : FFmt) : Nat := 1 + f.eb + f.mb

/-- An exact value read from an encoding: NaN, an infinity, or ± m × 2^e. -/
inductive FVal where
  | nan
  | inf (neg : Bool)
  | fin (neg : Bool) (m : Nat) (e : Int)
  deriving DecidableEq, Repr, Inhabited

/-- `decode` of R173. -/
def decodeF (f : FFmt) (x : Nat) : FVal :=
  let s := bitN x (f.eb + f.mb)
  let e := bitsN x (f.eb + f.mb - 1) f.mb
  let m := x % 2 ^ f.mb
  let top := e + 1 = 2 ^ f.eb
  if f.specials = 2 && top then (if m = 0 then .inf s else .nan)
  else if f.specials = 1 && top && m + 1 = 2 ^ f.mb then .nan
  else if e = 0 then .fin s m (1 - (f.bias : Int) - f.mb)
  else .fin s (2 ^ f.mb + m) ((e : Int) - f.bias - f.mb)

/-- An integer as an exact value. -/
def intVal (x : Int) : FVal := .fin (x < 0) x.natAbs 0

/-- The element format of an MX code and its base code (Table FJ3-6). -/
def mxBase (code : Nat) : Option Nat :=
  match code with
  | 0xB => some 0x1 | 0xC => some 0x2 | 0xD => some 0x7 | 0xE => some 0x8 | 0xF => some 0x9
  | _ => none

/-- The floating format of a code that is not an MX form. -/
def floatFmt (code : Nat) : Option FFmt :=
  match code with
  | 0x1 => some fE4M3 | 0x2 => some fE5M2 | 0x4 => some fBF16 | 0x5 => some fFP32
  | 0x7 => some fE3M2 | 0x8 => some fE2M3 | 0x9 => some fE2M1
  | _ => none

/-- The element format code: the code itself, or the element format of an MX form. -/
def elemCode (code : Nat) : Nat := (mxBase code).getD code

/-- Bits of one element of a format code. -/
def elemBits (code : Nat) : Nat :=
  match elemCode code with
  | 0x1 | 0x2 | 0x3 => 8
  | 0x4 => 16
  | 0x5 | 0x6 => 32
  | 0x7 | 0x8 => 6
  | 0x9 | 0xA => 4
  | 0x0 => 128
  | _ => 8

/-- The code is an integer format. -/
def isInt (code : Nat) : Bool := code == 0x3 || code == 0x6 || code == 0xA

/-- Element n of a stream of b-bit elements (R174). -/
def elemAt (bs : Array Byte) (base b n : Nat) : Nat :=
  let o := b * n
  let i := base + o / 8
  let v := (List.range ((b + 15) / 8)).foldr (fun k acc => (bs.getD (i + k) 0).toNat + 256 * acc) 0
  v / 2 ^ (o % 8) % 2 ^ b

/-- The exact value of an element of a non-MX code. -/
def elemVal (code x : Nat) : FVal :=
  match floatFmt code with
  | some f => decodeF f x
  | none => intVal (signed (elemBits code) x)

/-- An element under an E8M0 scale (R175). -/
def scaleVal (v : FVal) (c : Nat) : FVal :=
  if c = 0xFF then .nan
  else match v with
    | .fin s m e => .fin s m (e + (c : Int) - 127)
    | v => v

/-! ### Rounding (R176) -/

/-- Largest e with 2^e ≤ num / den, for positive num and den. -/
def floorLog2 (num den : Nat) : Int :=
  let e : Int := (Nat.log2 num : Int) - Nat.log2 den
  let ge : Bool := if 0 ≤ e then den * 2 ^ e.toNat ≤ num else den ≤ num * 2 ^ (-e).toNat
  if ge then e else e - 1

/-- num / den divided by 2^q, as a fraction. -/
def scaleFrac (num den : Nat) (q : Int) : Nat × Nat :=
  if 0 ≤ q then (num, den * 2 ^ q.toNat) else (num * 2 ^ (-q).toNat, den)

/-- `round_fmt` of R176: the encoding of a non-zero value ± num/den, and whether it set SAT. draw is the
24-bit draw of stochastic rounding, none for nearest even; sat is the overflow rule "sat". -/
def roundFmt (f : FFmt) (draw : Option Nat) (sat neg : Bool) (num den : Nat) : Nat × Bool :=
  let e := floorLog2 num den
  let q := max e (1 - (f.bias : Int)) - f.mb
  let (n, d) := scaleFrac num den q
  let lo := n / d
  let rem := n % d
  let up : Bool := match draw with
    | none => 2 * rem > d || (2 * rem == d && lo % 2 == 1)
    | some r => r < rem * 2 ^ 24 / d
  let r := if up then lo + 1 else lo
  let code := ((q + f.mb + f.bias).toNat - 1) * 2 ^ f.mb + r
  let sign := if neg then 2 ^ (f.eb + f.mb) else 0
  if code > f.maxCode then
    if sat then (sign + f.maxCode, true) else (sign + (2 ^ f.eb - 1) * 2 ^ f.mb, false)
  else (sign + code, false)

/-- Round ± m × 2^e, a non-zero dyadic value. -/
def roundDy (f : FFmt) (draw : Option Nat) (sat neg : Bool) (m : Nat) (e : Int) : Nat × Bool :=
  if 0 ≤ e then roundFmt f draw sat neg (m * 2 ^ e.toNat) 1 else roundFmt f draw sat neg m (2 ^ (-e).toNat)

/-! ### The rounding seed (R177) -/

def rotl64 (x k : Nat) : Nat := ((x <<< k) ||| (x >>> (64 - k))) % 2 ^ 64

/-- `next_draw` of R177: the draw and the seed after. -/
def nextDraw (seed : BitVec 256) : Nat × BitVec 256 :=
  let s0 := fld seed 63 0
  let s1 := fld seed 127 64
  let s2 := fld seed 191 128
  let s3 := fld seed 255 192
  let out := rotl64 (s1 * 5 % 2 ^ 64) 7 * 9 % 2 ^ 64
  let t := s1 * 2 ^ 17 % 2 ^ 64
  let s2 := s2 ^^^ s0
  let s3 := s3 ^^^ s1
  let s1 := s1 ^^^ s2
  let s0 := s0 ^^^ s3
  let s2 := s2 ^^^ t
  let s3 := rotl64 s3 45
  (bitsN out 63 40, BitVec.ofNat 256 (s0 + s1 * 2 ^ 64 + s2 * 2 ^ 128 + s3 * 2 ^ 192))

/-- n draws in order after those in acc, last first, and the seed after. -/
def drawGo : Nat → List Nat → BitVec 256 → List Nat × BitVec 256
  | 0, acc, s => (acc.reverse, s)
  | n + 1, acc, s => drawGo n ((nextDraw s).1 :: acc) (nextDraw s).2

/-- n draws in order, and the seed after (R178). -/
def takeDraws (n : Nat) (seed : BitVec 256) : List Nat × BitVec 256 := drawGo n [] seed

/-! ### Matrix products (R179 to R183) -/

/-- Bytes of a stream of n b-bit elements, rounded up to whole lines (R179). -/
def streamBytes (b n : Nat) : Nat := ceilDiv (b * n) 512 * 64

/-- Element (i, k) of an operand of 256 rows (or columns) of kk elements, with the MX scale of block
kblock: offset of the scales after the elements. -/
def operandVal (code : Nat) (bs : Array Byte) (perRow i n kblocks kblock : Nat) : FVal :=
  let v := elemVal (elemCode code) (elemAt bs 0 (elemBits code) (i * perRow + n))
  match mxBase code with
  | none => v
  | some _ => scaleVal v ((bs.getD (streamBytes (elemBits code) (256 * perRow) + i * kblocks + kblock) 0).toNat)

/-- A[r][k]. -/
def aVal (code kk : Nat) (bs : Array Byte) (r k : Nat) : FVal := operandVal code bs kk r k (kk / 32) (k / 32)

/-- The products of column c of B with a row of A: pairs of a K index of A and a value of B, dense or 2:4
sparse (R179, R180). -/
def bColumn (code kk : Nat) (sparse : Bool) (bs : Array Byte) (c : Nat) : List (Nat × FVal) :=
  if sparse then
    let per := kk / 2
    let scales := if (mxBase code).isSome then streamBytes 8 (256 * (kk / 32)) else 0
    let meta0 := streamBytes (elemBits code) (256 * per) + scales
    (List.range (kk / 4)).flatMap (fun g =>
      let md := elemAt bs meta0 4 (c * (kk / 4) + g)
      [(4 * g + md % 4, operandVal code bs per c (2 * g) (kk / 32) (4 * g / 32)),
       (4 * g + md / 4 % 4, operandVal code bs per c (2 * g + 1) (kk / 32) (4 * g / 32))])
  else (List.range kk).map (fun k => (k, operandVal code bs kk c k (kk / 32) (k / 32)))

/-- Floor of m × 2^e, for a non-negative dyadic value. -/
def floorDy (m : Nat) (e : Int) : Nat := if 0 ≤ e then m * 2 ^ e.toNat else m / 2 ^ (-e).toNat

/-- What one product adds to its cell: nothing and the invalid mark, or t and whether it set SAT (R181). -/
def gridProduct (a b : FVal) (anchor : Int) (w : Nat) : Option (Int × Bool) :=
  match a, b with
  | .fin sa ma ea, .fin sb mb eb =>
    let t := floorDy (ma * mb) (ea + eb - anchor)
    let top := 2 ^ (w - 1) - 1
    let t' := if t > top then top else t
    some (if sa != sb then -(t' : Int) else (t' : Int), t > top)
  | _, _ => none

/-- A cell after one product, and whether SAT was set. -/
def cellAdd (acc : AccCell × Bool) (a b : FVal) (anchor : Int) (w : Nat) : AccCell × Bool :=
  match gridProduct a b anchor w with
  | some (t, s) => ({ acc.1 with sum := acc.1.sum + t }, acc.2 || s)
  | none => ({ acc.1 with invalid := true }, acc.2)

/-- Indices of the active cells, rising. -/
def activeCells (rows cols : Nat) : List Nat := (List.range rows).flatMap (fun r => (List.range cols).map (256 * r + ·))

def FVal.isFin : FVal → Bool
  | .fin _ _ _ => true
  | _ => false

/-- A finite zero. -/
def FVal.isZero : FVal → Bool
  | .fin _ m _ => m == 0
  | _ => false

/-- The cells of a set after the products of one MATMUL over its active rows and columns, and whether SAT
was set (R86, R181, R182). A product with a finite zero adds nothing: beside a row of finite values only the other
values of a column count. -/
def matmulCells (fa fb kk : Nat) (sparse : Bool) (ab bb : Array Byte) (rows cols : Nat) (anchor : Int) (w : Nat)
    (cells : Sparse AccCell) : Sparse AccCell × Bool :=
  let rowOf (r : Nat) : Array FVal × Bool :=
    let vs := (List.range kk).map (aVal fa kk ab r)
    (vs.toArray, vs.all FVal.isFin)
  let colOf (c : Nat) : List (Nat × FVal) × List (Nat × FVal) :=
    let l := bColumn fb kk sparse bb c
    (l, l.filter (fun e => !e.2.isZero))
  let as := ((List.range rows).map rowOf).toArray
  let bs := ((List.range cols).map colOf).toArray
  Sparse.visit {} (fun i cell sat =>
    let a := as.getD (i / 256) (#[], true)
    let b := bs.getD (i % 256) ([], [])
    (if a.2 then b.2 else b.1).foldl (fun z kb => cellAdd z (a.1.getD kb.1 (.fin false 0 0)) kb.2 anchor w) (cell, sat))
    (activeCells rows cols) [] cells false

/-- The cells of a set after an ACCADD: each active WREF value added exactly, -2^127 marking its cell invalid
(R156, R182). -/
def accaddCells (ws : Array Byte) (rows cols w : Nat) (cells : Sparse AccCell) : Sparse AccCell :=
  (Sparse.visit {} (fun i (cell : AccCell) (u : Unit) =>
    let v := signed 128 (elemAt ws 0 128 i)
    (if v = -((2 ^ (w - 1) : Nat) : Int) then { cell with invalid := true } else { cell with sum := cell.sum + v }, u))
    (activeCells rows cols) [] cells ()).1

/-- The NaN code of a C format (R183). DESIGN CHOICE (log 123): R183 lists none for INT32, whose cells a closing ACCADD can
find invalid; they drain as 0x7F. -/
def drainNan (code w : Nat) : Nat :=
  match code with
  | 0x4 => 0x7FC0
  | 0x5 => 0x7FC00000
  | 0x0 => unsigned 128 (-((2 ^ (w - 1) : Nat) : Int))
  | _ => 0x7F

/-- `drain_cell` of R183: the encoding, and whether SAT and INVALID were set. -/
def drainCell (cell : AccCell) (code : Nat) (anchor : Int) (w : Nat) (draw : Option Nat) : Nat × Bool × Bool :=
  if cell.invalid then (drainNan code w, false, true)
  else
    let top : Int := ((2 ^ (w - 1) - 1 : Nat) : Int)
    let g := min (max cell.sum (-top)) top
    let sat := g != cell.sum
    if code = 0 then (unsigned 128 g, sat, false)
    else if code = 6 then
      let c := min (max g (-2147483648)) 2147483647
      (unsigned 32 c, sat || c != g, false)
    else if g = 0 then (0, sat, false)
    else
      match floatFmt code with
      | some f =>
        let (x, s) := roundDy f draw true (g < 0) g.natAbs anchor
        (x, sat || s, false)
      | none => (0, sat, false)

/-- Drain a set: the bytes of C in row-major order, with SAT and INVALID (R88, R183). Cells beyond the
active rows and columns are written as zero and set nothing. -/
def drainSet (cells : Sparse AccCell) (code : Nat) (anchor : Int) (w rows cols : Nat) (draws : Array Nat)
    (sr : Bool) : Bytes × Bool × Bool :=
  let size := elemBits code / 8
  let (_, es, sat, inv) := Sparse.visit {} (fun i cell (z : List Nat × Bool × Bool) =>
    if i / 256 < rows && i % 256 < cols then
      let (x, s, v) := drainCell cell code anchor w (if sr then some (draws.getD i 0) else none)
      (cell, x :: z.1, z.2.1 || s, z.2.2 || v)
    else (cell, 0 :: z.1, z.2)) (List.range 65536) [] cells ([], false, false)
  (es.foldl (fun acc x => leBytes size x ++ acc) [], sat, inv)

/-! ### The vector unit (R186 to R188) -/

/-- The NaN of vector results. -/
def nan32 : Reg := 0x7FC00000#32

/-- The exact value of an FP32 pattern. -/
def val32 (x : Reg) : FVal := decodeF fFP32 x.toNat

/-- FP32 infinity and zero of a sign. -/
def inf32 (neg : Bool) : Reg := if neg then 0xFF800000#32 else 0x7F800000#32
def zero32 (neg : Bool) : Reg := if neg then 0x80000000#32 else 0#32

/-- Round a dyadic value to FP32, nearest even, overflow to infinity; an exact zero gives the zero given. -/
def round32 (s : Int) (e : Int) (z : Reg) : Reg :=
  if s = 0 then z else BitVec.ofNat 32 (roundDy fFP32 none false (s < 0) s.natAbs e).1

/-- The signed integer of a finite value. -/
def sgn (neg : Bool) (m : Nat) : Int := if neg then -(m : Int) else (m : Int)

/-- Sum of two exact values, rounded once (R186). -/
def addVal (a b : FVal) : Reg :=
  match a, b with
  | .nan, _ | _, .nan => nan32
  | .inf s, .inf t => if s = t then inf32 s else nan32
  | .inf s, .fin _ _ _ => inf32 s
  | .fin _ _ _, .inf t => inf32 t
  | .fin sa ma ea, .fin sb mb eb =>
    let e := min ea eb
    let s := sgn sa ma * 2 ^ (ea - e).toNat + sgn sb mb * 2 ^ (eb - e).toNat
    round32 s e (if ma = 0 && mb = 0 && sa && sb then zero32 true else zero32 false)

/-- Product of two exact values, not rounded. -/
def mulVal (a b : FVal) : FVal :=
  match a, b with
  | .nan, _ | _, .nan => .nan
  | .inf s, .inf t => .inf (s != t)
  | .inf s, .fin t m _ => if m = 0 then .nan else .inf (s != t)
  | .fin s m _, .inf t => if m = 0 then .nan else .inf (s != t)
  | .fin s m e, .fin t n f => .fin (s != t) (m * n) (e + f)

/-- An exact value rounded to FP32. -/
def toFp32 (v : FVal) : Reg :=
  match v with
  | .nan => nan32
  | .inf s => inf32 s
  | .fin s m e => round32 (sgn s m) e (zero32 s)

def fadd (a b : Reg) : Reg := addVal (val32 a) (val32 b)
def fneg (v : FVal) : FVal :=
  match v with
  | .nan => .nan
  | .inf s => .inf (!s)
  | .fin s m e => .fin (!s) m e
def fsub (a b : Reg) : Reg := addVal (val32 a) (fneg (val32 b))
def fmul (a b : Reg) : Reg := toFp32 (mulVal (val32 a) (val32 b))
def ffma (a b c : Reg) : Reg := addVal (mulVal (val32 a) (val32 b)) (val32 c)

/-- An FP32 pattern is a NaN. -/
def isNan32 (x : Reg) : Bool := val32 x == .nan

/-- Order key of a non-NaN pattern with -0 below +0. -/
def key32 (x : Reg) : Int := if x.getLsbD 31 then -((x.toNat % 2 ^ 31 : Nat) : Int) - 1 else (x.toNat : Int)

/-- Numeric order key of a non-NaN pattern: both zeros are 0. -/
def num32 (x : Reg) : Int := if x.getLsbD 31 then -((x.toNat % 2 ^ 31 : Nat) : Int) else (x.toNat : Int)

def fmin (a b : Reg) : Reg := if isNan32 a || isNan32 b then nan32 else if key32 a ≤ key32 b then a else b
def fmax (a b : Reg) : Reg := if isNan32 a || isNan32 b then nan32 else if key32 a ≤ key32 b then b else a
def flag32 (b : Bool) : Reg := if b then 1#32 else 0#32

/-- Round an exact finite value to the nearest integer, ties to even. -/
def nearestInt (neg : Bool) (m : Nat) (e : Int) : Int :=
  if 0 ≤ e then sgn neg (m * 2 ^ e.toNat)
  else
    let d := 2 ^ (-e).toNat
    let lo := m / d
    let rem := m % d
    sgn neg (if 2 * rem > d || (2 * rem == d && lo % 2 == 1) then lo + 1 else lo)

/-- CVTFI (Table ARI-3). -/
def cvtfi (x : Reg) : Reg :=
  let clampI (v : Int) : Int := min (max v (-2147483648)) 2147483647
  match val32 x with
  | .nan => 0
  | .inf s => BitVec.ofInt 32 (if s then -2147483648 else 2147483647)
  | .fin s m e => BitVec.ofInt 32 (clampI (nearestInt s m e))

/-- One lane of a vector subop (Tables CMD-11 and ARI-3), apart from RMAX and RSUM. -/
def laneOp (sub : Nat) (a b c : Reg) : Reg :=
  match sub with
  | 0x01 => fadd a b
  | 0x02 => fsub a b
  | 0x03 => fmul a b
  | 0x04 => ffma a b c
  | 0x05 => fmin a b
  | 0x06 => fmax a b
  | 0x07 => flag32 (!isNan32 a && !isNan32 b && num32 a < num32 b)
  | 0x08 => flag32 (!isNan32 a && !isNan32 b && num32 a == num32 b)
  | 0x09 => if c = 0 then b else a
  | 0x0A => a + b
  | 0x0B => a - b
  | 0x0C => a * b
  | 0x0D => a &&& b
  | 0x0E => a ||| b
  | 0x0F => a ^^^ b
  | 0x10 => a <<< (b.toNat % 32)
  | 0x11 => a.sshiftRight (b.toNat % 32)
  | 0x12 => a >>> (b.toNat % 32)
  | 0x13 => round32 a.toInt 0 0
  | 0x14 => cvtfi a
  | _ => a

/-- One level of `lane_reduce`: neighbours are combined. -/
def pairUp (op : Reg → Reg → Reg) : List Reg → List Reg
  | a :: b :: r => op a b :: pairUp op r
  | l => l

/-- `lane_reduce` of R188 over 2^n lanes. -/
def laneReduce (op : Reg → Reg → Reg) : Nat → List Reg → Reg
  | 0, l => l.headD 0
  | n + 1, l => laneReduce op n (pairUp op l)

/-- A register of zeros, and register r of a tile. -/
def zeroReg : List Reg := List.replicate 512 0
def regOf (vs : List (Nat × List Reg)) (r : Nat) : List Reg :=
  match vs.find? (fun e => e.1 == r) with
  | some e => e.2
  | none => zeroReg

/-- A vector subop over the 512 lanes (R130, R187, R188). -/
def vopLanes (sub : Nat) (va vb vc : List Reg) : List Reg :=
  match sub with
  | 0x15 => List.replicate 512 (laneReduce fmax 9 va)
  | 0x16 => List.replicate 512 (laneReduce fadd 9 va)
  | _ => (List.range 512).map (fun i => laneOp sub (va.getD i 0) (vb.getD i 0) (vc.getD i 0))

/-! ### VLOAD and VSTORE (R129, R152, R154, R189 to R191) -/

/-- Lines of a VLOAD or VSTORE block of a format. -/
def vecLines (code : Nat) : Nat := elemBits code + (if (mxBase code).isSome then 1 else 0)

/-- Lane i of a VLOAD (R189). -/
def vloadLane (code : Nat) (bs : Array Byte) (i : Nat) : Reg :=
  let x := elemAt bs 0 (elemBits code) i
  match mxBase code with
  | some b => toFp32 (scaleVal (elemVal b x) ((bs.getD (64 * elemBits code + i / 32) 0).toNat))
  | none =>
    if code = 5 || code = 6 then BitVec.ofNat 32 x
    else if isInt code then BitVec.ofInt 32 (signed (elemBits code) x)
    else toFp32 (elemVal code x)

/-- The 512 lanes of a VLOAD. -/
def vloadLanes (code : Nat) (bs : Bytes) : List Reg :=
  let a := bs.toArray
  (List.range 512).map (vloadLane code a)

/-- One lane of a VSTORE to a format other than an MX form: encoding, SAT, INVALID (Table ARI-4). -/
def vstoreLane (code : Nat) (x : Reg) (draw : Option Nat) : Nat × Bool × Bool :=
  if code = 5 || code = 6 then (x.toNat, false, false)
  else if isInt code then
    let b := elemBits code
    let top : Int := ((2 ^ (b - 1) - 1 : Nat) : Int)
    let v := min (max x.toInt (-top - 1)) top
    if x = 0x80000000 then (0, false, false) else (unsigned b v, v != x.toInt, false)
  else
    match floatFmt code with
    | none => (0, false, false)
    | some f =>
      match val32 x with
      | .nan => (if code = 4 then 0x7FC0 else if f.specials = 0 then 0 else 0x7F, false, true)
      | .inf s => ((if s then 2 ^ (f.eb + f.mb) else 0) + f.maxCode, true, false)
      | .fin s m e =>
        if m = 0 then (if s then 2 ^ (f.eb + f.mb) else 0, false, false)
        else
          let (c, sat) := roundDy f draw true s m e
          (c, sat, false)

/-- `mx_store_block` of R191: scale, elements, SAT, INVALID. -/
def mxStoreBlock (f : FFmt) (v : List Reg) (draws : List (Option Nat)) : Nat × List Nat × Bool × Bool :=
  let xs := v.map val32
  let special := xs.any (fun x => match x with | .fin .. => false | _ => true)
  if special then (0xFF, v.map (fun _ => 0), false, true)
  else
    let logs := xs.filterMap (fun x => match x with
      | .fin _ m e => if m = 0 then none else some ((Nat.log2 m : Int) + e)
      | _ => none)
    match logs with
    | [] => (0, xs.map (fun x => match x with | .fin true .. => 2 ^ (f.eb + f.mb) | _ => 0), false, false)
    | l :: r =>
      let x := min (max (r.foldl max l - f.emax) (-127)) 127
      let es := (xs.zip draws).map (fun p =>
        match p.1 with
        | .fin s m e =>
          if m = 0 then (if s then 2 ^ (f.eb + f.mb) else 0, false) else roundDy f p.2 true s m (e - x)
        | _ => (0, false))
      ((x + 127).toNat, es.map (·.1), es.any (·.2), false)

/-- Pack b-bit elements into a stream of whole lines (R174). -/
def packElems (b : Nat) (es : List Nat) : Bytes :=
  leBytes (streamBytes b es.length) (es.foldr (fun e acc => e + 2 ^ b * acc) 0)

/-- Cut a list into pieces of n. -/
def pieces {α : Type} (n : Nat) : Nat → List α → List (List α)
  | 0, _ => []
  | k + 1, l => l.take n :: pieces n k (l.drop n)

/-- The block that VSTORE writes from 512 lanes, with SAT and INVALID; draws is empty for nearest even. -/
def vstoreBlock (code : Nat) (v : List Reg) (draws : List Nat) : Bytes × Bool × Bool :=
  let ds : List (Option Nat) := (List.range 512).map (fun i => draws[i]?)
  match mxBase code with
  | some b =>
    let f := (floatFmt b).getD fE4M3
    let bl := ((pieces 32 16 v).zip (pieces 32 16 ds)).map (fun p => mxStoreBlock f p.1 p.2)
    let es := bl.flatMap (fun r => r.2.1)
    let scales := bl.map (fun r => BitVec.ofNat 8 r.1)
    (packElems (elemBits code) es ++ scales ++ List.replicate 48 0, bl.any (fun r => r.2.2.1), bl.any (fun r => r.2.2.2))
  | none =>
    let rs := (v.zip ds).map (fun p => vstoreLane code p.1 p.2)
    (packElems (elemBits code) (rs.map (·.1)), rs.any (fun r => r.2.1), rs.any (fun r => r.2.2))

/-! ### Transcendental functions (R192 to R198) -/

/-- The constants of Table ARI-6: the nearest integers to the reals given there. -/
def elC : Int := 6196328019
def c1C : Int := 744261118
def c2C : Int := 257941248
def c3C : Int := 59597083
def d1C : Int := 1549082005
def d2C : Int := 774541002
def d3C : Int := 516360668
def d4C : Int := 387270501
def expTab0 : List Nat := [
  1073741824, 1085434106, 1097253708, 1109202018, 1121280436, 1133490379, 1145833280, 1158310587,
  1170923762, 1183674286, 1196563654, 1209593378, 1222764986, 1236080024, 1249540052, 1263146652]
def expTab1 : List Nat := [
  1276901417, 1290805962, 1304861917, 1319070932, 1333434672, 1347954824, 1362633090, 1377471191,
  1392470869, 1407633882, 1422962010, 1438457051, 1454120821, 1469955159, 1485961921, 1502142985]
def expTab2 : List Nat := [
  1518500250, 1535035634, 1551751076, 1568648537, 1585730000, 1602997467, 1620452965, 1638098541,
  1655936265, 1673968228, 1692196547, 1710623359, 1729250827, 1748081133, 1767116489, 1786359126]
def expTab3 : List Nat := [
  1805811301, 1825475297, 1845353420, 1865448001, 1885761398, 1906295993, 1927054196, 1948038440,
  1969251188, 1990694927, 2012372174, 2034285470, 2056437387, 2078830522, 2101467502, 2124350982]
def logTab0 : List Nat := [
  12055174, 35887674, 59359063, 82480119, 105261147, 127712005, 149842123, 171660540,
  193175914, 214396548, 235330406, 255985139, 276368091, 296486322, 316346620, 335955515]
def logTab1 : List Nat := [
  355319292, 374444004, 393335483, 411999348, 430441018, 448665722, 466678505, 484484243,
  502087635, 519493234, 536705434, 553728484, 570566499, 587223454, 603703206, 620009482]
def logTab2 : List Nat := [
  636145900, 652115959, 667923056, 683570482, 699061430, 714399001, 729586202, 744625951,
  759521085, 774274358, 788888447, 803365956, 817709408, 831921271, 846003931, 859959719]
def logTab3 : List Nat := [
  873790901, 887499680, 901088207, 914558568, 927912807, 941152904, 954280797, 967298369,
  980207461, 993009865, 1005707330, 1018301561, 1030794224, 1043186947, 1055481315, 1067678873]
/-- t[i] of Table ARI-6. -/
def tC (i : Nat) : Int := ((expTab0 ++ expTab1 ++ expTab2 ++ expTab3).getD i 0 : Nat)
/-- lg[i] of Table ARI-6. -/
def lgC (i : Nat) : Int := ((logTab0 ++ logTab1 ++ logTab2 ++ logTab3).getD i 0 : Nat)
/-- rc[i] of Table ARI-6: 2^37 / (129 + 2i) to the nearest integer. -/
def rcC (i : Nat) : Int := (((2 ^ 37 + (129 + 2 * i) / 2) / (129 + 2 * i) : Nat) : Int)

/-- Arithmetic shift right by 30 (R17). -/
def sh30 (x : Int) : Int := x / 1073741824

/-- `exp_core` of R194: m and n. -/
def expCore (xfix : Int) : Int × Int :=
  let n := sh30 xfix
  let f := xfix - n * 1073741824
  let i := (f / 16777216).toNat
  let r := f - (i : Int) * 16777216
  let r2 := sh30 (r * r)
  let r3 := sh30 (r2 * r)
  let p := 1073741824 + sh30 (c1C * r) + sh30 (c2C * r2) + sh30 (c3C * r3)
  (sh30 (tC i * p), n)

/-- Floor of s × k × 2^e for integers s and k. -/
def floorMul (s k e : Int) : Int := if 0 ≤ e then s * k * 2 ^ e.toNat else s * k / 2 ^ (-e).toNat

/-- Compare ± m × 2^e with an integer: s × 2^e ≥ k. -/
def geInt (s e k : Int) : Bool := if 0 ≤ e then s * 2 ^ e.toNat ≥ k else s ≥ k * 2 ^ (-e).toNat
def leInt (s e k : Int) : Bool := if 0 ≤ e then s * 2 ^ e.toNat ≤ k else s ≤ k * 2 ^ (-e).toNat

/-- Round a positive rational to FP32. -/
def roundRat (neg : Bool) (num den : Nat) : Reg := BitVec.ofNat 32 (roundFmt fFP32 none false neg num den).1

/-- m × 2^(n - 30) as a fraction. -/
def uFrac (m n : Int) : Nat × Nat :=
  if 30 ≤ n then (m.toNat * 2 ^ (n - 30).toNat, 1) else (m.toNat, 2 ^ (30 - n).toNat)

/-- FP32 one. -/
def one32 : Reg := 0x3F800000#32

def expFn (s e : Int) : Reg :=
  if geInt s e 89 then inf32 false
  else if leInt s e (-111) then 0
  else
    let (m, n) := expCore (floorMul s elC (e - 2))
    round32 m (n - 30) 0

def exp2Fn (s e : Int) : Reg :=
  if geInt s e 128 then inf32 false
  else if leInt s e (-160) then 0
  else
    let (m, n) := expCore (floorMul s 1 (e + 30))
    round32 m (n - 30) 0

def sigmoidFn (s e : Int) : Reg :=
  if geInt s e 32 then one32
  else if leInt s e (-128) then 0
  else
    let (m, n) := expCore (floorMul (-s) elC (e - 2))
    let (un, ud) := uFrac m n
    roundRat false ud (ud + un)

def tanhFn (x : Reg) (neg : Bool) (m : Nat) (e : Int) : Reg :=
  if !geInt m (e + 12) 1 then x
  else if geInt m e 10 then (if neg then 0xBF800000#32 else one32)
  else
    let (cm, n) := expCore (floorMul (-2 * (m : Int)) elC (e - 2))
    let (un, ud) := uFrac cm n
    if un = ud then zero32 neg else roundRat neg ((ud : Int) - un).natAbs (ud + un)

/-- `log2_fixed` of R197, for a positive finite value m × 2^e that is not a power of two. -/
def log2Fixed (m : Nat) (e : Int) : Reg :=
  let k : Int := (Nat.log2 m : Int) + e
  let mm : Int := (m * 2 ^ (23 - Nat.log2 m) : Nat)
  let i := (mm / 131072 - 64).toNat
  let z := mm * rcC i / 8388608 - 1073741824
  let z2 := sh30 (z * z)
  let z3 := sh30 (z2 * z)
  let z4 := sh30 (z3 * z)
  let pz := sh30 (d1C * z - d2C * z2 + d3C * z3 - d4C * z4)
  round32 (k * 1073741824 + lgC i + pz) (-30) 0

/-- Integer square root, one bit of the root at a time. -/
def isqrtGo : Nat → Nat → Nat → Nat
  | 0, _, r => r
  | b + 1, n, r => let r' := r + 2 ^ b; if r' * r' ≤ n then isqrtGo b n r' else isqrtGo b n r

def isqrt (n : Nat) : Nat := isqrtGo (Nat.log2 n / 2 + 1) n 0

/-- √(m × 2^e) rounded once: the root is taken to more than 26 bits, and one half stands for what lies
between it and the next integer (R198). -/
def sqrtFn (m : Nat) (e : Int) : Reg :=
  let k : Int := if e % 2 = 0 then 60 else 61
  let n := m * 2 ^ k.toNat
  let r := isqrt n
  round32 ((2 * r + (if r * r = n then 0 else 1) : Nat) : Int) ((e - k) / 2 - 1) 0

/-- 1/√(m × 2^e) rounded once (R198). -/
def rsqrtFn (m : Nat) (e : Int) : Reg :=
  let k : Nat := if e % 2 = 0 then 120 else 121
  let r := isqrt (2 ^ k / m)
  round32 ((2 * r + (if r * r * m = 2 ^ k then 0 else 1) : Nat) : Int) (-(e + k) / 2 - 1) 0

/-- A transcendental function of one FP32 operand (Tables CMD-12 and ARI-5). -/
def transFn (func : Nat) (x : Reg) : Reg :=
  match val32 x with
  | .nan => nan32
  | .inf neg =>
    match func with
    | 0x01 | 0x02 => if neg then 0 else inf32 false
    | 0x03 | 0x06 => if neg then nan32 else inf32 false
    | 0x04 => zero32 neg
    | 0x05 => if neg then nan32 else 0
    | 0x07 => if neg then 0xBF800000#32 else one32
    | _ => if neg then 0 else one32
  | .fin neg m e =>
    if m = 0 then
      match func with
      | 0x01 | 0x02 => one32
      | 0x03 => inf32 true
      | 0x04 | 0x05 => inf32 neg
      | 0x06 | 0x07 => zero32 neg
      | _ => 0x3F000000#32
    else
      match func with
      | 0x01 => expFn (sgn neg m) e
      | 0x02 => exp2Fn (sgn neg m) e
      | 0x03 =>
        if neg then nan32
        else if m = 2 ^ Nat.log2 m then round32 ((Nat.log2 m : Int) + e) 0 0
        else log2Fixed m e
      | 0x04 => if 0 ≤ e then roundRat neg 1 (m * 2 ^ e.toNat) else roundRat neg (2 ^ (-e).toNat) m
      | 0x05 => if neg then nan32 else rsqrtFn m e
      | 0x06 => if neg then nan32 else sqrtFn m e
      | 0x07 => tanhFn x neg m e
      | _ => sigmoidFn (sgn neg m) e

end Sys2Proof.Machine
end

