-- ==== Sys2Proof/Config.lean ====
section
/-!
DEFINITION. What the spec leaves to an external standard or leaves open: uninterpreted constants, with no
body, so that every statement about the model holds whatever they are. Each is named in the assumption
log (notes/assumptions/).
-/
namespace Sys2Proof.Config

/-- SHA3-256 (an external standard; R281, R307, R398). -/
opaque sha3d256 : Bytes → BitVec 256
/-- SHA3-512 (an external standard; R337, R338, R346, R393, R396, R398). -/
opaque sha3d512 : Bytes → BitVec 512
/-- AES-256-GCM encryption: key, 96-bit IV, additional data, plaintext to ciphertext (R230, R336, R341, R402). -/
opaque gcmEncrypt : BitVec 256 → BitVec 96 → Bytes → Bytes → Bytes
/-- AES-256-GCM authentication tag: key, IV, additional data, ciphertext (R229, R335, R402). -/
opaque gcmTag : BitVec 256 → BitVec 96 → Bytes → Bytes → BitVec 128
/-- AES-256-GCM decryption of the ciphertext, apart from the tag check (R230, R346, R403). -/
opaque gcmDecrypt : BitVec 256 → BitVec 96 → Bytes → Bytes → Bytes
/-- Pure ML-DSA-87 verification with an empty context string: public key, message, signature (R338, R393). -/
opaque mldsaVerify : Bytes → Bytes → Bytes → Bool
/-- ML-DSA-87 signature under a key made from a seed (R396, R397). -/
opaque mldsaSign : BitVec 256 → Bytes → Bytes
/-- ML-DSA-87 public key of a seed (R396). -/
opaque mldsaPublic : BitVec 256 → Bytes
/-- ML-KEM-1024 encapsulation key of a decapsulation seed, 1,568 bytes (R396, R401). -/
opaque mlkemPublic : BitVec 512 → Bytes
/-- ML-KEM-1024 decapsulation: the shared secret (R402, R403). -/
opaque mlkemDecaps : BitVec 512 → Bytes → BitVec 256
/-- The random bit generator of the hub: draw number n (R163, R396, R399). -/
opaque random512 : Nat → BitVec 512
/-- Which of two unordered accesses reaches a local-store line first (R85, R217): the same on every run of a plan on a
stepping. Plan image, stepping, logical tile, the two commands (stream, index, ITER0, ITER1, issue cycle from T0), line;
true where the first-named one does. -/
opaque lineFirst : Bytes → Nat → Nat → List Nat → List Nat → Nat → Bool
/-- What a byte of a device page holds after the CXL target rejected its write, which no rule states (R137): free value
number n, byte of the page. -/
opaque spoiledByte : Nat → Nat → Byte
/-- Whether an input above 72 V damages the module: free value number n, level in mV (Table PHY-1 says that damage is
possible). -/
opaque inputDamages : Nat → Nat → Bool
/-- What a byte of a serving section without plan access reads as to a plan: wall cycle, byte address (R313 gives
such a read no result). -/
opaque hiddenByte : Nat → Nat → Byte
/-- Where the serving firmware places a firkin: handle, firkin, tile; whether in the CXL tier (R328, R329 leave it to
the firmware). -/
opaque firkinPlace : Bool → Nat → Nat → Nat → Nat
/-- FLINES of the plan's firkins, which the step tables and the descriptor do not name (R236, R331). -/
opaque firkinLines : BitVec 256 → Nat
/-- A completion status that the spec does not state, by the case (R340, R351). -/
opaque openStatus : Nat → Nat
/-- Whether the planned HBM placement of R118 and R224 exists for the paged transfers of one furlong, whose lines the page
table gives at run time: member, tile, opcode, cycle of the furlong and occupancy of each. -/
opaque hbmPlacement : List (List Nat) → Bool
/-- The row of a pseudo-channel that holds a line of a stack: the spec repairs rows and does not give their size
(R432, R433). -/
opaque hbmRow : Nat → Nat
/-- The unique device secret, fused at manufacture (R396). -/
opaque uds : BitVec 512
/-- The fused digest of the firmware key (Table SEC-3). -/
opaque fusedKeyDigest : BitVec 512
/-- The digest of the boot ROM, measurement block 1 (Table SEC-6). -/
opaque romDigest : BitVec 512
/-- A certificate chain as bytes, from the contents that Table SEC-4 gives each certificate and its signature, the first
signed first (R396, R397). -/
opaque certChain : List (Bytes × Bytes) → Bytes
/-- The part number of the module, and the signature of the Rolesk manufacturing CA over the DeviceID certificate
(Table SEC-4). -/
opaque partNumber : Bytes
opaque factorySign : Bytes → Bytes
/-- The storage key that the unique device secret gives (Table SEC-7, which does not say how). -/
opaque storageKey : BitVec 512 → BitVec 256
/-- The image of firmware context k, 8 for the module context, within BODY, whose layout the spec does not give (R393). -/
opaque contextImage : Nat → Bytes → Bytes
/-- What the boot area reads back as after a write at a wall time (R394). -/
opaque readBack : Nat → Bytes → Bytes
/-- Whether a loss of power at the wall time of a write of the boot area cut it short, and whether the next boot then
finds no image or one whose signature fails (R394 leaves both open). -/
opaque tornWrite : Nat → Bool
opaque tornEmpty : Nat → Bool
/-- Pages of a tier move taken up before a TIER_ROTATE, of so many: free value number, pages (R414). -/
opaque takenUp : Nat → Nat → Nat
/-- The PCI vendor ID of the module, which the spec names and does not give (R397, R401). -/
opaque vendorId : BitVec 16
/-- The responder's answer fields of SPDM that the spec leaves to SPDM 1.3: request code, request bytes. -/
opaque spdmFields : Nat → Bytes → Bytes
/-- The 64-bit serial number of the module (Table REG-2). -/
opaque serial : BitVec 64
/-- The initialization vector of a flash page outside stone records, from its page number and write count: the
spec gives what it is made of and not its layout (R341). -/
opaque flashIv : Nat → Nat → BitVec 96
/-- The TAG of a PWRITE packet, by source node and XFER: its value is not stated (Table FAB-4). -/
opaque plannedTag : BitVec 24 → Nat → BitVec 12

end Sys2Proof.Config
end

