-- ==== Sys2Proof/Machine/Flags.lean ====
section
/-!
DEFINITION. The counting flags, predicate registers and other effects that settle at the end of a cycle of a
tile (R75, R76, R112, R115, R122, R163, R215).
-/
namespace Sys2Proof.Machine

/-! ### Association lists kept by ascending key, where presence matters -/

/-- The value at a key. -/
def alGet {α : Type} (l : List (Nat × α)) (k : Nat) : Option α := (l.find? (fun e => e.1 == k)).map (·.2)

/-- Put a value at a key, in ascending order of keys. -/
def alPut {α : Type} : List (Nat × α) → Nat → α → List (Nat × α)
  | [], k, v => [(k, v)]
  | (j, w) :: r, k, v => if k < j then (k, v) :: (j, w) :: r else if k = j then (k, v) :: r else (j, w) :: alPut r k v

/-- Remove a key. -/
def alDel {α : Type} (l : List (Nat × α)) (k : Nat) : List (Nat × α) := l.filter (fun e => e.1 != k)

/-- The order of locations within one code: tile, stream, index. -/
def Loc.key (l : Option Loc) : Nat :=
  match l with
  | none => 2 ^ 40
  | some l => l.tile * 2 ^ 20 + (match l.stream with | .access => 0 | .execute => 1) * 2 ^ 17 + l.index

/-! ### The end of a cycle (R75, R76, R112, R115, R122, R163, R215) -/

/-- What the flag effects of one cycle do to one flag: FSET first, then every subtraction and addition
together; above 65,535 or below 0 the flag stops at its bound with FLAG_OVERFLOW (R75, R76, R115). -/
structure FlagSum where
  set : Option (Nat × Loc) := none
  sub : Nat := 0
  add : Nat := 0
  subLocs : List Loc := []
  addLocs : List Loc := []
  deriving DecidableEq, Repr, Inhabited

/-- Gather the effects of a cycle on flag k. DESIGN CHOICE (log 118): where two FSETs of one flag, one of each stream,
complete in one cycle, R115 does not say which VALUE stands; the later completion row's does. -/
def flagSum (k : Nat) (es : List EndEffect) : FlagSum :=
  es.foldl (fun a e =>
    match e with
    | .flagSet f v l => if f = k then { a with set := some (v, l) } else a
    | .flagSub f c l => if f = k then { a with sub := a.sub + c, subLocs := a.subLocs ++ [l] } else a
    | .flagAdd f c l => if f = k then { a with add := a.add + c, addLocs := a.addLocs ++ [l] } else a
    | _ => a) {}

/-- The new value of a flag, with the fault where there is one: cause, location A, location B. -/
def FlagSum.result (a : FlagSum) (old : Nat) : Nat × Option (Nat × Option Loc × Option Loc) :=
  let base := match a.set with | some (v, _) => v | none => old
  if base < a.sub then
    let waits := sortBy (fun l => Loc.key (some l)) a.subLocs
    (0, some (1, a.set.map (·.2), waits.head?))
  else
    let v := base - a.sub + a.add
    if v > 65535 then
      let ls := sortBy (fun l => Loc.key (some l)) a.addLocs
      (65535, some (0, ls.head?, ls[1]?))
    else (v, none)

/-- Flags that the effects of a cycle name. -/
def flagsNamed (es : List EndEffect) : List Nat :=
  es.foldl (fun a e =>
    let f := match e with
      | .flagSet f _ _ => some f
      | .flagSub f _ _ => some f
      | .flagAdd f _ _ => some f
      | _ => none
    match f with
    | some f => if a.contains f then a else a ++ [f]
    | none => a) []

/-- Apply the effects of a cycle's end to one stream's predicate register: PSETs that complete in the cycle,
in the order of their completion rows (R112). -/
def predSum (st : Stream) (es : List EndEffect) (w : Word64) : Word64 :=
  es.foldl (fun w e =>
    match e with
    | .pred s mask v _ => if s = st then (w &&& ~~~mask) ||| (v &&& mask) else w
    | _ => w) w

/-- A tile at the end of a cycle, with the FLAG_OVERFLOW faults: flag, cause, locations. -/
def Tile.settle (x : Tile) : Tile × List (Nat × Nat × Option Loc × Option Loc) :=
  let es := x.atEnd
  let fs := (flagsNamed es).map (fun k => (k, (flagSum k es).result (x.flags.get 0 k)))
  let y := { x with
    flags := fs.foldl (fun a e => Sparse.put 0 a e.1 e.2.1) x.flags
    acc := { x.acc with pred := predSum .access es x.acc.pred }
    exe := { x.exe with pred := predSum .execute es x.exe.pred }
    released := es.foldl (fun a e => match e with
      | .release b _ => if a.contains b then a else a ++ [b]
      | _ => a) x.released
    seed := es.foldl (fun a e => match e with
      | .seed v _ => v
      | _ => a) x.seed
    groups := es.foldl (fun a e => match e with
      | .group g st => alPut a g st
      | _ => a) x.groups
    atEnd := [] }
  (y, fs.filterMap (fun e => e.2.2.map (fun f => (e.1, f.1, f.2.1, f.2.2))))

end Sys2Proof.Machine
end

