-- ==== Sys2Proof/Machine/Ops.lean ====
section
/-!
DEFINITION. The operations that every family shares: event bits and MSI-X (R381, R478), fault records
(R444, R445), packets and management messages (R285, R301), the failure of a member (R298), the passing
of time with the effects of the end of a cycle (R75, R76, R445), and the memories of a tile and of a bay.
-/
namespace Sys2Proof.Machine

/-! ### Events (R478, R480) and MSI-X (R381) -/

/-- Event bits of Table REG-4. -/
def evFault : Nat := 8
def evDomainFailed : Nat := 9
def evDomainEnded : Nat := 10
def evStoneCorrupt : Nat := 11
def evRingCfg : Nat := 12
def evRingError : Nat := 13
def evRingDb : Nat := 14
def evCfgParity : Nat := 15
def evCfgReject : Nat := 16
def evThermalStep : Nat := 17
def evLockLost : Nat := 18
def evShutdown : Nat := 19
def evRingsLost : Nat := 20
def evRotationDone : Nat := 21
def evRotationStalled : Nat := 22
def evPortIsolated : Nat := 23
def evHazard : Nat := 24
def evNoReference : Nat := 25
def evHostLinkDegraded : Nat := 26
def evReplaceRequested : Nat := 27
def evStandbyEntered : Nat := 28
def evStartupDone : Nat := 29
def evUserCalLost : Nat := 30
def evFence : Nat := 31

/-- Send or pend the message of an MSI-X vector (R381). -/
def Func.msix (x : Func) (v : Nat) : Func :=
  if x.msixMask.getLsbD v then { x with msixPend := x.msixPend ||| (1#64 <<< v) }
  else { x with msixSent := x.msixSent ++ [v] }

/-- The host masks and unmasks vectors in the MSI-X table (R381): the pending message of a vector is sent as it is unmasked.
The table lies in PCI Express configuration, which no row of the opcode table writes. -/
def Func.setMask (x : Func) (mask : BitVec 64) : Func :=
  let sent := (List.range 64).filter (fun v => x.msixPend.getLsbD v && !mask.getLsbD v)
  { x with msixMask := mask, msixPend := x.msixPend &&& mask, msixSent := x.msixSent ++ sent }

/-- Ageing (R478): a stamp that would fall 128 behind the new SEQ takes the new SEQ. -/
def ageStamp (seq t : BitVec 8) : BitVec 8 := if (seq - t).toNat ≥ 128 then seq else t

/-- One occurrence of an event at a function (R478): SEQ advances, old stamps age, the bit takes the new
SEQ, and vector 0 is signalled where EVT_MASK selects the event (Table REG-3). -/
def Func.occur (x : Func) (bit : Nat) : Func :=
  let seq := x.seq + 1
  let aged := x.events.map (fun e => (e.1, ageStamp seq e.2))
  let y := { x with seq := seq, events := alPut aged bit seq }
  if x.evtMask.active.getLsbD bit then y.msix 0 else y

/-- A write of sequence value s to EVT_STATUS (R478). -/
def Func.writeBack (x : Func) (s : BitVec 8) : Func :=
  if (x.seq - s).toNat ≥ 128 then x
  else { x with events := x.events.filter (fun e => (s - e.2).toNat ≥ 128) }

/-- The word EVT_STATUS reads (R478). -/
def Func.evtStatus (x : Func) : Nat := x.seq.toNat + (x.events.map (fun e => 2 ^ e.1)).foldl (· + ·) 0

/-- Post an event at one function. -/
def postEvent (f : Fn) (bit : Nat) (m : Mod) : Mod := m.updFunc f (·.occur bit)

/-- Post an event at a partition's VF and at PF0. -/
def postBoth (p : Part) (bit : Nat) (m : Mod) : Mod := postEvent pf0 bit (postEvent (vfOf p) bit m)

/-- Post an event of a function at PF0 too (Table REG-4). -/
def postAt (f : Fn) (bit : Nat) (m : Mod) : Mod := if f = pf0 then postEvent pf0 bit m else postEvent pf0 bit (postEvent f bit m)

/-- Post a module-wide event (R412): every admitted partition's VF, and PF0. -/
def postAll (bit : Nat) (m : Mod) : Mod :=
  let m := allParts.foldl (fun m p => if (m.part p).admitted then postEvent (vfOf p) bit m else m) m
  postEvent pf0 bit m

/-! ### Enforcement points (R386, R390) and the mailbox (R391) -/

/-- A transfer on the mesh whose partition tag is not that of the receiving bay: dropped, and logged in PF0. -/
def meshFenced (m : Mod) : Mod :=
  postEvent pf0 evFence { m with regs := { m.regs with meshFence := m.regs.meshFence.add 1 } }

/-- An access of a firmware context outside its windows: refused, and logged in PF0. -/
def ctxFenced (m : Mod) : Mod :=
  postEvent pf0 evFence { m with regs := { m.regs with ctxFence := m.regs.ctxFence.add 1 } }

/-- The windows of an admitted partition's context, and of the module context (R389). -/
def partWindows : List CtxPlace :=
  [.sram, .servingWindow, .pageTables, .rings, .prompts, .ttlTimers, .packets, .telemetry, .tierMover, .engines]
def modWindows : List CtxPlace := [.modRings, .management, .modTelemetry, .powerControls]

/-- An access of a partition's context: checked against its windows. -/
def onCtx (p : Part) (w : CtxPlace) (g : Mod → Mod) (m : Mod) : Mod :=
  if (m.part p).ctx.windows.contains w then g m else ctxFenced m

/-- A message of the module context to a partition context. -/
def sendMail (a : Mail) (p : Part) (m : Mod) : Mod :=
  if (m.part p).admitted then m.updPart p (fun x => { x with ctx := { x.ctx with mail := x.ctx.mail ++ [a] } }) else m

/-- A message to every partition context. -/
def mailAll (a : Mail) (m : Mod) : Mod := allParts.foldl (fun m p => sendMail a p m) m

/-- A partition context takes its messages. -/
def takeMail (p : Part) (m : Mod) : Mod := m.updPart p (fun x => { x with ctx := { x.ctx with mail := [] } })

/-- The module is the timing root of its frequency tree (R31). -/
def Mod.timingRoot (m : Mod) : Bool := m.regs.clk.active.getLsbD 0

/-! ### Tiles (R97) -/

/-- The physical tile that serves a logical tile (R97). Before the first job start of its bay, the tile that
R97 gives with no tile retired. -/
def Mod.physOf (m : Mod) (t : TileId) : Fin 72 :=
  let n := m.tileMap.get t
  if n < 72 then toFin 72 n else toFin 72 (9 * (t.val / 8) + t.val % 8)

/-! ### Fault records (R443 to R445) -/

/-- The order of records raised in one cycle: CODE, then location A (R445). -/
def FaultRec.key (r : FaultRec) : Nat := r.code * 2 ^ 44 + Loc.key r.locA

/-- The physical tile of a location (R100). -/
def Mod.ptileOf (m : Mod) (l : Option Loc) : Option Nat :=
  l.map (fun l => m.tileMap.get (toFin 64 l.tile))

/-- OBJECT and bay of the record of a fault. The OBJECT with which a MEM_UE of an HBM line is raised carries the bay of the
line above bit 40; the record keeps the line, and that bay partition-relative (R228). -/
def recordObject (code cause object : Nat) : Nat := if code = 0x0011 ∧ cause = 2 then object % 2 ^ 40 else object
def Partition.recordBay (x : Partition) (code cause object : Nat) : Nat :=
  if code = 0x0011 ∧ cause = 2 then x.bays.idxOf (object / 2 ^ 40) else 0

/-- A fault raised by the module in a partition, to take effect at the end of plan cycle c (R445). -/
def raise (p : Part) (c code cause : Nat) (a b : Option Loc) (object : Nat) (m : Mod) : Mod :=
  let r : FaultRec := { code, cause, seq := 0, cycle := c, locA := a, locB := b, object := recordObject code cause object
                        ptileA := m.ptileOf a, ptileB := m.ptileOf b, bay := (m.part p).recordBay code cause object }
  m.updPart p (fun x => { x with dueFaults := x.dueFaults ++ [r] })

/-- Record an uncorrectable line in the UE log of a partition, its last 64 lines (R228); a row of a stack with such a
line becomes due for repair (R433). -/
def logUe (p : Part) (ref : LineRef) (cycle tile : Nat) (m : Mod) : Mod :=
  let e : UeEntry := { ref, cycle, tile }
  let m := m.updPart p (fun x =>
    let l := x.tel.ueLog.filter (fun o => o.ref != ref) ++ [e]
    { x with tel := { x.tel with ueLog := l.drop (l.length - 64) } })
  match ref with
  | .hbm b l =>
    let k := (b.val, l % 32, Config.hbmRow l)
    if m.cal.due.contains k then m else { m with cal := { m.cal with due := m.cal.due ++ [k] } }
  | .localStore _ _ => m

/-- The line that a MEM_UE record of a partition names. -/
def FaultRec.line (p : Part) (m : Mod) (r : FaultRec) : Option LineRef :=
  if r.code ≠ 0x0011 then none
  else if r.cause = 2 then ((m.part p).bayAt r.bay).map (fun b => .hbm (toFin 8 b) r.object)
  else if r.cause = 1 then
    r.locA.map (fun (l : Loc) => .localStore (m.physOf (toFin 64 l.tile)) r.object)
  else none

/-- Keep a record in the fault log of 16 records and post it (R445); an uncorrectable line enters the UE log. -/
def logFault (p : Part) (r : FaultRec) (m : Mod) : Mod :=
  let m := match r.line p m with
    | some ref => logUe p ref r.cycle ((r.locA.map (fun (l : Loc) => l.tile)).getD 0) m
    | none => m
  let m := m.updPart p (fun x =>
    let r := { r with seq := x.faultLog.length }
    let x := { x with faultCount := satAdd 255 x.faultCount 1 }
    if x.faultLog.length < 16 then { x with faultLog := x.faultLog ++ [r] } else { x with flogOvf := true })
  postBoth p evFault m

/-! ### Nodes, ports of a domain, packets -/

/-- The node address of the module (Table FAB-1, R279). -/
def Mod.node (m : Mod) : BitVec 24 := m.regs.node ++ m.regs.straps

/-- The member index of a node in a descriptor. -/
def DomainDesc.memberOf (d : DomainDesc) (node : BitVec 24) : Option Nat :=
  d.members.findIdx? (fun r => r.1 == node)

/-- The link index at a port of a node, with the node and port at its other end. -/
def DomainDesc.linkAt (d : DomainDesc) (node : BitVec 24) (q : Nat) : Option (Nat × BitVec 24 × Nat) :=
  match d.links.findIdx? (fun r => (r.nodeA == node && r.portA == q) || (r.nodeB == node && r.portB == q)) with
  | none => none
  | some j =>
    match d.links[j]? with
    | none => none
    | some r => if r.nodeA == node && r.portA == q then some (j, r.nodeB, r.portB) else some (j, r.nodeA, r.portA)

/-- The link a domain port of partition p carries: its index and far end (R283). -/
def Mod.domainLink (m : Mod) (p : Part) (q : PortId) : Option (Nat × BitVec 24 × Nat) :=
  let mb := (m.part p).member
  match mb.desc with
  | none => none
  | some d =>
    match d.linkAt m.node q.val with
    | some (j, n, k) => if mb.excl.contains j then none else some (j, n, k)
    | none => none

/-- Port q is a domain port of partition p (R283): its link is included and the member is not IDLE. -/
def Mod.isDomainPort (m : Mod) (p : Part) (q : PortId) : Bool :=
  (m.part p).hasBay (q.val / 2) && (m.part p).member.st != .idle && (m.domainLink p q).isSome

/-- The domain ports of a partition, ascending. -/
def Mod.domainPorts (m : Mod) (p : Part) : List PortId := allPorts.filter (m.isDomainPort p)

/-- The domain ID of a partition's descriptor, 0 where there is none. -/
def Mod.domainId (m : Mod) (p : Part) : BitVec 16 :=
  match (m.part p).member.desc with
  | some d => d.domain
  | none => 0

/-- The packet header of Table FAB-4 as a 128-bit word. -/
def packetHeader (dnode : BitVec 24) (dbay kind offset : Nat) (snode : BitVec 24) (sbay lines tag mcdir : Nat) :
    BitVec 128 :=
  BitVec.ofNat 128 (dnode.toNat + dbay % 8 * 2 ^ 24 + kind % 16 * 2 ^ 27 + offset % 2 ^ 40 * 2 ^ 32
    + snode.toNat * 2 ^ 72 + sbay % 8 * 2 ^ 96 + lines % 2 ^ 12 * 2 ^ 99 + tag % 2 ^ 12 * 2 ^ 111
    + mcdir % 4 * 2 ^ 123)

/-- Cut a run of bytes into payloads of 240 bytes, the last padded with zeros (R285). -/
def cutPayloads : Nat → Bytes → List Bytes
  | 0, _ => []
  | n + 1, bs => sliceB bs 0 240 :: cutPayloads n (bs.drop 240)

/-- The flits of a packet (R285): header, then body, SOP on the first, EOP on the last. -/
def packetFlits (vc : Nat) (domain : BitVec 16) (hdr : BitVec 128) (body : Bytes) : List TxFlit :=
  let bs := leBytes 16 hdr.toNat ++ body
  let n := max 1 (ceilDiv bs.length 240)
  (cutPayloads n bs).mapIdx (fun i pl =>
    { type := 1, vc, sop := i == 0, eop := i + 1 == n, domain, payload := pl })

/-- Queue flits on VC 1 to 5 of a port. -/
def queueVc (q : PortId) (vc : Nat) (fs : List TxFlit) (m : Mod) : Mod :=
  m.updPort q (fun x => { x with txVc := x.txVc.set! (vc - 1) (x.txVc[vc - 1]! ++ fs) })

/-- Queue flits ahead of the packets that wait on a VC, behind one already begun (R298: ABORT). -/
def queueVcFirst (q : PortId) (vc : Nat) (fs : List TxFlit) (m : Mod) : Mod :=
  m.updPort q (fun x =>
    let l := x.txVc[vc - 1]!
    let begun := l.takeWhile (fun f => !f.sop)
    { x with txVc := x.txVc.set! (vc - 1) (begun ++ fs ++ l.drop begun.length) })

/-- Kind of a management packet, and VC number of MG (Tables FAB-5, LNK-6). -/
def kindMgmt : Nat := 8
def vcMg : Nat := 5

/-- The flits of a management packet from a port to its partner (R294, R301). -/
def Mod.mgFlits (m : Mod) (q : PortId) (body : Bytes) : List TxFlit :=
  let x := m.port q
  let (dn, dp) := x.partner.getD (0xFFFFFF#24, 0)
  let lines := ceilDiv body.length 64
  let hdr := packetHeader dn (dp / 2) kindMgmt 0 m.node (q.val / 2) (lines - 1) 0 0
  packetFlits vcMg x.domain hdr (sliceB body 0 (64 * lines))

/-- A message of more than 4,096 lines as the bodies of several packets, each begun by its message line, with LAST
on the final one alone (R301). -/
def mgBodies : Nat → Bytes → List Bytes
  | 0, _ => []
  | k + 1, b =>
    let flags := leAt b 5 1 / 4 * 4 + leAt b 5 1 % 2
    if b.length ≤ 4096 * 64 then [b.take 5 ++ leBytes 1 (flags + 2) ++ b.drop 6]
    else
      let line := b.take 5 ++ leBytes 1 flags ++ sliceB b 6 58
      (line ++ sliceB b 64 (4095 * 64)) :: mgBodies k (b.take 64 ++ b.drop (4096 * 64))

/-- Send a management message on a port. -/
def sendMg (q : PortId) (body : Bytes) (m : Mod) : Mod :=
  (mgBodies (body.length / 262080 + 1) body).foldl (fun m b => queueVc q vcMg (m.mgFlits q b) m) m

/-- The first line of a management message (Table FAB-9). -/
structure MgLine where
  mtype : Nat
  attempt : Nat := 0
  domain : BitVec 16 := 0
  fexp : Nat := 0
  sealed : Bool := false
  last : Bool := true
  cause : Nat := 0
  stamp : Nat := 0
  t0 : Nat := 0
  g : Nat := 0
  h : Nat := 0
  s : Nat := 0
  d : Nat := 0
  origin : BitVec 24 := 0
  count : Nat := 0
  nlat : Nat := 0
  deriving DecidableEq, Repr, Inhabited

/-- The 64 bytes of a message line. -/
def MgLine.bytes (l : MgLine) : Bytes :=
  leBytes 1 l.mtype ++ leBytes 1 l.attempt ++ leBytes 2 l.domain.toNat ++ leBytes 1 l.fexp
  ++ leBytes 1 ((if l.sealed then 1 else 0) + (if l.last then 2 else 0)) ++ leBytes 2 l.cause
  ++ leBytes 8 l.stamp ++ leBytes 8 l.t0 ++ leBytes 2 l.g ++ leBytes 2 0 ++ leBytes 4 l.h ++ leBytes 4 l.s
  ++ leBytes 4 l.d ++ leBytes 3 l.origin.toNat ++ leBytes 1 0 ++ leBytes 4 l.count ++ leBytes 4 l.nlat
  ++ leBytes 12 0

/-- Read a message line. -/
def MgLine.parse (b : Bytes) : MgLine :=
  { mtype := leAt b 0 1, attempt := leAt b 1 1, domain := BitVec.ofNat 16 (leAt b 2 2), fexp := leAt b 4 1,
    sealed := leAt b 5 1 % 2 == 1, last := leAt b 5 1 / 2 % 2 == 1, cause := leAt b 6 2, stamp := leAt b 8 8,
    t0 := leAt b 16 8, g := leAt b 24 2, h := leAt b 28 4, s := leAt b 32 4, d := leAt b 36 4,
    origin := BitVec.ofNat 24 (leAt b 40 3), count := leAt b 44 4, nlat := leAt b 48 4 }

/-! ### Stopping a plan and failing a member -/

/-- The rods that the standing hold has stood, and its extensions so far, as they count when it ends with the plan (R57). -/
def PartTel.cutHold (t : PartTel) (stood ext h : Nat) : PartTel :=
  { t with holdExt := t.holdExt.add (min ext (stood / max 1 h)), holdRods := t.holdRods.add stood }

/-- A partition as its standing hold is cut short, where one stands. -/
def Partition.cutHold (x : Partition) (wall : Nat) : Partition :=
  match x.standing with
  | none => x
  | some s =>
    let ext := ((x.holds.find? (fun h => h.target == s.target)).map (·.ext)).getD 0
    { x with standing := none, tel := x.tel.cutHold ((wall - s.since) / 5) ext x.member.params.h }

/-- Stop the plan of a partition. A check block held back by R447 is applied; one in parity mismatch takes
its reset values only at the next job start. -/
def stopPlan (p : Part) (m : Mod) : Mod :=
  let x := m.part p
  let m := if x.chkPending then
      m.updFunc (vfOf p) (fun f => { f with chk := { f.chk with active := f.chk.shadow } })
    else m
  m.setPart p { x.cutHold m.wall with running := false, chkPending := false, dueFaults := [] }

/-- What the serving firmware loses when its job fails (R320, R326): the step in progress, the accepted commit, and the
steps whose end it has not reported. -/
def Serving.fail (v : Serving) : Serving :=
  { v with current := none, commit := none, steps := v.steps.filter (fun s => s.step < v.ended) }

/-- DOMAIN_FAILED with its cause, to the VF of a partition and to PF0 (R298, R380). -/
def postFailed (p : Part) (cause : Nat) (m : Mod) : Mod :=
  let info (part : Nat) : Reg :=
    BitVec.ofNat 32 ((m.domainId p).toNat + cause % 256 * 2 ^ 16 + part * 2 ^ 24)
  let m := m.updFunc (vfOf p) (fun f => { f with evtDomain := info 0 })
  let m := m.updFunc pf0 (fun f => { f with evtDomain := info p.val })
  postBoth p evDomainFailed m

/-- A failure of a partition's domain in the cycle at wall time w governs a HOLD_REQ of the same cycle (R488). -/
def refuseHoldReq (p : Part) (w : Nat) (m : Mod) : Mod :=
  if m.regs.holdReqAt = some (p.val, w) then { m with regs := { m.regs with holdReq := 2 } } else m

/-- The domain of a COMMITTED or RUNNING member fails as for a failed node (R298), whether by its own
failure or by the first ABORT, which arrived on port src. Other states are not concerned. -/
def failMember (p : Part) (cause : Nat) (origin : BitVec 24) (stamp : Nat) (src : Option PortId) (m : Mod) : Mod :=
  match (m.part p).member.st with
  | .committed | .running =>
    let m := refuseHoldReq p m.wall (stopPlan p m)
    let line : MgLine := { mtype := 5, domain := m.domainId p, cause, stamp, origin }
    let ports := (m.domainPorts p).filter (fun q => some q != src)
    let m := ports.foldl (fun m q => queueVcFirst q vcMg (m.mgFlits q line.bytes) m) m
    postFailed p cause (m.updPart p (fun x =>
      { x with member := { x.member with st := .teardown, since := m.wall, failed := some cause },
               serving := x.serving.fail, thermNext := none }))
  | _ => m

/-- The domain of a partition fails by the member's own failure: its node is ORIGIN and its plan counter is
STAMP (R298). -/
def failOwn (p : Part) (cause : Nat) (m : Mod) : Mod := failMember p cause m.node (m.part p).ctr none m

/-- A failure of a module that ends a domain (codes 0x0020 to 0x0028): its record is kept and the domain
fails at once. Nothing happens where no job is COMMITTED or RUNNING. -/
def failNode (p : Part) (code cause object : Nat) (m : Mod) : Mod :=
  match (m.part p).member.st with
  | .committed | .running =>
    let r : FaultRec := { code, cause, seq := 0, cycle := (m.part p).ctr, locA := none, locB := none, object,
                          ptileA := none, ptileB := none }
    failOwn p code (logFault p r m)
  | _ => m

/-! ### The end of a cycle of the module -/

/-- Fault code of FLAG_OVERFLOW (Table CHK-2). -/
def cFlagOverflow : Nat := 0x000A

/-- Settle one tile of the module. -/
def settleTile (m : Mod) (t : TileId) : Mod :=
  if (m.tile t).atEnd.isEmpty then m
  else
    let (x, fs) := (m.tile t).settle
    let m := m.setTile t x
    match m.partOfTile t with
    | none => m
    | some p => fs.foldl (fun m f => raise p (m.part p).ctr cFlagOverflow f.2.1 f.2.2.1 f.2.2.2 f.1 m) m

/-- Settle every tile. -/
def settleTiles (m : Mod) : Mod := allTiles.foldl settleTile m

/-- The faults of a partition whose cycle has ended: all of the earliest such cycle are recorded in the
order of CODE, then location A, the plan stops, and the domain fails with the first CODE as its cause. No
later fault is recorded (R445). -/
def settleFaults (m : Mod) (p : Part) : Mod :=
  let x := m.part p
  let due := x.dueFaults.filter (fun r => r.cycle < x.ctr || (x.standing.isSome && r.cycle == x.ctr) || !x.ctrOn)
  match minL (due.map (·.cycle)) with
  | none => m
  | some c =>
    let rs := sortBy FaultRec.key (due.filter (fun r => r.cycle == c))
    let m := rs.foldl (fun m r => logFault p r m) m
    let m := m.updPart p (fun x => { x with dueFaults := [] })
    match rs with
    | [] => m
    | r :: _ => failMember p r.code m.node c none (refuseHoldReq p (m.wall - (x.ctr - c)) m)

/-! ### The passing of time -/

/-- The plan counter of a partition advances in every cycle except during a hold (R37). -/
def Partition.counts (x : Partition) : Bool := x.ctrOn && x.standing.isNone

/-- k cycles pass: wall time, and every plan counter that runs. -/
def bump (k : Nat) (m : Mod) : Mod :=
  { m with wall := m.wall + k
           parts := m.parts.map (fun x => if x.counts then { x with ctr := x.ctr + k } else x) }

/-- STATE of a READY module (R415, Table PHY-5): 3 RUN while a plan counter advances, else 4 HOLD while one stands in a
hold, else 2 READY. -/
def Mod.runState (m : Mod) : Nat :=
  if m.parts.toList.any (·.counts) then 3
  else if m.parts.toList.any (fun x => x.ctrOn && x.standing.isSome) then 4 else 2

/-- Report a STATE by an in-band interrupt where it differs from the one last reported (R466). -/
def reportState (st : Nat) (m : Mod) : Mod :=
  if m.regs.shown = st then m
  else { m with regs := { m.regs with shown := st, ibi := m.regs.ibi ++ [BitVec.ofNat 8 st] } }

/-- As a cycle ends, a change among READY, RUN and HOLD is reported. -/
def reportRun (m : Mod) : Mod :=
  if 2 ≤ m.regs.shown && m.regs.shown ≤ 4 then reportState m.runState m else m

/-- Let k cycles pass: the present cycle ends with its effects, then the faults whose cycle has ended take
effect (R445). -/
def advance (k : Nat) (m : Mod) : Mod :=
  if k = 0 then m else reportRun (allParts.foldl settleFaults (bump k (settleTiles m)))

/-- Plan cycle of partition p that no event may pass before HOLD_START: the first recorded hold ahead that
stops the job (R53, R55). -/
def Partition.nextHold (x : Partition) : Option Nat :=
  let last := x.member.t0 + 5 * 2 ^ x.member.params.n * x.furlongs
  minL ((x.holds.map (·.target)).filter (fun t => x.ctr ≤ t && t + 1 < last))

/-- Plan cycle c of a partition can be reached without passing a hold. -/
def Partition.reaches (x : Partition) (c : Nat) : Bool :=
  c ≤ x.ctr || (x.counts && (match x.nextHold with | some t => c < t | none => true))

/-- Let time pass until plan cycle c of a partition, where that lies ahead. -/
def advanceTo (p : Part) (c : Nat) (m : Mod) : Mod := advance (c - (m.part p).ctr) m

/-- Let time pass until wall time w, where that lies ahead. -/
def advanceWall (w : Nat) (m : Mod) : Mod := advance (w - m.wall) m

/-- The tick count of the always-on domain (R58): 40 ns each, 56 bits. -/
def Mod.tick (m : Mod) : Nat := (m.wall - m.aonAt) / 40 % 2 ^ 56

/-- The module belongs to a domain: some partition of it holds the domain's descriptor. -/
def Mod.belongs (m : Mod) (id : BitVec 16) : Bool :=
  m.parts.toList.any (fun x => x.member.desc.any (fun d => d.domain == id))

/-- The always-on domain keeps the plan-counter value of a partition's domain and the tick at which it holds, as it is
loaded and as it stops; the record of a domain the module belongs to no longer goes (R58). -/
def recordEpoch (p : Part) (m : Mod) : Mod :=
  let id := m.domainId p
  { m with epochs := m.epochs.filter (fun e => e.1 != id && m.belongs e.1) ++ [(id, (m.part p).ctr, m.tick)] }

/-- The epoch records as they stand: while the counter of a domain is loaded its last value is the present one. -/
def Mod.epochRecords (m : Mod) : List (BitVec 16 × Nat × Nat) :=
  (m.epochs.filter (fun e => m.belongs e.1)).map (fun e =>
    match allParts.find? (fun p => (m.part p).ctrOn && m.domainId p == e.1) with
    | some p => (e.1, (m.part p).ctr, m.tick)
    | none => e)

/-- Wall time of n microseconds. -/
def us (n : Nat) : Nat := 1000 * n
/-- Wall time of n milliseconds. -/
def ms (n : Nat) : Nat := 1000000 * n

/-! ### Plan time of a partition (R37, R38) -/

/-- Cycles of a furlong, 5L. -/
def Partition.furCycles (x : Partition) : Nat := 5 * 2 ^ x.member.params.n

/-- Rods of a furlong, L. -/
def Partition.lrods (x : Partition) : Nat := 2 ^ x.member.params.n

/-- The furlong that holds plan cycle c. -/
def Partition.furlongOf (x : Partition) (c : Nat) : Nat := (c - x.member.t0) / x.furCycles

/-- First cycle of furlong f. -/
def Partition.furStart (x : Partition) (f : Nat) : Nat := x.member.t0 + x.furCycles * f

/-- The cycle after the last of the plan. -/
def Partition.planEnd (x : Partition) : Nat := x.furStart x.furlongs

/-- The latency column of the stepping: cycles of the transcendental unit (R3). -/
def transLatency (stepping : Nat) : Nat := if stepping = 0xC0 then 14 else 12

/-! ### Memories of a tile and of a bay -/

/-- The local store of a logical tile (R22, R97). -/
def Mod.store (m : Mod) (t : TileId) : Mem := m.ls.get (m.physOf t)

/-- Write runs of bytes into the local store of a logical tile. -/
def writeStore (t : TileId) (ws : List (Nat × Bytes)) (m : Mod) : Mod :=
  let k := m.physOf t
  { m with ls := m.ls.set k.val ((m.ls.get k).writes ws) k.isLt }

/-- Write runs of bytes into the HBM stack of a bay. -/
def writeHbm (b : Fin 8) (ws : List (Nat × Bytes)) (m : Mod) : Mod :=
  { m with hbm := m.hbm.set b.val ((m.hbm.get b).writes ws) b.isLt }

/-- A line of a protected array is held with an uncorrectable error. -/
def Mod.lineBad (m : Mod) (l : LineRef) : Bool := m.lineErrs.any (fun e => e.line == l && e.double)

/-- A line of a protected array is held with a correctable error. -/
def Mod.lineSoft (m : Mod) (l : LineRef) : Bool := m.lineErrs.any (fun e => e.line == l && !e.double)

/-- Count corrected errors of a level in CE_COUNT and queue the lines for their rewrite (R226). -/
def countCe (p : Part) (soft : List (LineRef × Nat)) (m : Mod) : Mod :=
  soft.foldl (fun m e =>
    let m := m.updPart p (fun x =>
      { x with tel := { x.tel with ce := x.tel.ce.set! e.2 ((x.tel.ce[e.2]!).add 1) } })
    if m.rewrites.contains e.1 then m else { m with rewrites := m.rewrites ++ [e.1] }) m

/-- The corrected lines of a list are counted and queued for their rewrite. -/
def countSoft (p : Part) (level : Nat) (ls : List LineRef) (m : Mod) : Mod :=
  countCe p ((ls.filter m.lineSoft).map (·, level)) m

/-- Lines that are written whole hold no error any more and leave the UE logs (R433). -/
def clearErrs (f : LineRef → Bool) (m : Mod) : Mod :=
  { m with
    lineErrs := m.lineErrs.filter (fun e => !f e.line)
    rewrites := m.rewrites.filter (fun l => !f l)
    parts := m.parts.map (fun x => { x with tel := { x.tel with ueLog := x.tel.ueLog.filter (fun e => !f e.ref) } }) }

/-- The same for a list of lines. -/
def clearLineErr (ls : List LineRef) (m : Mod) : Mod :=
  if m.lineErrs.isEmpty && m.rewrites.isEmpty then m else clearErrs (fun l => ls.contains l) m

/-- Draw the next free value number (Config). -/
def Mod.draw (m : Mod) : Nat × Mod := (m.free, { m with free := m.free + 1 })

end Sys2Proof.Machine
end

