-- ==== Sys2Proof/Machine/View.lean ====
section
/-!
DEFINITION. The serving window of the lead member (R313, R314): its sections, and the mapping of the three views
that a plan reaches it through.
-/
namespace Sys2Proof.Machine

/-! ### Sections (Table SRV-2) -/

/-- N of R313. -/
def ServingDesc.slots (v : ServingDesc) : Nat := v.sd + v.sp
/-- TL and OL of R313, and their sizes rounded up to 32 lines. -/
def ServingDesc.tlines (v : ServingDesc) : Nat := 1 + ceilDiv v.slots 512 + v.slots / 8 + v.nreq
def ServingDesc.olines (v : ServingDesc) : Nat := 2 * v.nreq
def ServingDesc.tsec (v : ServingDesc) : Nat := roundUp v.tlines 32
def ServingDesc.osec (v : ServingDesc) : Nat := roundUp v.olines 32
/-- First lines of the sections. -/
def ServingDesc.outView (v : ServingDesc) : Nat := v.wline + v.tsec
def ServingDesc.prevView (v : ServingDesc) : Nat := v.outView + v.osec
def ServingDesc.tableBuf (v : ServingDesc) (k : Nat) : Nat := v.prevView + v.osec + k * v.tsec
def ServingDesc.outBuf (v : ServingDesc) (k : Nat) : Nat := v.tableBuf 2 + k * v.osec
def ServingDesc.clean (v : ServingDesc) : Nat := v.outBuf 2
/-- The line past the window of a domain of n members. -/
def ServingDesc.windowEnd (v : ServingDesc) (n : Nat) : Nat := v.clean + roundUp (ceilDiv n 8) 32

/-- First furlong of step s (R312). -/
def ServingDesc.firstFurlong (v : ServingDesc) (s : Nat) : Nat := v.f0 + s * v.sf

/-- Whole steps of the plan (R312). -/
def Partition.stepCount (x : Partition) (v : ServingDesc) : Nat := (x.furlongs - v.f0) / v.sf

/-- The serving descriptor of a partition that is a member of a domain, with its member index (R311). -/
def Mod.servingAs (m : Mod) (p : Part) : Option (ServingDesc × Nat) :=
  let x := m.part p
  match x.serving.desc, x.member.desc with
  | some v, some d =>
    match d.memberOf m.node with
    | some k => some (v, k)
    | none => none
  | _, _ => none

/-- The serving window where the partition is the lead: the descriptor, the members of the domain and the bay. -/
def Mod.servingWindow (m : Mod) (p : Part) : Option (ServingDesc × Nat × Nat) :=
  let x := m.part p
  match m.servingAs p, x.member.desc, x.bayAt 0 with
  | some (v, k), some d, some b => if k = v.lead then some (v, d.members.length, b) else none
  | _, _, _ => none

/-! ### The mapping (Table SRV-3) -/

/-- Where a line of bay index 0 of the lead lies for a plan: in a line of the stack, in a view that now reads as zero
and discards writes, in a view that reads a line and discards writes, or in a section that the plan does not reach. -/
inductive ViewLine where
  | line (l : Nat)
  | readOnly (l : Nat)
  | zero
  | hidden
  deriving DecidableEq, Repr, Inhabited

/-- The step in progress, from its gate to the end of its last furlong. -/
def Partition.stepNow (x : Partition) (v : ServingDesc) : Option StepRec :=
  x.serving.current.filter (fun c => x.running && x.furlong < v.firstFurlong (c.step + 1))

/-- The mapping of a line. -/
def mapView (x : Partition) (v : ServingDesc) (members l : Nat) : ViewLine :=
  if l < v.wline || l ≥ v.windowEnd members then .line l
  else
    match x.stepNow v with
    | none => if l < v.tableBuf 0 then .zero else .hidden
    | some c =>
      if l < v.outView then (if c.ran then .readOnly (v.tableBuf c.buf + (l - v.wline)) else .zero)
      else if l < v.prevView then (if c.ran then .line (v.outBuf c.out + (l - v.outView)) else .zero)
      else if l < v.tableBuf 0 then
        match x.serving.lastRun with
        | some (_, o) => .readOnly (v.outBuf o + (l - v.prevView))
        | none => .zero
      else .hidden

/-- The mapping of a line of a bay for the plan of a partition. -/
def Mod.viewOf (m : Mod) (p : Part) (b l : Nat) : ViewLine :=
  match m.servingWindow p with
  | none => .line l
  | some (v, n, wb) => if b = wb then mapView (m.part p) v n l else .line l

/-- The line of the stack that a plan reads, where there is one. -/
def Mod.readLine (m : Mod) (p : Part) (b l : Nat) : Option Nat :=
  match m.viewOf p b l with
  | .line k | .readOnly k => some k
  | .zero | .hidden => none

/-- The line of the stack that a plan writes, where there is one. -/
def Mod.writeLine (m : Mod) (p : Part) (b l : Nat) : Option Nat :=
  match m.viewOf p b l with
  | .line k => some k
  | .readOnly _ | .zero | .hidden => none

/-- A line of a bay as the plan of a partition reads it. What a section without plan access reads as is a free
value. -/
def Mod.readPlanned (m : Mod) (p : Part) (b l : Nat) : Bytes :=
  match m.viewOf p b l with
  | .line k | .readOnly k => (m.hbm.get (toFin 8 b)).read (64 * k) 64
  | .zero => List.replicate 64 0
  | .hidden => (List.range 64).map (fun i => Config.hiddenByte m.wall (64 * l + i))

/-- Runs of lines of a bay (first line, count) as the plan reads them. -/
def Mod.readPlan (m : Mod) (p : Part) (b : Nat) (rs : List (Nat × Nat)) : Bytes :=
  match m.servingWindow p with
  | none => rs.flatMap (fun r => (m.hbm.get (toFin 8 b)).read (64 * r.1) (64 * r.2))
  | some _ => rs.flatMap (fun r => (List.range r.2).flatMap (fun i => m.readPlanned p b (r.1 + i)))

/-- A planned write of whole lines of a bay from a byte address. -/
def writePlan (p : Part) (b a : Nat) (bs : Bytes) (m : Mod) : Mod :=
  match m.servingWindow p with
  | none => writeHbm (toFin 8 b) [(a, bs)] m
  | some _ =>
    writeHbm (toFin 8 b) ((List.range (bs.length / 64)).filterMap (fun i =>
      (m.writeLine p b (a / 64 + i)).map (fun k => (64 * k, sliceB bs (64 * i) 64)))) m

end Sys2Proof.Machine
end

