-- ==== Sys2Proof/Machine/Operands.lean ====
section
/-!
DEFINITION. Operand forms of tile commands: the header of Table CMD-1, shapes (R105), operand references
(R104, R106, R159, R206), bins (R120, R121), group declarations (R201), block reads and writes in shape
order (R174), and the time of a block on a class (R83).
-/
namespace Sys2Proof.Machine

/-! ### The command header (Table CMD-1) -/

/-- n bytes of a command from byte o, as a number. -/
def cb (w : CmdWord) (o n : Nat) : Nat := w.toNat / 2 ^ (8 * o) % 2 ^ (8 * n)

/-- Opcode. -/
def cmdOp (w : CmdWord) : Nat := cb w 0 1
/-- Hold budget of a V command. -/
def cmdVhold (w : CmdWord) : Nat := fld w 15 12
/-- V mark. -/
def cmdV (w : CmdWord) : Bool := bitN w.toNat 8
/-- Flag and count waited on. -/
def cmdWait (w : CmdWord) : Option (Nat × Nat) := if cb w 5 1 = 0 then none else some (fld w 37 32, cb w 5 1)
/-- Flag and count signalled. -/
def cmdSig (w : CmdWord) : Option (Nat × Nat) := if cb w 7 1 = 0 then none else some (fld w 53 48, cb w 7 1)
/-- Queues popped. -/
def cmdPopA (w : CmdWord) : Option Nat := if bitN w.toNat 68 then some (fld w 67 64) else none
def cmdPopB (w : CmdWord) : Option Nat := if bitN w.toNat 76 then some (fld w 75 72) else none
/-- Queue pushed. -/
def cmdPush (w : CmdWord) : Option Nat := if bitN w.toNat 84 then some (fld w 83 80) else none
/-- AUX of the pushed entry. -/
def cmdAux (w : CmdWord) : Nat := cb w 11 1
/-- PRED EN. -/
def cmdPredEn (w : CmdWord) : Bool := bitN w.toNat 24

/-- The predicate bit a command selects (Table CMD-5): BIT, or (BIT + ITER0) mod 64. -/
def predBit (w : CmdWord) (iter0 : Nat) : Nat :=
  if bitN w.toNat 22 then (fld w 21 16 + iter0) % 64 else fld w 21 16

/-- The command is skipped by predication under predicate register r (R111). -/
def predSkips (w : CmdWord) (iter0 : Nat) (r : Word64) : Bool :=
  cmdPredEn w && (r.getLsbD (predBit w iter0) == bitN w.toNat 23)

/-! ### Queue entries (Table TIL-2) -/

def entLine (e : BitVec 64) : Nat := fld e 18 0
def entCount (e : BitVec 64) : Nat := fld e 39 20
def entAux (e : BitVec 64) : Nat := fld e 47 40
def entTag (e : BitVec 64) : Nat := fld e 63 48

/-- An entry of Table TIL-2. -/
def mkEntry (line count aux tag : Nat) : BitVec 64 :=
  BitVec.ofNat 64 (line % 2 ^ 19 + count % 2 ^ 20 * 2 ^ 20 + aux % 2 ^ 8 * 2 ^ 40 + tag % 2 ^ 16 * 2 ^ 48)

/-! ### Shapes and blocks (R105, R174) -/

/-- A shape: ROWS, COLS and STRIDE in lines. -/
structure Shape where
  rows : Nat
  cols : Nat
  stride : Nat
  deriving DecidableEq, Repr, Inhabited

/-- Read a shape-table entry (R105). -/
def Shape.of (e : BitVec 64) : Shape := { rows := fld e 12 0 + 1, cols := fld e 35 16 + 1, stride := fld e 59 40 }

/-- Lines of the block. -/
def Shape.foot (s : Shape) : Nat := s.rows * s.cols

/-- Lines from the first to the last of the block, both included. -/
def Shape.extent (s : Shape) : Nat := (s.rows - 1) * s.stride + s.cols

/-- Shape number i of a tile; an entry that is not listed is zero. -/
def Tile.shape (x : Tile) (i : Nat) : Shape := Shape.of (x.shapes.getD i 0)

/-- Contiguous runs of a block: first line and lines of each row. -/
def blockRuns (f : Nat) (s : Shape) : List (Nat × Nat) := (List.range s.rows).map (fun r => (f + r * s.stride, s.cols))

/-- The lines of a block in shape order. -/
def blockLines (f : Nat) (s : Shape) : List Nat :=
  (blockRuns f s).flatMap (fun r => (List.range r.2).map (r.1 + ·))

/-- The bytes of a block as one sequence, in shape order (R174). -/
def readBlock (m : Mem) (f : Nat) (s : Shape) : Bytes :=
  m.reads ((blockRuns f s).map (fun r => (64 * r.1, 64 * r.2)))

/-- The writes that place a byte sequence into a block in shape order. -/
def blockWrites (f : Nat) (s : Shape) (bs : Bytes) : List (Nat × Bytes) :=
  cutRuns ((blockRuns f s).map (fun r => (64 * r.1, 64 * r.2))) bs

/-- Byte address of line n of a block, counted in shape order. -/
def blockLine (f : Nat) (s : Shape) (n : Nat) : Nat := f + n / s.cols * s.stride + n % s.cols

/-- Runs of the first n lines of a block in shape order. -/
def lineRuns (f : Nat) (s : Shape) (n : Nat) : List (Nat × Nat) :=
  (blockRuns f s).zipIdx.filterMap (fun r =>
    let k := min s.cols (n - s.cols * r.2)
    if k = 0 then none else some (r.1.1, k))

/-- Byte runs, one a line, of lines first to first + n - 1 of a block in shape order. -/
def partRuns (f : Nat) (s : Shape) (first n : Nat) : List (Nat × Nat) :=
  (List.range n).map (fun k => (64 * blockLine f s (first + k), 64))

/-- Those lines written from a byte sequence. -/
def partWrites (f : Nat) (s : Shape) (first n : Nat) (bs : Bytes) : List (Nat × Bytes) := cutRuns (partRuns f s first n) bs

/-! ### Time of a block on a class (R83) -/

/-- Lines that bank b holds of a block, as R83 counts them: one test for each line. -/
def bankCount (s : Shape) (b : Nat) : Nat :=
  ((List.range s.rows).flatMap (fun r => (List.range s.cols).map (fun k => (r * s.stride + k) % 64))).countP (· == b)

/-- `bank_load` of R83 as the manual writes it: the largest count over the 64 banks. -/
def bankLoadSpec (s : Shape) : Nat := maxL 0 ((List.range 64).map (bankCount s))

/-- Rows r below n with r mod 64 = q. -/
def rowsOfClass (n q : Nat) : Nat := (n + 63 - q) / 64

/-- Lines that bank b holds of a block, counted by classes of rows modulo 64. -/
def bankCountFast (s : Shape) (b : Nat) : Nat :=
  s.rows * (s.cols / 64)
  + ((List.range 64).map (fun q =>
      if (b + 64 - q * s.stride % 64) % 64 < s.cols % 64 then rowsOfClass s.rows q else 0)).foldl (· + ·) 0

/-- `bank_load` of R83, in constant time. -/
def bankLoad (s : Shape) : Nat := maxL 0 ((List.range 64).map (bankCountFast s))

/-- Occupancy of a block on a class of w slots (`transfer_time` of R83); completion is 64 cycles more. -/
def occupancy (s : Shape) (w : Nat) : Nat := max (ceilDiv s.foot w) (ceilDiv (64 * bankLoad s) w)

/-! ### The access classes and engines (Table TIL-3) -/

/-- An engine or a local-store class. -/
inductive UnitId where
  | matrix | matRead | matWrite | vecUnit | vecRead | vecWrite | trans | selector | meshIn | meshOut
  deriving DecidableEq, Repr, Inhabited

/-- Slots of a class. -/
def UnitId.slots : UnitId → Nat
  | .matRead => 15 | .matWrite => 4 | .vecRead => 6 | .vecWrite => 4 | .selector => 2
  | .meshIn => 16 | .meshOut => 16 | _ => 1

/-- Code of a class or engine in the OBJECT of STREAM_DEADLOCK (R446): first slot of the class, or the engine. -/
def UnitId.code : UnitId → Nat
  | .matRead => 0 | .matWrite => 15 | .vecRead => 19 | .vecWrite => 25 | .meshIn => 31 | .meshOut => 47
  | .matrix => 0x40 | .vecUnit => 0x41 | .trans => 0x42 | .selector => 0x43

/-- Cycle from which a unit is free. -/
def UnitFree.get (u : UnitFree) : UnitId → Nat
  | .matrix => u.matrix | .matRead => u.matRead | .matWrite => u.matWrite | .vecUnit => u.vecUnit
  | .vecRead => u.vecRead | .vecWrite => u.vecWrite | .trans => u.trans | .selector => u.selector
  | .meshIn => u.meshIn | .meshOut => u.meshOut

/-- Set the cycle from which a unit is free. -/
def UnitFree.put (u : UnitFree) (k : UnitId) (c : Nat) : UnitFree :=
  match k with
  | .matrix => { u with matrix := c } | .matRead => { u with matRead := c }
  | .matWrite => { u with matWrite := c } | .vecUnit => { u with vecUnit := c }
  | .vecRead => { u with vecRead := c } | .vecWrite => { u with vecWrite := c }
  | .trans => { u with trans := c } | .selector => { u with selector := c }
  | .meshIn => { u with meshIn := c } | .meshOut => { u with meshOut := c }

/-! ### Bins and groups -/

/-- A bin declaration (Table CMD-17): base line and half size, where it is declared. -/
def Tile.bin (x : Tile) (j : Nat) : Option (Nat × Nat) :=
  let d := x.bins.getD j 0
  if d.getLsbD 63 then some (fld d 18 0, fld d 37 20 + 1) else none

/-- A bushel group declaration (Table BSH-1). -/
structure GroupDecl where
  byRow : Bool
  nb : Nat
  cap : Nat
  rline : Nat
  sline : Nat
  lstride : Nat
  deriving DecidableEq, Repr, Inhabited

/-- Entries of a group. -/
def GroupDecl.size (g : GroupDecl) : Nat := g.nb * g.cap

/-- Group number g of a tile, where it is declared. -/
def Tile.decl (x : Tile) (g : Nat) : Option GroupDecl :=
  let d := x.decls.getD g 0
  if d.getLsbD 0 then
    some { byRow := fld d 2 1 == 1, nb := fld d 27 16 + 1, cap := fld d 45 32 + 1, rline := fld d 82 64,
           sline := fld d 114 96, lstride := fld d 147 128 }
  else none

/-- The half of a bin that is valid in furlong f: half ((f - 1) mod 2), half 1 in furlong 0 (R44, R106). -/
def validHalf (f : Nat) : Nat := (f + 1) % 2

/-! ### A command at its issue -/

/-- What a command sees when it issues. -/
structure Ctx where
  m : Mod
  p : Part
  t : TileId
  x : Tile
  st : Stream
  w : CmdWord
  index : Nat
  iter0 : Nat
  iter1 : Nat
  /-- COUNT of the innermost enclosing repeat. -/
  n0 : Nat
  cyc : Nat
  fur : Nat
  gen : Nat
  skip : Bool
  popA : BitVec 64
  popB : BitVec 64
  /-- Lines that it reads beside an unordered write, as it sees them (R85). -/
  seen : List SeenLine := []

/-- The location of the command. -/
def Ctx.loc (c : Ctx) : Loc := { tile := c.t.val, stream := c.st, index := c.index, iter0 := c.iter0, iter1 := c.iter1 }

/-- The partition. -/
def Ctx.part (c : Ctx) : Partition := c.m.part c.p

/-- Passes that STEP counts (Table CMD-2). -/
def Ctx.steps (c : Ctx) (step : Nat) : Nat :=
  match step with
  | 1 => c.iter0
  | 2 => c.iter1
  | 3 => c.iter1 * c.n0 + c.iter0
  | _ => 0

/-- A resolved reference: first line F, shape, the fault of the first failing check (code, cause, OBJECT),
whether it is an empty bushel entry, and the bin it reads. -/
structure Res where
  f : Nat
  sh : Shape
  fault : Option (Nat × Nat × Nat) := none
  empty : Bool := false
  bin : Option Nat := none
  deriving DecidableEq, Repr, Inhabited

/-- Fault codes of Table CHK-2 that references raise. -/
def cLsBounds : Nat := 0x0001
def cOperandRange : Nat := 0x0002
def cBinNotValid : Nat := 0x0003

/-- Check 3 of R106. -/
def boundsFault (f : Nat) (s : Shape) : Option (Nat × Nat × Nat) :=
  if f + s.extent > 524288 then some (cLsBounds, 0, f) else none

/-- A reference relative to a popped entry (R106, check 1). -/
def resolveEntry (e : BitVec 64) (line step : Nat) (s : Shape) : Res :=
  let f := line + entLine e + step
  { f, sh := s
    fault := if step + line + s.extent > entCount e then some (cOperandRange, 1, step + line + s.extent)
             else boundsFault f s }

/-- A reference into a bin (R106, check 2; R121). -/
def Ctx.resolveBin (c : Ctx) (line step : Nat) (s : Shape) : Res :=
  let j := bitsN line 18 13
  let (base, half) := (c.x.bin j).getD (0, 1)
  let off := (if half > 8192 then 32 * bitsN line 12 0 else bitsN line 12 0) + step
  let f := base + validHalf c.fur * half + off
  let valid := c.fur != 0 && !c.x.released.contains j && (c.x.bin j).isSome
  { f, sh := s, bin := some j
    fault := if !valid then some (cBinNotValid, 0, j)
             else if off + s.extent > half then some (cOperandRange, 2, off + s.extent)
             else boundsFault f s }

/-- The group state that references see: as published at the end of the cycle before (R206). -/
def Tile.group (x : Tile) (g : Nat) : Group := (alGet x.groups g).getD {}

/-- A bushel reference (R159, R206). DESIGN CHOICE (log 117): a command that predication skips, and so runs no check, takes
SLINE as its first line where its entry number is at or beyond NB × CAP. -/
def Ctx.resolveGroup (c : Ctx) (line steps : Nat) (s : Shape) : Res :=
  let g := bitsN line 18 14
  let d := (c.x.decl g).getD default
  let e := bitsN line 13 0 + steps
  match alGet (c.x.group g).entries e with
  | some b =>
    let f := d.sline + b.src * d.lstride
    { f, sh := s
      fault := if e ≥ d.size then some (cOperandRange, 3, e) else boundsFault f s }
  | none =>
    { f := d.sline, sh := s, empty := true
      fault := if e ≥ d.size then some (cOperandRange, 3, e) else boundsFault d.sline s }

/-- Resolve a 4-byte operand reference (Table CMD-2). A command that predication skips runs no check. -/
def Ctx.resolve (c : Ctx) (r : Nat) : Res :=
  let line := bitsN r 18 0
  let s := c.x.shape (bitsN r 29 22)
  let n := c.steps (bitsN r 31 30)
  let step := n * s.foot
  let res := match bitsN r 21 19 with
    | 1 => resolveEntry c.popA line step s
    | 2 => resolveEntry c.popB line step s
    | 3 => c.resolveBin line step s
    | 4 => c.resolveGroup line n s
    | _ => { f := line + step, sh := s, fault := boundsFault (line + step) s }
  if c.skip then { res with fault := none, empty := false } else res

/-- The entry that a command pushes for a block: LINE is bits [18:0] of F, COUNT its footprint, TAG that of
the POP_A entry (R103, R106). -/
def Ctx.blockEntry (c : Ctx) (r : Res) : BitVec 64 :=
  mkEntry r.f r.sh.foot (cmdAux c.w) (if (cmdPopA c.w).isSome then entTag c.popA else 0)

/-- The local store of the command's tile. -/
def Ctx.store (c : Ctx) : Mem := c.m.store c.t

/-- Lines of runs. -/
def runLines (rs : List (Nat × Nat)) : List Nat := rs.flatMap (fun r => (List.range r.2).map (r.1 + ·))

/-- First line of local-store runs that holds an uncorrectable error. -/
def Ctx.badLine (c : Ctx) (rs : List (Nat × Nat)) : Option Nat :=
  if c.m.lineErrs.isEmpty then none
  else (runLines rs).find? (fun l => c.m.lineBad (.localStore (c.m.physOf c.t) l))

/-- Lines of local-store runs that hold a correctable error, at their CE_COUNT level 0. -/
def Ctx.softLines (c : Ctx) (rs : List (Nat × Nat)) : List (LineRef × Nat) :=
  if c.m.lineErrs.isEmpty then []
  else (((runLines rs).map (fun l => LineRef.localStore (c.m.physOf c.t) l)).filter c.m.lineSoft).map (·, 0)

/-- The same of lines of an HBM stack, at their CE_COUNT level 2. -/
def Ctx.badHbm (c : Ctx) (b : Fin 8) (rs : List (Nat × Nat)) : Option Nat :=
  if c.m.lineErrs.isEmpty then none
  else ((runLines rs).filterMap (c.m.readLine c.p b.val)).find? (fun l => c.m.lineBad (.hbm b l))
def Ctx.softHbm (c : Ctx) (b : Fin 8) (rs : List (Nat × Nat)) : List (LineRef × Nat) :=
  if c.m.lineErrs.isEmpty then []
  else ((((runLines rs).filterMap (c.m.readLine c.p b.val)).map (LineRef.hbm b ·)).filter c.m.lineSoft).map (·, 2)

/-- A line as the command reads it: as it sees it where an unordered write also touches it (R85). -/
def Ctx.lineAt (c : Ctx) (l : Nat) : Bytes :=
  match c.seen.find? (fun e => e.line == l) with
  | some e => e.bytes
  | none => c.store.read (64 * l) 64

/-- The bytes of lines as a command reads them. -/
def Ctx.linesAt (c : Ctx) (ls : List Nat) : Bytes := ls.flatMap c.lineAt

/-- The bytes of a block as a command reads them. -/
def Ctx.readBytes (c : Ctx) (r : Res) : Bytes :=
  if c.seen.isEmpty then readBlock c.store r.f r.sh else c.linesAt (blockLines r.f r.sh)

end Sys2Proof.Machine
end

