-- ==== Sys2Proof/Machine/Selector.lean ====
section
/-!
DEFINITION. The selector (07): ranking of a row (R209), filling by candidate with its spill (R210 to R212),
filling by row (R213), and the lines a SELECT writes (R203, R205, R214).
-/
namespace Sys2Proof.Machine

/-! ### Ranking (R209) -/

/-- Insert a candidate (score key, index, score) into a list of at most n kept by descending score; equal
scores keep the lower index first. -/
def rankInsert (n : Nat) (x : Int × Nat × Reg) : List (Int × Nat × Reg) → List (Int × Nat × Reg)
  | [] => if n = 0 then [] else [x]
  | y :: r =>
    match n with
    | 0 => []
    | k + 1 => if y.1 < x.1 then x :: (y :: r).take k else y :: rankInsert k x r

/-- A score is eligible when it is neither NaN nor -infinity. -/
def eligible (s : Reg) : Bool :=
  match val32 s with
  | .nan => false
  | .inf neg => !neg
  | .fin .. => true

/-- The first n eligible candidates of a row in rank order: index and score. -/
def rankRow (n : Nat) (scores : List Reg) : List (Nat × Reg) :=
  (scores.zipIdx.foldl (fun l e => if eligible e.1 then rankInsert n (num32 e.1, e.2, e.1) l else l) []).map (·.2)

/-! ### Filling -/

/-- A request for a bushel: row of the SELECT and its global number, rank of the choice, candidate, score, and
whether it is re-routed. -/
structure SelReq where
  row : Nat
  global : Nat
  rank : Nat
  cand : Nat
  score : Reg
  rer : Bool := false
  deriving DecidableEq, Repr, Inhabited

/-- The bushel a request asks for: its candidate, or its global row (R211, R213). -/
def SelReq.bushel (q : SelReq) (d : GroupDecl) : Nat := if d.byRow then q.global else q.cand

/-- Occupied entries of bushel b. -/
def Group.fill (g : Group) (d : GroupDecl) (b : Nat) : Nat := g.entries.countP (fun e => e.1 / d.cap == b)

/-- Place a request at the first free entry of its bushel, where there is one. -/
def placeReq (d : GroupDecl) (g : Group) (q : SelReq) : Option (Nat × Group) :=
  let b := q.bushel d
  let n := g.fill d b
  if b < d.nb && n < d.cap then
    let e := b * d.cap + n
    let b : BEntry := { score := q.score, src := if d.byRow then q.cand else q.global, rank := q.rank, rerouted := q.rer }
    some (e, { g with entries := alPut g.entries e b })
  else none

/-- Requests placed in order: the group, the placements with their entries, and the overflow. -/
def placeAll (d : GroupDecl) (g : Group) (qs : List SelReq) : Group × List (SelReq × Nat) × List SelReq :=
  qs.foldl (fun acc q =>
    match placeReq d acc.1 q with
    | some (e, g') => (g', acc.2.1 ++ [(q, e)], acc.2.2)
    | none => (acc.1, acc.2.1, acc.2.2 ++ [q])) (g, [], [])

/-- Re-route the overflow of each row to its reserves, in ascending rank (R212): the re-routed requests, each
with the choice it came from, and the choices with no reserve left. -/
def reroute (reserves : Nat → List (Nat × Reg)) (excess : List SelReq) : List SelReq × List SelReq :=
  let sorted := sortBy (fun q => 64 * q.row + q.rank) excess
  let r := sorted.foldl (fun (acc : List SelReq × List SelReq × Nat × Nat) q =>
    let n := if acc.2.2.1 = q.row + 1 then acc.2.2.2 else 0
    match (reserves q.row)[n]? with
    | some (c, s) => (acc.1 ++ [{ q with cand := c, score := s, rer := true }], acc.2.1, q.row + 1, n + 1)
    | none => (acc.1, acc.2.1 ++ [q], q.row + 1, n)) ([], [], 0, 0)
  (r.1, r.2.1)

/-- The state of an emptied group (R205). -/
def Group.clear (_ : Group) : Group := {}

/-- What a SELECT computes: the groups after, the gate records by row and rank, the placements in the primary
and in the second group, and the counts of R218. -/
structure SelResult where
  g1 : Group
  g2 : Group
  /-- Row, rank, candidate, score, STATE, ENTRY. -/
  gate : List (Nat × Nat × Nat × Reg × Nat × Nat)
  placed1 : List Nat
  placed2 : List Nat
  choices : Nat
  dropped : Nat
  rerouted : Nat
  deriving DecidableEq, Repr, Inhabited

/-- A gate record of a request. -/
def gateRec (q : SelReq) (state entry : Nat) : Nat × Nat × Nat × Reg × Nat × Nat :=
  (q.row, q.rank, q.cand, q.score, state, entry)

/-- The selection and filling of a SELECT over its rows of scores (R209 to R213). -/
def selectFill (d1 d2 : GroupDecl) (g1 g2 : Group) (k : Nat) (spill : Bool) (rows : List (List Reg)) : SelResult :=
  let ranked := rows.map (rankRow (2 * k))
  let reqs := ranked.zipIdx.flatMap (fun r =>
    (r.1.take k).zipIdx.map (fun c =>
      ({ row := r.2, global := g1.rowNext + r.2, rank := c.2, cand := c.1.1, score := c.1.2 } : SelReq)))
  let out := reqs.filter (fun q => q.global ≥ 65536)
  let ok := reqs.filter (fun q => q.global < 65536)
  let ordered := if d1.byRow then sortBy (fun q => 4096 * q.row + q.cand) ok
                 else sortBy (fun q => 65536 * q.cand + q.row) ok
  let (h1, in1, excess) := placeAll d1 g1 ordered
  let (rer, none2) := if spill then reroute (fun r => (ranked.getD r []).drop k) excess else ([], excess)
  let (h2, in2, lost) := if spill then placeAll d2 g2 (sortBy (fun q => 65536 * q.cand + q.row) rer) else (g2, [], [])
  { g1 := { h1 with rowNext := min 65536 (g1.rowNext + rows.length)
                    dropped := h1.dropped + out.length + none2.length
                    rerOut := h1.rerOut + rer.length }
    g2 := { h2 with dropped := h2.dropped + lost.length, rerIn := h2.rerIn + in2.length }
    gate := in1.map (fun p => gateRec p.1 1 p.2) ++ in2.map (fun p => gateRec p.1 2 p.2)
      ++ lost.map (fun q => gateRec q 3 0) ++ none2.map (fun q => gateRec q 3 0) ++ out.map (fun q => gateRec q 3 0)
    placed1 := in1.map (·.2)
    placed2 := in2.map (·.2)
    choices := reqs.length
    dropped := out.length + none2.length + lost.length
    rerouted := rer.length }

/-! ### The lines a SELECT writes -/

/-- The status line (Table BSH-2). DESIGN CHOICE (log 119): DROPPED, RER_OUT and RER_IN are kept without bound and show their
low 32 bits; R203 does not say what the fields hold beyond 2^32 - 1. -/
def statusLine (g : Group) : Bytes :=
  leBytes 4 g.rowNext ++ leBytes 4 g.entries.length ++ leBytes 4 g.dropped ++ leBytes 4 g.rerOut
  ++ leBytes 4 g.rerIn ++ leBytes 44 0

/-- An entry record (Table BSH-3); zero for an unoccupied entry. -/
def entryRecord (g : Group) (e : Nat) : Bytes :=
  match alGet g.entries e with
  | none => leBytes 8 0
  | some b => leBytes 8 (b.score.toNat + b.src * 2 ^ 32 + b.rank % 64 * 2 ^ 48
      + (if b.rerouted then 2 ^ 54 else 0) + 2 ^ 63)

/-- Record line n of a group. -/
def recordLine (g : Group) (n : Nat) : Bytes := (List.range 8).flatMap (fun k => entryRecord g (8 * n + k))

/-- The record region writes of a group: its status line, and each record line with a new entry (R205). -/
def groupWrites (d : GroupDecl) (g : Group) (placed : List Nat) : List (Nat × Bytes) :=
  let lines := placed.foldl (fun l e => if l.contains (e / 8) then l else l ++ [e / 8]) []
  (64 * d.rline, statusLine g) :: lines.map (fun n => (64 * (d.rline + 1 + n), recordLine g n))

/-- A gate choice record (Table BSH-4). -/
def gateWord (cand : Nat) (score : Reg) (state entry : Nat) : Nat :=
  score.toNat + cand % 4096 * 2 ^ 32 + state * 2 ^ 44 + entry * 2 ^ 48

/-- The records of row r: k choices, empty ones with the score -infinity. -/
def gateRow (gate : List (Nat × Nat × Nat × Reg × Nat × Nat)) (k r : Nat) : Bytes :=
  let mine := gate.filter (fun g => g.1 == r)
  let bs := (List.range k).flatMap (fun j =>
    match mine.find? (fun g => g.2.1 == j) with
    | some g => leBytes 8 (gateWord g.2.2.1 g.2.2.2.1 g.2.2.2.2.1 g.2.2.2.2.2)
    | none => leBytes 8 0xFF800000)
  sliceB bs 0 (64 * ceilDiv k 8)

/-- The gate block of R rows (R214). -/
def gateBlock (gate : List (Nat × Nat × Nat × Reg × Nat × Nat)) (k rows : Nat) : Bytes :=
  (List.range rows).flatMap (gateRow gate k)

end Sys2Proof.Machine
end

