-- ==== Sys2Proof/Machine/Tier.lean ====
section
/-!
DEFINITION. The CXL tier (R229 to R234, R405, R406): the window of a partition, pages with their metadata
records, reading and writing a page, and the accesses of a byte range.
-/
namespace Sys2Proof.Machine

/-- Bytes of a page, and pages of a granule of 1 GiB. -/
def pageBytes : Nat := 4096
def granulePages : Nat := 262144

/-- N of R229: granules of a device that pages use. -/
def CxlDev.granules (d : CxlDev) : Nat := 127 * min d.gib 2048 / 128

/-- A device is present and has not failed. -/
def CxlDev.good (d : CxlDev) : Bool := d.present && !d.failed

/-- Device byte offset of the metadata record of page n (R229). -/
def CxlDev.metaAt (d : CxlDev) (n : Nat) : Nat := d.granules * 2 ^ 30 + 32 * n

/-- Pages of a list of extents. -/
def extentPages (es : List (Nat × Nat × Nat)) : Nat := es.foldl (fun a e => a + e.2.2 * granulePages) 0

/-- Device and page of a window page: the extents run in list order (R231). -/
def locatePage : List (Nat × Nat × Nat) → Nat → Option (Fin 2 × Nat)
  | [], _ => none
  | (q, first, count) :: r, n =>
    if n < count * granulePages then some (toFin 2 q, first * granulePages + n)
    else locatePage r (n - count * granulePages)

/-- The extents of a partition's registered window. -/
def Partition.extents (x : Partition) : Option (List (Nat × Nat × Nat)) :=
  match x.window with
  | some w => if w.registered then some w.extents else none
  | none => none

/-- The initialization vector of a page (R230). -/
def pageIv (q : Fin 2) (n wcount : Nat) : BitVec 96 :=
  BitVec.ofNat 96 (wcount % 2 ^ 64 + n % 2 ^ 29 * 2 ^ 64 + q.val * 2 ^ 95)

/-- The additional authenticated data of a page (R230): partition, byte 24 and bytes 31 to 25 of the record. -/
def pageAad (p : Part) (tail : Bytes) : Bytes := leBytes 2 p.val ++ tail ++ leBytes 6 0

/-- A metadata record (Table MEM-4). -/
def pageMeta (tag : BitVec 128) (wcount : Nat) (epoch : Fin 2) : Bytes :=
  leBytes 16 tag.toNat ++ leBytes 8 wcount ++ leBytes 1 epoch.val ++ leBytes 7 0

/-- Causes of V_DATA_ERROR (Table CHK-2). -/
def vTag : Nat := 1
def vFlashUe : Nat := 2
def vAbsent : Nat := 3
def vUnregistered : Nat := 4
def vRejected : Nat := 5
def vEntropy : Nat := 6

/-- The EPOCH that the metadata of a device page names. -/
def pageEpoch (d : CxlDev) (n : Nat) : Fin 2 := toFin 2 (leNat (d.data.read (d.metaAt n + 24) 1))

/-- Read and check one device page under the key slot its EPOCH names (R230). -/
def readPage (m : Mod) (p : Part) (q : Fin 2) (n : Nat) : Except Nat Bytes :=
  let d := m.cxl.get q
  if !d.good then .error vAbsent
  else
    let record := d.data.read (d.metaAt n) 32
    let tail := record.drop 24
    match (m.part p).keys.tier.get (pageEpoch d n) with
    | none => .error vTag
    | some s =>
      let iv := pageIv q n (leAt record 16 8)
      let ct := d.data.read (pageBytes * n) pageBytes
      if leNat tail < 2 && Config.gcmTag s.key iv (pageAad p tail) ct == BitVec.ofNat 128 (leAt record 0 16)
      then .ok (Config.gcmDecrypt s.key iv (pageAad p tail) ct)
      else .error vTag

/-- The slot a window page counts under (R406): that of its last acknowledged write. -/
def countsUnder (k : Keys) (page : Nat) (epoch : Fin 2) : Fin 2 :=
  match (k.pendingAck.filter (fun e => e.1 == page)).getLast? with
  | some e => e.2.2
  | none => epoch

/-- Write one page of the window under CUR with a new WCOUNT (R230, R405). -/
def writePage (p : Part) (page : Nat) (q : Fin 2) (n : Nat) (bs : Bytes) (m : Mod) : Mod :=
  let k := (m.part p).keys
  match k.tier.get k.cur with
  | none => m
  | some s =>
    let d := m.cxl.get q
    let old := countsUnder k page (pageEpoch d n)
    let s := { s with wcount := s.wcount + 1 }
    let iv := pageIv q n s.wcount
    let aad := pageAad p (leBytes 1 k.cur.val ++ leBytes 7 0)
    let ct := Config.gcmEncrypt s.key iv aad bs
    let meta' := pageMeta (Config.gcmTag s.key iv aad ct) s.wcount k.cur
    let data := (d.data.write (pageBytes * n) (sliceB ct 0 pageBytes)).write (d.metaAt n) meta'
    let m := { m with cxl := m.cxl.set q.val { d with data := data } q.isLt }
    let acks := if old = k.cur then k.pendingAck else k.pendingAck ++ [(page, old, k.cur)]
    m.updPart p (fun x =>
      { x with keys := { x.keys with tier := x.keys.tier.set k.cur.val (some s) k.cur.isLt, pendingAck := acks } })

/-- Window pages that bytes [a, a + n) touch. -/
def pagesOf (a n : Nat) : List Nat := if n = 0 then [] else span (a / pageBytes) ((a + n - 1) / pageBytes)

/-- A read of the window (R233): every page that the range touches is read and checked; the first that fails
gives its cause and byte offset. -/
def windowRead (m : Mod) (p : Part) (es : List (Nat × Nat × Nat)) (a n : Nat) : Except (Nat × Nat) Bytes :=
  let pages := (pagesOf a n).map (fun k =>
    (k, match locatePage es k with
        | some (q, j) => readPage m p q j
        | none => .error vAbsent))
  match pages.findSome? (fun e => match e.2 with | .error c => some (c, pageBytes * e.1) | .ok _ => none) with
  | some f => .error f
  | none =>
    let bs := pages.flatMap (fun e => match e.2 with | .ok b => sliceB b 0 pageBytes | .error _ => [])
    .ok (sliceB bs (a % pageBytes) n)

/-- The pages that a write of the window stores (R233): pages covered in part are read, checked and merged
first; nothing is written where one fails or a device is absent. -/
def windowMerge (m : Mod) (p : Part) (es : List (Nat × Nat × Nat)) (a : Nat) (bs : Bytes) :
    Except (Nat × Nat) (List (Nat × Bytes)) :=
  let n := bs.length
  let pages := (pagesOf a n).map (fun k =>
    let lo := max a (pageBytes * k)
    let hi := min (a + n) (pageBytes * (k + 1))
    let new := sliceB bs (lo - a) (hi - lo)
    let out : Except Nat Bytes :=
      match locatePage es k with
      | none => .error vAbsent
      | some (q, j) =>
        if !(m.cxl.get q).good then .error vAbsent
        else if hi - lo = pageBytes then .ok new
        else
          match readPage m p q j with
          | .error c => .error c
          | .ok old =>
            let o := lo - pageBytes * k
            .ok (sliceB old 0 o ++ new ++ sliceB (old.drop (o + new.length)) 0 (pageBytes - o - new.length))
    (k, out))
  match pages.findSome? (fun e => match e.2 with | .error c => some (c, pageBytes * e.1) | .ok _ => none) with
  | some f => .error f
  | none => .ok (pages.filterMap (fun e => match e.2 with | .ok b => some (e.1, b) | .error _ => none))

/-- Write whole window pages. -/
def windowWrite (p : Part) (es : List (Nat × Nat × Nat)) (ws : List (Nat × Bytes)) (m : Mod) : Mod :=
  ws.foldl (fun m w =>
    match locatePage es w.1 with
    | some (q, j) => writePage p w.1 q j w.2 m
    | none => m) m

/-- A write of a byte range of the window, where its checks pass. -/
def windowStore (p : Part) (es : List (Nat × Nat × Nat)) (a : Nat) (bs : Bytes) (m : Mod) :
    Except (Nat × Nat) Mod :=
  match windowMerge m p es a bs with
  | .error f => .error f
  | .ok ws => .ok (windowWrite p es ws m)

/-- The key of PREV and its WCOUNT are destroyed once its page count is zero (R409). -/
def retirePrev (p : Part) (m : Mod) : Mod :=
  let k := (m.part p).keys
  let prev : Fin 2 := k.cur + 1
  match k.tier.get prev with
  | some s =>
    if s.pages = 0 && k.pendingAck.isEmpty then
      let m := m.updPart p (fun x => { x with keys := { x.keys with
        tier := x.keys.tier.set prev.val none prev.isLt, rotation := none } })
      postEvent (vfOf p) evRotationDone m
    else m
  | none => m

end Sys2Proof.Machine
end

