-- ==== Sys2Proof/Machine/Races.lean ====
section
/-!
DEFINITION. Accesses of one tile to one local-store line in overlapping transfers (R82, R85, R217): which reaches the
line first, what a reader then sees, and which write stands.
-/
namespace Sys2Proof.Machine

/-! ### Classes and order -/

/-- The class through which an opcode reads local-store lines (Table TIL-3). -/
def readClass (st : Stream) (op : Nat) : UnitId :=
  match op with
  | 0x03 => (match st with | .access => .meshOut | .execute => .vecRead)
  | 0x12 | 0x1E => .meshIn
  | 0x20 | 0x21 => .matRead
  | 0x28 => .vecRead
  | 0x38 => .selector
  | _ => .meshOut

/-- The class through which an opcode writes local-store lines. -/
def writeClass (op : Nat) : UnitId :=
  match op with
  | 0x20 | 0x21 => .matWrite
  | 0x29 => .vecWrite
  | 0x38 => .selector
  | _ => .meshIn

/-- What names a command in the plan: stream, index, ITER0, ITER1 and issue cycle from T0. -/
def commandName (st : Stream) (index iter0 iter1 issue t0 : Nat) : List Nat :=
  [(match st with | .access => 0 | .execute => 1), index, iter0, iter1, issue - t0]

def Inflight.name (i : Inflight) (t0 : Nat) : List Nat := commandName i.stream i.index i.iter0 i.iter1 i.issue t0
def Ctx.name (c : Ctx) : List Nat := commandName c.st c.index c.iter0 c.iter1 c.cyc c.part.member.t0

/-- The image of the plan that a partition runs. -/
def Partition.image (x : Partition) : Bytes := (x.plans[x.slot]?).join.getD []

/-- Of an access already in flight and one that joins it, the earlier reaches line l first: always so on one class, which
serves in issue order (R82), but for a read and a write of the selector (Table BSH-5); otherwise the plan and the stepping
fix it (R85). -/
def earlierFirst (m : Mod) (p : Part) (t : TileId) (a b : List Nat) (ca cb : UnitId) (writes : Bool) (l : Nat) : Bool :=
  if ca = cb && (ca ≠ .selector || writes) then true
  else Config.lineFirst (m.part p).image m.stepping t.val a b l

/-- The lines that two sets of runs share. -/
def sharedLines (a b : List (Nat × Nat)) : List Nat :=
  a.flatMap (fun r => b.flatMap (fun s =>
    let lo := max r.1 s.1
    (List.range (min (r.1 + r.2) (s.1 + s.2) - lo)).map (lo + ·)))

/-! ### What a reader sees -/

/-- The bytes a command in flight writes to line k, where it writes it. -/
def Inflight.bytesAt (i : Inflight) (k : Nat) : Option Bytes :=
  ((i.landing.writes.filter (fun w => w.1 ≤ 64 * k && 64 * k + 64 ≤ w.1 + w.2.length)).getLast?).map
    (fun w => sliceB w.2 (64 * k - w.1) 64)

/-- A line is seen as given, whatever was seen before; or only where nothing was. -/
def putSeen (l : List SeenLine) (e : SeenLine) : List SeenLine := e :: l.filter (fun o => o.line != e.line)
def pinSeen (l : List SeenLine) (e : SeenLine) : List SeenLine := if l.any (fun o => o.line == e.line) then l else l ++ [e]

/-- What a command that reads runs of lines sees of those a command in flight writes. -/
def Ctx.meetWriter (c : Ctx) (op : Nat) (reads : List (Nat × Nat)) (l : List SeenLine) (w : Inflight) : List SeenLine :=
  (sharedLines reads w.writes).foldl (fun l k =>
    match w.bytesAt k with
    | none => l
    | some bs =>
      if earlierFirst c.m c.p c.t (w.name c.part.member.t0) c.name (writeClass w.op) (readClass c.st op) false k then
        putSeen l { line := k, bytes := bs, writer := some (w.stream, w.issue) }
      else pinSeen l { line := k, bytes := c.store.read (64 * k) 64 }) l

/-- What a command sees at its issue of the lines that commands in flight write. -/
def Ctx.lookAround (c : Ctx) (op : Nat) (reads : List (Nat × Nat)) : List SeenLine :=
  c.x.inflight.foldl (c.meetWriter op reads) []

/-! ### A write that joins -/

/-- The new command reaches line k before the read of one in flight does. -/
def newFirst (m : Mod) (p : Part) (t : TileId) (new : Inflight) (old : List Nat) (cls : UnitId) (k : Nat) : Bool :=
  !earlierFirst m p t old (new.name (m.part p).member.t0) cls (writeClass new.op) false k

/-- A command in flight meets one that joins: what it now sees of the lines it reads, and, of the lines both write, those
that it loses and those that the new one loses. The command that completes first writes such a line all the same. -/
def meetNew (m : Mod) (p : Part) (t : TileId) (new old : Inflight) : Inflight × List Nat :=
  let t0 := (m.part p).member.t0
  let seen := (sharedLines old.reads new.writes).foldl (fun l k =>
    match new.bytesAt k with
    | none => l
    | some bs =>
      if newFirst m p t new (old.name t0) (readClass old.stream old.op) k then
        putSeen l { line := k, bytes := bs, writer := some (new.stream, new.issue) }
      else pinSeen l { line := k, bytes := (m.store t).read (64 * k) 64 }) old.seen
  let both := sharedLines old.writes new.writes
  let newLast (k : Nat) : Bool :=
    earlierFirst m p t (old.name t0) (new.name t0) (writeClass old.op) (writeClass new.op) true k
  let oldLost := if new.complete ≤ old.complete then both.filter newLast else []
  let newLost := if old.complete ≤ new.complete then both.filter (fun k => !newLast k) else []
  ({ old with seen := seen, lost := old.lost ++ oldLost }, newLost)

/-- Bytes replaced from an offset. -/
def patchBytes (off : Nat) (new bs : Bytes) : Bytes := bs.take off ++ new ++ bs.drop (off + new.length)

/-- The line numbers of a source, in the order of its bytes, that the new command writes before they are read. -/
def patches (m : Mod) (p : Part) (t : TileId) (new : Inflight) (old : List Nat) (cls : UnitId) (runs : List (Nat × Nat)) :
    List (Nat × Bytes) :=
  if (sharedLines runs new.writes).isEmpty then []
  else (runLines runs).zipIdx.filterMap (fun e =>
    match new.bytesAt e.1 with
    | some bs => if newFirst m p t new old cls e.1 then some (e.2, bs) else none
    | none => none)

/-- A V write whose source is still being read takes the new lines that reach it first. -/
def patchV (m : Mod) (p : Part) (t : TileId) (new : Inflight) (v : VEntry) : VEntry :=
  let occ := occupancy { rows := v.rows, cols := v.cols, stride := v.stride } 16
  if v.skipped || !(v.op == 0x19 || v.op == 0x1C) || v.issue + occ + 64 ≤ (m.part p).ctr then v
  else
    let name := commandName .access v.index v.iter0 v.iter1 v.issue (m.part p).member.t0
    { v with data := (patches m p t new name .meshOut v.touch).foldl (fun d e => patchBytes (64 * e.1) e.2 d) v.data }

/-- A payload of 240 bytes, the j-th of a packet, with line n of the body replaced. -/
def patchPayload (j n : Nat) (line pl : Bytes) : Bytes :=
  pl.mapIdx (fun i b =>
    let a := 240 * j + i
    let lo := 16 + 64 * n
    if lo ≤ a && a < lo + 64 then line.getD (a - lo) b else b)

/-- The flits of a SEND that still wait take the new lines that reach their source first. -/
def patchSend (p : Part) (t : TileId) (new : Inflight) (m : Mod) (old : Inflight) : Mod :=
  match old.landing.sentOn with
  | none => m
  | some (q, f, slots) =>
    let ps := patches m p t new (old.name (m.part p).member.t0) .meshOut old.reads
    if ps.isEmpty then m
    else m.updPort (toFin 16 q) (fun x => { x with planned := x.planned.map (fun e =>
      if e.furlong = f && slots.contains e.slot then
        let pl := ps.foldl (fun pl k => patchPayload (slots.idxOf e.slot) k.1 k.2 pl) e.flit.payload
        { e with flit := { e.flit with payload := pl } }
      else e) })

/-! ### A CXL write put back, or written anew -/

/-- The pages of a window write as they stood before it and as it left them. -/
def pageUndo (es : List (Nat × Nat × Nat)) (ws : List (Nat × Bytes)) (before after : Mod) : List PageUndo :=
  ws.filterMap (fun w =>
    match locatePage es w.1 with
    | none => none
    | some (q, n) =>
      let d := before.cxl.get q
      some { page := w.1, port := q, n := n
             data := d.data.read (pageBytes * n) pageBytes
             record := d.data.read (d.metaAt n) 32
             wrote := (after.cxl.get q).data.read (d.metaAt n) 32 })

/-- Put back a page that holds what the write left. -/
def putBack (p : Part) (m : Mod) (u : PageUndo) : Mod :=
  let d := m.cxl.get u.port
  if d.data.read (d.metaAt u.n) 32 ≠ u.wrote then m
  else
    let data := (d.data.write (pageBytes * u.n) u.data).write (d.metaAt u.n) u.record
    let m := { m with cxl := m.cxl.set u.port.val { d with data := data } u.port.isLt }
    m.updPart p (fun x =>
      let acks := x.keys.pendingAck
      match (acks.zipIdx.filter (fun e => e.1.1 == u.page)).getLast? with
      | some e => { x with keys := { x.keys with pendingAck := acks.eraseIdx e.2 } }
      | none => x)

/-- A CXL write that is not complete at its deadline is discarded (R137). -/
def discardWrite (p : Part) (us : List PageUndo) (m : Mod) : Mod := us.foldl (putBack p) m

/-- A CXL write whose source has changed while it was read is written with the data it then has. -/
def rewriteWindow (p : Part) (old new : VEntry) (m : Mod) : Mod × VEntry :=
  if new.op ≠ 0x19 || new.data == old.data || old.undo.isEmpty then (m, new)
  else
    let es := (m.part p).extents.getD []
    let m := discardWrite p old.undo m
    match windowMerge m p es new.xaddr new.data with
    | .error _ => (m, new)
    | .ok ws =>
      let m' := windowWrite p es ws m
      (m', { new with undo := pageUndo es ws m m' })

/-! ### Joining and leaving -/

/-- A command joins those in flight, and every line that it and they touch unordered is settled. -/
def joinFlight (p : Part) (t : TileId) (i : Inflight) (m : Mod) : Mod :=
  let x := m.tile t
  if i.writes.isEmpty then m.setTile t { x with inflight := x.inflight ++ [i] }
  else
    let met := x.inflight.map (meetNew m p t i)
    let m1 := x.inflight.foldl (patchSend p t i) m
    let (m2, vs) := x.ventries.foldl (fun (a : Mod × List VEntry) v =>
      let (m', v') := rewriteWindow p v (patchV m p t i v) a.1
      (m', a.2 ++ [v'])) (m1, [])
    m2.setTile t { x with ventries := vs
                          inflight := met.map (·.1) ++ [{ i with lost := met.flatMap (·.2) }] }

/-- The readers that saw what a command writes see what it has written in the end. -/
def refreshSeen (i : Inflight) (l : Landing) (o : Inflight) : Inflight :=
  let j := { i with landing := l }
  { o with seen := o.seen.map (fun e =>
      if e.writer == some (i.stream, i.issue) then { e with bytes := (j.bytesAt e.line).getD e.bytes } else e) }

/-- The writes of a landing without the lines that another write reaches last. -/
def keepLines (lost : List Nat) (ws : List (Nat × Bytes)) : List (Nat × Bytes) :=
  if lost.isEmpty then ws
  else ws.flatMap (fun w =>
    ((List.range (w.2.length / 64)).filter (fun k => !lost.contains (w.1 / 64 + k))).map (fun k =>
      (w.1 + 64 * k, sliceB w.2 (64 * k) 64)))

end Sys2Proof.Machine
end

