-- ==== Sys2Proof/Machine/Issue.lean ====
section
/-!
DEFINITION. The issue and the completion of tile commands: issue conditions (R63, R64, R67, R70, R71, R75),
program order (R63, R109, R112), what an issue changes, what a completion changes (R65, R70, R74), and the
hazard detector (R448).
-/
namespace Sys2Proof.Machine

/-! ### What one opcode is to the issue -/

/-- What a command does when it issues. -/
structure Effect where
  /-- The fault of the opcode's own checks: code, cause, OBJECT, location B. -/
  fault : Option (Nat × Nat × Nat × Option Loc) := none
  /-- A fault raised later: cycle, code, cause, OBJECT. -/
  late : List (Nat × Nat × Nat × Nat) := []
  /-- Cycle from which each unit is free. -/
  units : List (UnitId × Nat) := []
  complete : Nat := 0
  entry : BitVec 64 := 0
  wreg : Option Nat := none
  acc : Option Nat := none
  reads : List (Nat × Nat) := []
  writes : List (Nat × Nat) := []
  predMask : Word64 := 0
  landing : Landing := {}
  seed : Option (BitVec 256) := none
  work : List (Nat × Group) := []
  atEnd : List EndEffect := []
  vent : Option VEntry := none
  loop : Option Loop := none
  ended : Bool := false
  /-- Lines read with a correctable error, and the CE_COUNT level. -/
  soft : List (LineRef × Nat) := []
  /-- Planned flits handed to ports. -/
  sends : List (PortId × PlannedFlit) := []
  /-- Whole window pages written to the CXL tier, taking effect at issue in the order of issue (R234). -/
  tier : List (Nat × Bytes) := []
  /-- The transfer of a SEND (R45). -/
  xfer : Option Nat := none
  deriving Inhabited

/-- An opcode: its number, the streams that carry it, the units whose release it waits for, the registers
and the set it waits for, its references in ascending byte order, and its effect. -/
structure OpDef where
  op : Nat
  carries : Stream → Bool := fun _ => true
  units : Stream → CmdWord → List UnitId := fun _ _ => []
  regs : CmdWord → List Nat := fun _ => []
  set : CmdWord → Option Nat := fun _ => none
  /-- A flag it tests as an operand (Table CMD-6). -/
  flag : CmdWord → Option Nat := fun _ => none
  refs : CmdWord → List Nat := fun _ => []
  isV : Bool := false
  /-- A stochastic rounding (R178), for the SEED hazard. -/
  draws : CmdWord → Bool := fun _ => false
  effect : Ctx → Effect

/-! ### Streams -/

def Tile.stream (x : Tile) : Stream → StreamState
  | .access => x.acc
  | .execute => x.exe

def Tile.setStream (x : Tile) (st : Stream) (v : StreamState) : Tile :=
  match st with
  | .access => { x with acc := v }
  | .execute => { x with exe := v }

/-- The command at index i of a stream's instruction memory; a word that is not listed is zero, an END. -/
def Tile.code (x : Tile) (st : Stream) (i : Nat) : CmdWord :=
  match st with
  | .access => x.codeA.getD i 0
  | .execute => x.codeX.getD i 0

/-- ITER0, ITER1 and N0 of a stream (R110, Table CMD-2). -/
def StreamState.iters (s : StreamState) : Nat × Nat × Nat :=
  match s.loops with
  | [] => (0, 0, 0)
  | [a] => (a.pass, 0, a.count)
  | a :: b :: _ => (a.pass, b.pass, a.count)

/-- Program order after the command before pc has issued: a body that ends starts its next pass, or program
order goes on after it (R109). -/
def nextPc : List Loop → Nat → List Loop × Nat
  | [], pc => ([], pc)
  | l :: r, pc =>
    if pc = l.first + l.len then
      if l.pass + 1 < l.count then ({ l with pass := l.pass + 1 } :: r, l.first) else nextPc r pc
    else (l :: r, pc)

/-! ### Queues -/

/-- The cycle from which a written entry is visible (R70, R71), given the latest completion and visibility
among the entries before it. -/
def visibleAt (done prevDone prevVis : Nat) : Nat :=
  if done < prevDone then prevVis + 1 else max (done + 1) prevVis

/-- Entries popped from the front of a queue: the entries, the cycle from which all are visible, and the
queue after; none where one is not written yet. -/
def Queue.take : Nat → Queue → Option (List (BitVec 64) × Nat × Queue)
  | 0, q => some ([], 0, q)
  | n + 1, q =>
    match q.slots with
    | { entry := some (e, d), .. } :: r =>
      let v := visibleAt d q.prevDone q.prevVis
      match Queue.take n { q with slots := r, prevDone := max q.prevDone d, prevVis := v } with
      | some (es, v', q') => some (e :: es, max v v', q')
      | none => none
    | _ => none

/-- The cycle from which a place can be reserved: a place freed by a pop in cycle c is free from c + 1. -/
def Queue.placeAt (q : Queue) : Option Nat :=
  if q.slots.length + q.popCount < 64 then some 0
  else if q.slots.length < 64 then some (q.popCycle + 1)
  else none

def Tile.queue (x : Tile) (k : Nat) : Queue := x.queues.get (toFin 16 k)
def Tile.setQueue (x : Tile) (k : Nat) (q : Queue) : Tile := { x with queues := x.queues.set (toFin 16 k).val q (toFin 16 k).isLt }

/-- Take n entries of queue k in cycle c. -/
def Tile.popQueue (x : Tile) (k n c : Nat) : Option (List (BitVec 64) × Nat × Tile) :=
  match (x.queue k).take n with
  | none => none
  | some (es, v, q) =>
    let before := if (x.queue k).popCycle = c then (x.queue k).popCount else 0
    some (es, v, x.setQueue k { q with popCycle := c, popCount := before + n })

/-- The pops of a command (R103): the entries of POP_A and POP_B, zero where not enabled, the cycle from
which all are visible, and the tile after. -/
def Tile.pops (x : Tile) (w : CmdWord) (c : Nat) : Option (BitVec 64 × BitVec 64 × Nat × Tile) :=
  match cmdPopA w, cmdPopB w with
  | none, none => some (0, 0, 0, x)
  | some a, none => (x.popQueue a 1 c).map (fun r => (r.1.headD 0, 0, r.2.1, r.2.2))
  | none, some b => (x.popQueue b 1 c).map (fun r => (0, r.1.headD 0, r.2.1, r.2.2))
  | some a, some b =>
    if a = b then (x.popQueue a 2 c).map (fun r => (r.1.headD 0, r.1.getD 1 0, r.2.1, r.2.2))
    else
      match x.popQueue a 1 c with
      | none => none
      | some (ea, va, y) => (y.popQueue b 1 c).map (fun r => (ea.headD 0, r.1.headD 0, max va r.2.1, r.2.2))

/-! ### Issue conditions (R64) -/

/-- What a stream waits for, as Table CHK-3 codes it in OBJECT: code and number (R446). -/
structure Await where
  code : Nat
  number : Nat
  deriving DecidableEq, Repr, Inhabited

/-- The earliest cycle at or after now at which the command's issue conditions hold, as far as what has
already happened decides it, or the first thing it waits for that has not happened. -/
def readyAt (d : OpDef) (x : Tile) (st : Stream) (w : CmdWord) (now : Nat) : Nat ⊕ Await :=
  let s := x.stream st
  let us := (d.units st w).map x.units.get
  let c := maxL now (s.nextIssue :: us)
  match x.pops w c with
  | none => .inr { code := 1, number := (match cmdPopA w with | some a => a | none => (cmdPopB w).getD 0) }
  | some (_, _, v, y) =>
    let place := match cmdPush w with
      | none => some 0
      | some k => (y.queue k).placeAt
    match place with
    | none => .inr { code := 2, number := (cmdPush w).getD 0 }
    | some pl =>
      let short := match cmdWait w with
        | none => none
        | some (k, n) => if x.flags.get 0 k < n + (flagSum k x.atEnd).sub then some k else none
      match short with
      | some k => .inr { code := 3, number := k }
      | none =>
        if (d.regs w).any (fun r => x.inflight.any (fun i => i.wreg == some r)) then
          .inr { code := 4, number := UnitId.code .vecUnit }
        else if (match d.set w with
            | some a => x.inflight.any (fun i => i.acc == some a)
            | none => false) then
          .inr { code := 4, number := UnitId.code .matrix }
        else if d.isV && x.ventries.length ≥ 8 then .inr { code := 4, number := 0x44 }
        else .inl (max c (max v pl))

/-! ### The hazard detector (R447, R448) -/

/-- Debug mode and HAZ_STOP of the running job (Table CHK-4). -/
def Partition.debug (x : Partition) : Bool := x.chk.getLsbD 0
def Partition.hazStop (x : Partition) : Bool := x.chk.getLsbD 0 && x.chk.getLsbD 1

/-- Fault code of HAZARD. -/
def cHazard : Nat := 0x0013

/-- Report a hazard: a record of the hazard log, or with HAZ_STOP the fault HAZARD (R448). -/
def reportHazard (p : Part) (c kind : Nat) (a b : Loc) (object : Nat) (m : Mod) : Mod :=
  let x := m.part p
  if x.hazStop then raise p c cHazard kind (some a) (some b) object m
  else
    let r : FaultRec := { code := cHazard, cause := kind, seq := x.hazardCount, cycle := c, locA := some a,
                          locB := some b, object, ptileA := m.ptileOf (some a), ptileB := m.ptileOf (some b) }
    let m := m.updPart p (fun x =>
      let x := { x with hazardCount := satAdd 65535 x.hazardCount 1 }
      if x.hazardLog.length < 64 then { x with hazardLog := x.hazardLog ++ [r] } else { x with hlogOvf := true })
    postEvent (vfOf p) evHazard m

/-- The lowest line two sets of runs share. -/
def commonLine (a b : List (Nat × Nat)) : Option Nat :=
  minL (a.flatMap (fun r => b.filterMap (fun s =>
    let lo := max r.1 s.1
    if lo < r.1 + r.2 && lo < s.1 + s.2 then some lo else none)))

/-- The location of a command in flight, and of a held V entry. -/
def Inflight.loc (t : TileId) (i : Inflight) : Loc :=
  { tile := t.val, stream := i.stream, index := i.index, iter0 := i.iter0, iter1 := i.iter1 }
def VEntry.loc (t : TileId) (v : VEntry) : Loc :=
  { tile := t.val, stream := .access, index := v.index, iter0 := v.iter0, iter1 := v.iter1 }

/-- Runs of a V entry's local-store block. -/
def VEntry.runs (v : VEntry) : List (Nat × Nat) :=
  (List.range v.rows).map (fun r => (v.first + r * v.stride, v.cols))

/-- Line races of an access with the commands in flight and the V commands held: location and line. -/
def Tile.races (x : Tile) (t : TileId) (reads writes : List (Nat × Nat)) : List (Loc × Nat) :=
  let f := x.inflight.filterMap (fun i =>
    match minL ([commonLine writes i.writes, commonLine writes i.reads, commonLine reads i.writes].filterMap id) with
    | some l => some (i.loc t, l)
    | none => none)
  let v := x.ventries.filterMap (fun v =>
    if v.skipped || v.entered then none else (commonLine writes v.touch).map (fun l => (v.loc t, l)))
  f ++ v

/-- PSETs of a stream that a read of predicate bit b would race: in flight, or completing in this cycle. -/
def Tile.predRaces (x : Tile) (t : TileId) (st : Stream) (b : Nat) : List Loc :=
  (x.inflight.filter (fun i => i.stream == st && i.predMask.getLsbD b)).map (Inflight.loc t)
  ++ x.atEnd.filterMap (fun e =>
      match e with
      | .pred s mask _ l => if s = st && mask.getLsbD b then some l else none
      | _ => none)

/-- The SEED_HWs that hold a V entry, or complete in this cycle (R163). -/
def Tile.seeding (x : Tile) (t : TileId) : List Loc :=
  (x.ventries.filter (fun v => v.op == 0x1D && !v.skipped)).map (VEntry.loc t)
  ++ x.atEnd.filterMap (fun e => match e with | .seed _ l => some l | _ => none)

/-- Hazards of a command at its issue (Table CHK-5). -/
def detect (d : OpDef) (c : Ctx) (e : Effect) (m : Mod) : Mod :=
  if !(m.part c.p).debug then m
  else
    let m := if c.skip then m
      else (c.x.races c.t e.reads e.writes).foldl (fun m r => reportHazard c.p c.cyc 1 r.1 c.loc r.2 m) m
    let m := if cmdPredEn c.w then
        let b := predBit c.w c.iter0
        (c.x.predRaces c.t c.st b).foldl (fun m l => reportHazard c.p c.cyc 2 l c.loc b m) m
      else m
    if d.draws c.w then (c.x.seeding c.t).foldl (fun m l => reportHazard c.p c.cyc 3 l c.loc 0 m) m else m

/-! ### Issue -/

/-- Fault codes of Table CHK-2. -/
def cBinState : Nat := 0x0004
def cImemEcc : Nat := 0x000D
def cImemBounds : Nat := 0x000E
def cMemUe : Nat := 0x0011

/-- Number of the queue, flag, register or set of a cell. -/
def CellRef.number : CellRef → Nat
  | .queue q _ => q
  | .flag f => f
  | .vreg r => r
  | .acc a => a

/-- The cells that the header of a command uses at its issue: the entries it pops and the flag it waits on. -/
def headerCells (x : Tile) (w : CmdWord) : List CellRef :=
  let entry (k n : Nat) : List CellRef := (((x.queue k).slots.map (·.id))[n]?).toList.map (CellRef.queue k)
  (match cmdPopA w with | some k => entry k 0 | none => [])
  ++ (match cmdPopB w with | some k => entry k (if cmdPopA w = some k then 1 else 0) | none => [])
  ++ (match cmdWait w with | some (k, _) => [.flag k] | none => [])

/-- The cells that a command reads as its operands: registers, a flag that a PSET tests, and a set that it adds to. -/
def operandCells (d : OpDef) (w : CmdWord) : List CellRef :=
  (d.regs w).map CellRef.vreg ++ (d.set w).toList.map CellRef.acc ++ (d.flag w).toList.map CellRef.flag

/-- The first of some cells that holds an uncorrectable error (R227, cause 3). -/
def Tile.badCell (x : Tile) (cs : List CellRef) : Option Nat :=
  if x.cellErr.isEmpty then none else (cs.find? x.cellErr.contains).map CellRef.number

/-- Correctable errors of the cells a command uses are corrected, counted in CE_COUNT, level 3, and rewritten (R226). -/
def countCells (p : Part) (t : TileId) (cs : List CellRef) (m : Mod) : Mod :=
  let x := m.tile t
  if x.cellSoft.isEmpty then m
  else
    let n := (x.cellSoft.filter cs.contains).length
    let m := m.setTile t { x with cellSoft := x.cellSoft.filter (fun k => !cs.contains k) }
    m.updPart p (fun z => { z with tel := { z.tel with ce := z.tel.ce.set! 3 ((z.tel.ce[3]!).add n) } })

/-- Cells that are written whole hold no error any more. -/
def Tile.cleanCells (x : Tile) (f : CellRef → Bool) : Tile :=
  if x.cellErr.isEmpty && x.cellSoft.isEmpty then x
  else { x with cellErr := x.cellErr.filter (fun k => !f k), cellSoft := x.cellSoft.filter (fun k => !f k) }

/-- The references of a command under R106, in ascending byte order: the first fault, and whether one names
an empty bushel entry. -/
def checkRefs (c : Ctx) (rs : List Nat) : Option (Nat × Nat × Nat) × Bool :=
  let res := rs.map c.resolve
  (res.findSome? (·.fault), res.any (·.empty))

/-- Program order moves on after the issue of the command at index i; reaching index 4,096 is IMEM_BOUNDS
in the next cycle (R79). -/
def stepStream (s : StreamState) (i cyc : Nat) (loop : Option Loop) (ended : Bool) : StreamState :=
  let ls := match loop with | some l => l :: s.loops | none => s.loops
  let (ls, pc) := nextPc ls (i + 1)
  { s with pc := if ended then i else pc, loops := ls, ended := ended, lastIndex := i, nextIssue := cyc + 1,
           stalledAt := none }

/-- Reserve a place of the pushed queue (R70). -/
def reserve (x : Tile) (w : CmdWord) : Tile × Option (Nat × Nat) :=
  match cmdPush w with
  | none => (x, none)
  | some k =>
    let q := x.queue k
    ({ x.setQueue k { q with slots := q.slots ++ [{ id := x.nextId }] } with nextId := x.nextId + 1 }, some (k, x.nextId))

/-- Once both streams of a tile have ended, the entries left in its queues are discarded and counted (R72). -/
def residue (p : Part) (t : TileId) (m : Mod) : Mod :=
  let x := m.tile t
  if !(x.acc.ended && x.exe.ended) then m
  else
    let n := (x.queues.toList.map (fun q => (q.slots.filter (·.entry.isSome)).length)).foldl (· + ·) 0
    if n = 0 then m
    else
      let m := m.setTile t { x with queues := x.queues.map (fun q =>
        { q with slots := q.slots.filter (·.entry.isNone) }) }
      m.updPart p (fun z => { z with tel := { z.tel with queueResidue := z.tel.queueResidue.add n } })

/-- What the command that a stream comes to sees as it issues, before a reference to an empty bushel entry makes it
skipped. With dry set the command is treated as skipped, for the load check of R439, which keeps data and predication
out. -/
def issueCtx0 (dry : Bool) (p : Part) (t : TileId) (st : Stream) (m : Mod) : Ctx :=
  let x := m.tile t
  let s := x.stream st
  let w := x.code st s.pc
  let r := x.pops w (m.part p).ctr
  { m, p, t, x, st, w, index := s.pc, iter0 := s.iters.1, iter1 := s.iters.2.1, n0 := s.iters.2.2, cyc := (m.part p).ctr
    fur := (m.part p).furlongOf (m.part p).ctr, gen := (m.part p).gen.getD 2
    skip := dry || s.loops.any (·.skipped) || predSkips w s.iters.1 s.pred
    popA := (r.map (·.1)).getD 0, popB := (r.map (·.2.1)).getD 0 }

/-- The same, with the references of the opcode looked at (R106). -/
def issueCtx (d : OpDef) (dry : Bool) (p : Part) (t : TileId) (st : Stream) (m : Mod) : Ctx :=
  let c := issueCtx0 dry p t st m
  { c with skip := c.skip || (checkRefs c (d.refs c.w)).2 }

/-- The tile after the pops of a command, with what its header waits for taken from its flag at the end of the cycle. -/
def takeWait (c : Ctx) (y : Tile) : Tile :=
  match cmdWait c.w with
  | some (k, n) => { y with atEnd := y.atEnd ++ [EndEffect.flagSub k n c.loc] }
  | none => y

/-- Program order of the tile after the command has issued. -/
def passCommand (c : Ctx) (loop : Option Loop) (ended : Bool) (y : Tile) : Tile :=
  y.setStream c.st (stepStream (c.x.stream c.st) c.index c.cyc loop ended)

/-- What a command that reads lines works on beside them. -/
def Ctx.inputs (c : Ctx) (reads : List (Nat × Nat)) : Option AtIssue :=
  if reads.isEmpty then none
  else some { popA := c.popA, popB := c.popB, n0 := c.n0, fur := c.fur, vregs := c.x.vregs, sets := c.x.sets, seed := c.x.seed
              work := c.x.groupsWork, groups := c.x.groups, released := c.x.released }

/-- The record of a command in flight. -/
def flightOf (d : OpDef) (c : Ctx) (e : Effect) (bins : List Nat) (push : Option (Nat × Nat)) : Inflight :=
  { stream := c.st, index := c.index, iter0 := c.iter0, iter1 := c.iter1, op := d.op, issue := c.cyc
    complete := e.complete, skipped := c.skip, push := push.map (fun k => (k.1, k.2, e.entry)), sig := cmdSig c.w
    wreg := e.wreg, acc := e.acc, bins := if c.skip then [] else bins, reads := e.reads, writes := e.writes
    predMask := e.predMask, seen := c.seen, inputs := c.inputs e.reads, landing := e.landing }

/-- The tile after the issue of a command: its units, its reservation, its V entry. -/
def issueTile (c : Ctx) (e : Effect) (bins : List Nat) (y : Tile) : Tile × Option (Nat × Nat) :=
  let r := reserve (passCommand c e.loop e.ended y) c.w
  let y := r.1
  let y := { y with
    units := e.units.foldl (fun u k => u.put k.1 k.2) y.units
    seed := e.seed.getD y.seed
    groupsWork := e.work.foldl (fun l g => alPut l g.1 g.2) y.groupsWork
    sends := y.sends ++ e.xfer.toList
    atEnd := y.atEnd ++ e.atEnd }
  match e.vent with
  | some v =>
    ({ y with ventries := y.ventries ++ [{ v with push := r.2.map (fun k => (k.1, k.2, e.entry)), sig := cmdSig c.w,
                                                  bins := if c.skip then [] else bins }] }, r.2)
  | none => (y, r.2)

/-- The issue of a command takes its place in the tile: among those in flight, unless it is an END or a V command. -/
def enterTile (d : OpDef) (c : Ctx) (e : Effect) (bins : List Nat) (y : Tile) (m : Mod) : Mod :=
  let r := issueTile c e bins y
  let m := m.setTile c.t r.1
  if e.vent.isSome || e.ended then m else joinFlight c.p c.t (flightOf d c e bins r.2) m

/-- A bin that a RELEASE of the same cycle releases while the command reads it (R122). -/
def binRace (c : Ctx) (bins : List Nat) (m : Mod) : Mod :=
  if c.skip then m
  else c.x.atEnd.foldl (fun m f =>
    match f with
    | .release b l => if bins.contains b then raise c.p c.cyc cBinState 0 (some l) (some c.loc) b m else m
    | _ => m) m

/-- The faults of an issue that do not stop it: those raised later, an unreadable cell, the end of instruction memory. -/
def issueFaults (c : Ctx) (e : Effect) (cell : Option Nat) (m : Mod) : Mod :=
  let m := e.late.foldl (fun m f => raise c.p f.1 f.2.1 f.2.2.1 (some c.loc) none f.2.2.2 m) m
  let m := match cell with
    | some k => raise c.p c.cyc cMemUe 3 (some c.loc) none k m
    | none => m
  if ((m.tile c.t).stream c.st).pc ≥ 4096 then raise c.p (c.cyc + 1) cImemBounds 0 (some c.loc) none 0 m else m

/-- Whole pages written to the CXL tier, which the V entry can put back (R137). -/
def storeTier (c : Ctx) (ws : List (Nat × Bytes)) (m : Mod) : Mod :=
  let es := (m.part c.p).extents.getD []
  let m' := windowWrite c.p es ws m
  let undo := pageUndo es ws m m'
  m'.updTile c.t (fun x => { x with ventries := x.ventries.mapIdx (fun i v =>
    if i + 1 = x.ventries.length then { v with undo := undo } else v) })

/-- What an issue does outside its tile: planned flits to the ports, whole pages to the CXL tier, corrected errors
counted. -/
def issueOut (c : Ctx) (e : Effect) (m : Mod) : Mod :=
  let m := e.sends.foldl (fun m f => m.updPort f.1 (fun z => { z with planned := z.planned ++ [f.2] })) m
  let m := if e.tier.isEmpty then m else storeTier c e.tier m
  let m := countCe c.p e.soft m
  if e.ended then residue c.p c.t m else m

/-- A command word read with a corrected error is counted in CE_COUNT (R79). -/
def countImem (c : Ctx) (dry : Bool) (m : Mod) : Mod :=
  if (c.index < 4096 && c.x.imemErr.any (fun e => e.1 == c.st && e.2.1 == c.index && !e.2.2)) && !dry then
    m.updPart c.p (fun z => { z with tel := { z.tel with ce := z.tel.ce.set! 1 ((z.tel.ce[1]!).add 1) } })
  else m

/-- What a command sees at its issue, with the lines that commands in flight write (R85). -/
def seeLines (d : OpDef) (c : Ctx) : Ctx := { c with seen := c.lookAround d.op (d.effect c).reads }

/-- The issue of the command whose conditions hold in the present cycle. DEDUCED (log 120): an unreadable entry or flag of its
header is MEM_UE, and nothing that would use it is checked (R227: bad data is never delivered); a command that one of its own
checks stops reads no operand, and raises none (R141). -/
def doIssue (d : OpDef) (p : Part) (t : TileId) (st : Stream) (dry : Bool) (m : Mod) : Mod :=
  let c0 := issueCtx0 dry p t st m
  match c0.x.pops c0.w c0.cyc with
  | none => m
  | some (_, _, _, y) =>
    let c := issueCtx d dry p t st m
    let bins := (d.refs c.w).filterMap (fun r => (c0.resolve r).bin)
    let y := takeWait c y
    let m := countImem c dry m
    match c.x.badCell (headerCells c.x c.w) with
    | some k => raise p c.cyc cMemUe 3 (some c.loc) none k (m.setTile t (passCommand c none false y))
    | none =>
      match (checkRefs c0 (d.refs c.w)).1 with
      | some (code, cause, obj) =>
        raise p c.cyc code cause (some c.loc) none obj (m.setTile t (passCommand c none false y))
      | none =>
        let c := seeLines d c
        let e := d.effect c
        match e.fault with
        | some (code, cause, obj, lb) =>
          raise p c.cyc code cause (some c.loc) lb obj (m.setTile t (passCommand c e.loop e.ended y))
        | none =>
          let used := if c.skip then [] else operandCells d c.w
          let m := detect d c e (enterTile d c e bins y m)
          countCells p t (headerCells c.x c.w ++ used) (issueOut c e (issueFaults c e (c.x.badCell used) (binRace c bins m)))

/-- Mark the first cycle of a stall (R446). -/
def markStall (t : TileId) (st : Stream) (c : Nat) (m : Mod) : Mod :=
  m.updTile t (fun x =>
    let s := x.stream st
    x.setStream st { s with stalledAt := some (s.stalledAt.getD (max c s.nextIssue)) })

/-- A plan of the partition runs and its counter advances. -/
def Partition.live (x : Partition) : Bool := x.running && x.counts

/-- Let time pass to the issue cycle found, and issue there. -/
def issueFrom (d : OpDef) (p : Part) (t : TileId) (st : Stream) (m : Mod) : Option Mod :=
  let x := m.tile t
  match readyAt d x st (x.code st (x.stream st).pc) (m.part p).ctr with
  | .inr _ => none
  | .inl c =>
    if !(m.part p).reaches c then none
    else
      let m := advanceTo p c m
      if !(m.part p).live then some m
      else
        match readyAt d (m.tile t) st (x.code st (x.stream st).pc) (m.part p).ctr with
        | .inl c' => if c' = (m.part p).ctr then some (doIssue d p t st false m) else none
        | .inr _ => none

/-- IMEM_ECC of the command a stream comes to (R79), once. DESIGN CHOICE (log 121): R79 names no cycle; it is raised in the
first cycle in which the stream could issue its next command, whatever else that command waits for. -/
def raiseImem (p : Part) (t : TileId) (st : Stream) (m : Mod) : Mod :=
  let s := (m.tile t).stream st
  let loc : Loc := { tile := t.val, stream := st, index := s.pc, iter0 := s.iters.1, iter1 := s.iters.2.1 }
  if (m.part p).dueFaults.any (fun r => r.code = cImemEcc && r.locA = some loc) then m
  else raise p (max (m.part p).ctr s.nextIssue) cImemEcc 0 (some loc) none 0 m

/-- A stream comes to the command at its program index, which carries the opcode: it issues in the first
cycle in which its issue conditions hold (R63), or the stream stalls. Nothing happens where no plan of the
tile's partition runs, the stream has ended, or its next command is another. -/
def issueCmd (d : OpDef) (t : TileId) (st : Stream) (m : Mod) : Mod :=
  match m.partOfTile t with
  | none => m
  | some p =>
    let x := m.tile t
    let s := x.stream st
    if !(m.part p).live || s.ended || s.pc ≥ 4096 || !d.carries st || cmdOp (x.code st s.pc) != d.op then m
    else if x.imemErr.any (fun e => e.1 == st && e.2.1 == s.pc && e.2.2) then
      raiseImem p t st m
    else
      match issueFrom d p t st m with
      | some m' => m'
      | none =>
        match (if x.atEnd.isEmpty || !(m.part p).reaches ((m.part p).ctr + 1) then none
               else issueFrom d p t st (advance 1 m)) with
        | some m' => m'
        | none => markStall t st (m.part p).ctr m

/-! ### Completion (R65, R70, R74) -/

/-- The entry of a reservation is written (R70). -/
def Queue.fill (q : Queue) (id : Nat) (e : BitVec 64) (c : Nat) : Queue :=
  { q with slots := q.slots.map (fun s => if s.id = id then { s with entry := some (e, c) } else s) }

/-- A cell that a completion writes whole. -/
def Landing.writesCell (l : Landing) : CellRef → Bool
  | .queue _ _ => false
  | .flag f => (l.fset.map (·.1)) == some f
  | .vreg r => (l.vreg.map (·.1)) == some r
  | .acc a => (l.acc.map (·.1)) == some a

/-- What a completion lands in a tile: registers, set, flags, predicate bits, groups, status, counts. -/
def Tile.land (x : Tile) (st : Stream) (loc : Loc) (l : Landing) : Tile :=
  { x.cleanCells l.writesCell with
    selChoices := x.selChoices.add l.selChoices
    selDropped := x.selDropped.add l.selDropped
    selRerouted := x.selRerouted.add l.selRerouted
    vregs := match l.vreg with | some (r, v) => alPut x.vregs r v | none => x.vregs
    sets := match l.acc with
      | some (a, v) => x.sets.set! a v
      | none => x.sets
    atEnd := x.atEnd
      ++ (match l.pred with | some (k, v) => [.pred st k v loc] | none => [])
      ++ (match l.fset with | some (k, v) => [.flagSet k v loc] | none => [])
      ++ l.groups.map (fun g => .group g.1 g.2)
    sat := x.sat || l.sat
    invalid := x.invalid || l.invalid }

/-- Telemetry of a completion (R184, R218). -/
def PartTel.land (t : PartTel) (l : Landing) : PartTel :=
  { t with
    satEvents := if l.sat then t.satEvents.add 1 else t.satEvents
    invalidEvents := if l.invalid then t.invalidEvents.add 1 else t.invalidEvents
    selChoices := t.selChoices.add l.selChoices
    selDropped := t.selDropped.add l.selDropped
    selRerouted := t.selRerouted.add l.selRerouted }

/-- Lines of a run of local-store writes. -/
def writtenLines (ws : List (Nat × Bytes)) : List Nat :=
  ws.flatMap (fun w => (List.range (ceilDiv w.2.length 64)).map (fun k => w.1 / 64 + k))

/-- Two results of one register usable in the same cycle: that of the later-issued command stands (R67), so the earlier one's
is dropped. -/
def dropEarlier (i o : Inflight) : Inflight :=
  if i.wreg.isSome && o.wreg == i.wreg && o.stream == i.stream && o.complete = i.complete && o.issue < i.issue then
    { o with wreg := none }
  else o

/-- The groups that no later SELECT in flight works on take the state that a SELECT leaves (R215). -/
def workAfter (x : Tile) (i : Inflight) (l : Landing) : List (Nat × Group) :=
  l.groups.foldl (fun w g =>
    if x.inflight.any (fun o => i.issue < o.issue && o.landing.groups.any (fun h => h.1 == g.1)) then w
    else alPut w g.1 g.2) x.groupsWork

/-- The tile as a command leaves it: its landing, its entry in its reserved place, visible from the next cycle, its signal at
the end of the cycle. -/
def leaveTile (t : TileId) (i : Inflight) (l : Landing) (cyc : Nat) (x : Tile) : Tile :=
  let x := { x with inflight := x.inflight.map (fun o => refreshSeen i l (dropEarlier i o)), groupsWork := workAfter x i l }
  let x := x.land i.stream (i.loc t) l
  let x := match i.push with
    | some (k, id, e) => x.setQueue k ((x.queue k).fill id e cyc)
    | none => x
  match i.sig with
  | some (k, n) => { x with atEnd := x.atEnd ++ [EndEffect.flagAdd k n (i.loc t)] }
  | none => x

/-- A signal uses its flag: an unreadable one is MEM_UE in that cycle, a correctable one is counted (R226, R227). -/
def useFlag (p : Part) (t : TileId) (i : Inflight) (m : Mod) : Mod :=
  match i.sig with
  | none => m
  | some (k, _) =>
    let m := match (m.tile t).badCell [.flag k] with
      | some n => raise p (m.part p).ctr cMemUe 3 (some (i.loc t)) none n m
      | none => m
    countCells p t [.flag k] m

/-- The lines of the memories that a landing writes. -/
def Landing.lines (m : Mod) (p : Part) (t : TileId) (l : Landing) : List LineRef :=
  (writtenLines l.writes).map (.localStore (m.physOf t) ·)
  ++ l.hbmWrites.flatMap (fun w => ((writtenLines [w.2]).filterMap (m.writeLine p w.1)).map (.hbm (toFin 8 w.1) ·))
  ++ l.mesh.flatMap (fun w => (writtenLines [w.2]).map (.localStore (m.physOf (toFin 64 w.1)) ·))

/-- The completion of a command in the present cycle, with what it lands. -/
def completeWith (p : Part) (t : TileId) (i : Inflight) (land : Landing) (m : Mod) : Mod :=
  let l := { land with writes := keepLines i.lost land.writes, vreg := if i.wreg.isSome then land.vreg else none }
  let m := useFlag p t i m
  let m := writeStore t l.writes (m.setTile t (leaveTile t i l (m.part p).ctr (m.tile t)))
  let m := l.hbmWrites.foldl (fun m w => writePlan p w.1 w.2.1 w.2.2 m) m
  let m := l.mesh.foldl (fun m w => writeStore (toFin 64 w.1) [w.2] m) m
  let m := if m.lineErrs.isEmpty then m else clearLineErr (l.lines m p t) m
  residue p t (m.updPart p (fun z => { z with tel := z.tel.land l }))

/-- The completion of a command whose landing was settled at its issue. -/
def completeAt (p : Part) (t : TileId) (i : Inflight) (m : Mod) : Mod := completeWith p t i i.landing m

/-- Remove the first member of a list that satisfies a condition. -/
def removeFirst {α : Type} (f : α → Bool) : List α → List α
  | [] => []
  | a :: r => if f a then r else a :: removeFirst f r

end Sys2Proof.Machine
end

