-- ==== Sys2Proof/Machine/StreamCmds.lean ====
section
/-!
DEFINITION. The rows END, SYNC, REPEAT, PSET, FSET and QPUSH (R78, R109, R113 to R116, R160).
-/
namespace Sys2Proof.Machine

/-- The MEM_UE of a read of local-store runs, raised at cycle c (R227): cause 1, the line. -/
def Ctx.ue (c : Ctx) (rs : List (Nat × Nat)) (cyc : Nat) : List (Nat × Nat × Nat × Nat) :=
  match c.badLine rs with
  | some l => [(cyc, cMemUe, 1, l)]
  | none => []

/-- Answer a command of the tile streams: only the module part of the state changes. -/
def onTile (d : OpDef) (t : TileId) (st : Stream) (s : State) : Host.Outcome State Fault Refusal :=
  .next { s with m := issueCmd d t st s.m }

/-- END completes at its issue; the stream issues nothing further (R78, Table CMD-4). -/
def endDef : OpDef :=
  { op := 0x00
    effect := fun c =>
      { ended := true, complete := c.cyc
        atEnd := match cmdSig c.w with
          | some (k, n) => [.flagAdd k n c.loc]
          | none => [] } }

/-- SYNC pushes a copy of the POP_A entry, with AUX from PUSH_AUX (R103, R114); 1 cycle. -/
def syncDef : OpDef :=
  { op := 0x01
    effect := fun c =>
      { complete := c.cyc + 1
        entry := mkEntry (entLine c.popA) (entCount c.popA) (cmdAux c.w) (entTag c.popA) } }

/-- REPEAT opens its body of LEN commands, COUNT passes; a skipped REPEAT skips every command of it
(R109, R112). -/
def repeatDef : OpDef :=
  { op := 0x02
    effect := fun c =>
      { complete := c.cyc + 1
        loop := some { first := c.index + 1, len := cb c.w 14 2, count := cb c.w 12 2, pass := 0, skipped := c.skip } } }

/-- The class that PLOAD reads through (Table CMD-6). -/
def ploadUnit : Stream → UnitId
  | .access => .meshOut
  | .execute => .vecRead

/-- Bits 0 to 63 of a test, as a predicate register. -/
def predWord (f : Nat → Bool) : Word64 :=
  BitVec.ofNat 64 ((List.range 64).foldl (fun a i => if f i then a + 2 ^ i else a) 0)

/-- The bits a PSET writes and their values (Table CMD-6, R160). -/
def psetValue (c : Ctx) : Word64 × Word64 :=
  let bit := fld c.w 109 104
  let value := cb c.w 16 2
  let one (b : Bool) : Word64 × Word64 := (1#64 <<< bit, if b then 1#64 <<< bit else 0)
  match cb c.w 12 1 with
  | 0x01 => (BitVec.allOnes 64, BitVec.ofNat 64 (leNat (sliceB (c.readBytes (c.resolve (cb c.w 18 4))) 0 8)))
  | 0x02 => one (decide (value ≤ c.x.flags.get 0 (fld c.w 117 112)))
  | 0x03 => one (bitN (entAux c.popA) (value % 8))
  | 0x04 => one (bitN value 0)
  | 0x05 =>
    let v := regOf c.x.vregs (fld c.w 124 120)
    (BitVec.allOnes 64, predWord (fun i => v.getD i 0 != 0))
  | _ =>
    let g := fld c.w 116 112
    (BitVec.allOnes 64, predWord (fun i => (alGet (c.x.group g).entries (value + i)).isSome))

/-- PSET (R113): the register or bit is written at the end of the completion cycle (R112). -/
def psetDef : OpDef :=
  { op := 0x03
    units := fun st w => if cb w 12 1 = 0x01 then [ploadUnit st] else []
    regs := fun w => if cb w 12 1 = 0x05 then [fld w 124 120] else []
    flag := fun w => if cb w 12 1 = 0x02 then some (fld w 117 112) else none
    refs := fun w => if cb w 12 1 = 0x01 then [cb w 18 4] else []
    effect := fun c =>
      let mode := cb c.w 12 1
      let r := c.resolve (cb c.w 18 4)
      let u := ploadUnit c.st
      let occ := occupancy r.sh u.slots
      let done := if mode = 0x01 then c.cyc + occ + 64 else if mode = 0x05 then c.cyc + 6 else c.cyc + 1
      let runs := blockRuns r.f r.sh
      let ue := if mode = 0x01 && !c.skip then c.ue runs done else []
      { complete := done
        units := if mode = 0x01 then [(u, c.cyc + occ)] else []
        reads := if mode = 0x01 && !c.skip then runs else []
        soft := if mode = 0x01 && !c.skip then c.softLines runs else []
        late := ue
        predMask := if c.skip then 0 else (psetValue c).1
        landing := if c.skip || !ue.isEmpty then {} else { pred := some (psetValue c) } } }

/-- FSET sets its flag at the end of its completion cycle (R115); a skipped FSET sets none (R65). -/
def fsetDef : OpDef :=
  { op := 0x04
    effect := fun c =>
      { complete := c.cyc + 1
        landing := if c.skip then {} else { fset := some (fld c.w 101 96, cb c.w 14 2) } } }

/-- QPUSH pushes ENTRY unchanged (R116). -/
def qpushDef : OpDef :=
  { op := 0x05
    effect := fun c => { complete := c.cyc + 1, entry := BitVec.ofNat 64 (cb c.w 12 8) } }

def execEnd (t : TileId) (st : Stream) (s : State) : Host.Outcome State Fault Refusal := onTile endDef t st s
def execSync (t : TileId) (st : Stream) (s : State) : Host.Outcome State Fault Refusal := onTile syncDef t st s
def execRepeat (t : TileId) (st : Stream) (s : State) : Host.Outcome State Fault Refusal := onTile repeatDef t st s
def execPset (t : TileId) (st : Stream) (s : State) : Host.Outcome State Fault Refusal := onTile psetDef t st s
def execFset (t : TileId) (st : Stream) (s : State) : Host.Outcome State Fault Refusal := onTile fsetDef t st s
def execQpush (t : TileId) (st : Stream) (s : State) : Host.Outcome State Fault Refusal := onTile qpushDef t st s

end Sys2Proof.Machine
end

