-- ==== Sys2Proof/Machine/Transfer.lean ====
section
/-!
DEFINITION. The rows LOAD_HBM, STORE_HBM, PAGE_GATHER, PAGE_SCATTER and RELEASE (R117 to R122, R161, R162,
R235, R236).
-/
namespace Sys2Proof.Machine

/-- Fault codes of Table CHK-2 that transfers raise. -/
def cAddrWindow : Nat := 0x0006
def cPageRange : Nat := 0x0007
def cPageTier : Nat := 0x0008

/-- The line past the last of a stack, 80 GiB (R118, R222). -/
def hbmLines : Nat := 0x50000000

/-- The HBM side of a transfer (Table CMD-7): bay, first line and shape; the bay is absent where its index
names none of the partition's bays. -/
def hbmBlock (c : Ctx) : Option Nat × Nat × Shape :=
  let h := cb c.w 16 8
  let sh := c.x.shape (bitsN h 47 40)
  (c.part.bayAt (bitsN h 34 32), bitsN h 30 0 + c.steps (bitsN h 37 36) * sh.foot, sh)

/-- The address window of a transfer (R118): its HBM block lies in its stack and in a bay of the partition. -/
def hbmFault (c : Ctx) : Option (Nat × Nat × Nat × Option Loc) :=
  let (b, f, sh) := hbmBlock c
  if c.skip then none
  else if b.isNone || f + sh.extent > hbmLines then some (cAddrWindow, 0, f, none)
  else none

/-- The MEM_UE of a read of an HBM stack (R227): cause 2, the line. -/
def Ctx.ueHbm (c : Ctx) (b : Nat) (rs : List (Nat × Nat)) (cyc : Nat) : List (Nat × Nat × Nat × Nat) :=
  match c.badHbm (toFin 8 b) rs with
  | some l => [(cyc, cMemUe, 2, l % 2 ^ 40 + 2 ^ 40 * b)]
  | none => []

/-- LOAD_HBM: the HBM block into the local-store block on mesh in (R117, R118). -/
def loadHbmDef : OpDef :=
  { op := 0x10
    carries := fun st => st = .access
    units := fun _ _ => [.meshIn]
    refs := fun w => [cb w 12 4]
    effect := fun c =>
      let r := c.resolve (cb c.w 12 4)
      let (b, f, sh) := hbmBlock c
      let occ := occupancy r.sh 16
      let bay := b.getD 0
      let ue := if c.skip then [] else c.ueHbm bay (blockRuns f sh) (c.cyc + occ + 64)
      { fault := hbmFault c
        units := [(.meshIn, c.cyc + occ)], complete := c.cyc + occ + 64, entry := c.blockEntry r
        writes := if c.skip then [] else blockRuns r.f r.sh
        soft := if c.skip then [] else c.softHbm (toFin 8 bay) (blockRuns f sh)
        late := ue
        landing := if c.skip || !ue.isEmpty then {}
          else { writes := blockWrites r.f r.sh (c.m.readPlan c.p bay (blockRuns f sh)) } } }

/-- STORE_HBM: the local-store block into the HBM block on mesh out (R117, R118). -/
def storeHbmDef : OpDef :=
  { op := 0x11
    carries := fun st => st = .access
    units := fun _ _ => [.meshOut]
    refs := fun w => [cb w 12 4]
    effect := fun c =>
      let r := c.resolve (cb c.w 12 4)
      let (b, f, sh) := hbmBlock c
      let occ := occupancy r.sh 16
      let runs := blockRuns r.f r.sh
      let ue := if c.skip then [] else c.ue runs (c.cyc + occ + 64)
      { fault := hbmFault c
        units := [(.meshOut, c.cyc + occ)], complete := c.cyc + occ + 64, entry := c.blockEntry r
        reads := if c.skip then [] else runs
        soft := if c.skip then [] else c.softLines runs
        late := ue
        landing := if c.skip || !ue.isEmpty then {}
          else { hbmWrites := (blockWrites f sh (c.readBytes r)).map (fun w => (b.getD 0, w.1, w.2)) } } }

/-! ### Paged transfers (R119, R161, R162, R235, R236) -/

/-- A page-table entry (Table MEM-5). -/
structure PageEntry where
  present : Bool
  tier : Bool
  bay : Nat
  loc : Nat
  reserved : Bool
  deriving DecidableEq, Repr, Inhabited

/-- Read a page-table entry; reserved says whether a reserved bit is non-zero. -/
def PageEntry.of (e : Nat) : PageEntry :=
  let t := bitN e 1
  { present := bitN e 0, tier := t, bay := bitsN e 4 2, loc := if t then bitsN e 37 8 else bitsN e 38 8
    reserved := bitsN e 7 5 != 0 || bitsN e 63 39 != 0 || (t && (bitsN e 4 2 != 0 || bitN e 38)) }

/-- Firkins of a paged transfer, lines of a firkin, first firkin index (R119, R161). -/
def pageNf (w : CmdWord) : Nat := cb w 22 1 + 1
def pageFlines (w : CmdWord) : Nat := cb w 24 2
def pageFirst (c : Ctx) : Nat :=
  let opt := cb c.w 23 1
  if c.gen = 3 then
    cb c.w 20 2 + opt / 2 % 4 * 2 ^ 16 + (if opt % 2 = 1 then entAux c.popB * 2 ^ 16 + entTag c.popB else 0)
  else cb c.w 20 2 % 2 ^ 14 + (if opt % 2 = 1 then entTag c.popB else 0)

/-- First firkin index that raises PAGE_RANGE. -/
def pageLimit (gen : Nat) : Nat := if gen = 3 then 2 ^ 18 else 2 ^ 14

/-- TIERSKIP (R162). -/
def tierSkip (c : Ctx) : Bool := c.gen == 3 && bitN (cb c.w 23 1) 3

/-- The local-store line that holds entry j of a page table, and the entry. -/
def pageLine (r : Res) (j : Nat) : Nat := blockLine r.f r.sh (j / 8)
def pageEntry (c : Ctx) (r : Res) (j : Nat) : PageEntry :=
  PageEntry.of (leNat (sliceB (c.lineAt (pageLine r j)) (8 * (j % 8)) 8))

/-- The checks of one entry of PAGE_GATHER or PAGE_SCATTER, in order (R119). -/
def pageFault (c : Ctx) (tref : Res) (j : Nat) : Option (Nat × Nat × Nat) :=
  if j ≥ pageLimit c.gen then some (cPageRange, 0, j)
  else if 8 * j + 8 > 64 * tref.sh.foot then some (cOperandRange, 4, j)
  else
    let e := pageEntry c tref j
    if !e.present then none
    else if e.reserved then some (cAddrWindow, 0, j)
    else if !e.tier && ((c.part.bayAt e.bay).isNone || e.loc + pageFlines c.w > hbmLines) then some (cAddrWindow, 0, j)
    else if e.tier && !tierSkip c then some (cPageTier, 0, j)
    else none

/-- Firkin indices of a paged transfer. -/
def pageIdx (c : Ctx) : List Nat := (List.range (pageNf c.w)).map (pageFirst c + ·)

/-- The fault of the entries, raised in cycle 79 after issue: the first faulting entry; before it, an entry
whose line cannot be read (R119, R227). DESIGN CHOICE (log 112): R227 gives the MEM_UE of a page-table line neither a cycle of
its own nor an order against the entry faults; it is raised in cycle 79, ahead of them. -/
def pageLate (c : Ctx) (tref : Res) (check : Nat → Option (Nat × Nat × Nat)) : List (Nat × Nat × Nat × Nat) :=
  if c.skip then []
  else
    let readable := (pageIdx c).filter (fun j => j < pageLimit c.gen && 8 * j + 8 ≤ 64 * tref.sh.foot)
    match c.badLine (readable.map (fun j => (pageLine tref j, 1))) with
    | some l => [(c.cyc + 79, cMemUe, 1, l)]
    | none =>
      match (pageIdx c).findSome? check with
      | some (code, cause, obj) => [(c.cyc + 79, code, cause, obj)]
      | none => []

/-- The HBM firkins that move: position in the block, bay, first HBM line. -/
def pageMoves (c : Ctx) (tref : Res) : List (Nat × Nat × Nat) :=
  (pageIdx c).zipIdx.filterMap (fun j =>
    let e := pageEntry c tref j.1
    if e.present && !e.tier then some (j.2, (c.part.bayAt e.bay).getD 0, e.loc) else none)

/-- Timing of a paged transfer: 80 entry cycles, then the block (R119). -/
def pageEnd (c : Ctx) (r : Res) : Nat := c.cyc + 80 + occupancy r.sh 16

/-- PAGE_GATHER (R119). -/
def pageGatherDef : OpDef :=
  { op := 0x12
    carries := fun st => st = .access
    units := fun _ _ => [.meshIn]
    refs := fun w => [cb w 12 4, cb w 16 4]
    effect := fun c =>
      let r := c.resolve (cb c.w 12 4)
      let tref := c.resolve (cb c.w 16 4)
      let fl := pageFlines c.w
      let late := pageLate c tref (pageFault c tref)
      let mv := if c.skip || !late.isEmpty then [] else pageMoves c tref
      let ue := mv.flatMap (fun k => c.ueHbm k.2.1 [(k.2.2, fl)] (pageEnd c r + 64))
      { units := [(.meshIn, pageEnd c r)], complete := pageEnd c r + 64, entry := c.blockEntry r
        reads := if c.skip then [] else (pageIdx c).map (fun j => (pageLine tref j, 1))
        writes := mv.flatMap (fun k => (List.range fl).map (fun i => (blockLine r.f r.sh (k.1 * fl + i), 1)))
        soft := (if c.skip then [] else c.softLines ((pageIdx c).map (fun j => (pageLine tref j, 1))))
          ++ mv.flatMap (fun k => c.softHbm (toFin 8 k.2.1) [(k.2.2, fl)])
        late := late ++ ue.take 1
        landing := if ue.isEmpty then
            { writes := mv.flatMap (fun k => partWrites r.f r.sh (k.1 * fl) fl
                (c.m.readPlan c.p k.2.1 [(k.2.2, fl)])) }
          else {} } }

/-- PAGE_SCATTER (R119). -/
def pageScatterDef : OpDef :=
  { op := 0x13
    carries := fun st => st = .access
    units := fun _ _ => [.meshOut]
    refs := fun w => [cb w 12 4, cb w 16 4]
    effect := fun c =>
      let r := c.resolve (cb c.w 12 4)
      let tref := c.resolve (cb c.w 16 4)
      let fl := pageFlines c.w
      let late := pageLate c tref (pageFault c tref)
      let mv := if c.skip || !late.isEmpty then [] else pageMoves c tref
      let src := mv.flatMap (fun k => (List.range fl).map (fun i => (blockLine r.f r.sh (k.1 * fl + i), 1)))
      let ue := c.ue src (pageEnd c r + 64)
      { units := [(.meshOut, pageEnd c r)], complete := pageEnd c r + 64, entry := c.blockEntry r
        reads := (if c.skip then [] else (pageIdx c).map (fun j => (pageLine tref j, 1))) ++ src
        soft := (if c.skip then [] else c.softLines ((pageIdx c).map (fun j => (pageLine tref j, 1)))) ++ c.softLines src
        late := late ++ ue
        landing := if ue.isEmpty then
            { hbmWrites := mv.map (fun k => (k.2.1, 64 * k.2.2,
                c.linesAt ((List.range fl).map (fun i => blockLine r.f r.sh (k.1 * fl + i))))) }
          else {} } }

/-! ### RELEASE (R122) -/

/-- The bin of a RELEASE. -/
def releaseBin (w : CmdWord) : Nat := fld w 133 128

/-- RELEASE releases the valid half at the end of its issue cycle; BIN_NOT_VALID and BIN_STATE (R122). -/
def releaseDef : OpDef :=
  { op := 0x15
    carries := fun st => st = .access
    effect := fun c =>
      let j := releaseBin c.w
      let valid := c.fur != 0 && !c.x.released.contains j && (c.x.bin j).isSome
      let reader := ((c.x.inflight.find? (fun i => i.bins.contains j && c.cyc < i.complete)).map (Inflight.loc c.t)).or
        ((c.x.ventries.find? (fun v => v.bins.contains j)).map (VEntry.loc c.t))
      { complete := c.cyc + 1
        fault := if c.skip then none
          else if !valid then some (cBinNotValid, 0, j, none)
          else match reader with
            | some l => some (cBinState, 0, j, some l)
            | none => none
        atEnd := if c.skip then [] else [.release j c.loc] } }

def execLoadHbm (t : TileId) (s : State) : Host.Outcome State Fault Refusal := onTile loadHbmDef t .access s
def execStoreHbm (t : TileId) (s : State) : Host.Outcome State Fault Refusal := onTile storeHbmDef t .access s
def execPageGather (t : TileId) (s : State) : Host.Outcome State Fault Refusal := onTile pageGatherDef t .access s
def execPageScatter (t : TileId) (s : State) : Host.Outcome State Fault Refusal := onTile pageScatterDef t .access s
def execRelease (t : TileId) (s : State) : Host.Outcome State Fault Refusal := onTile releaseDef t .access s

end Sys2Proof.Machine
end

