-- ==== Sys2Proof/Machine/Compute.lean ====
section
/-!
DEFINITION. The rows of the execute engines: MATMUL, ACCADD, VLOAD, VSTORE, VOP, TRANS and SELECT (R86 to
R92, R125 to R131, R148 to R158, R178 to R184, R208 to R216).
-/
namespace Sys2Proof.Machine

/-! ### Accumulator commands -/

/-- CTRL fields of MATMUL and ACCADD (Table CMD-9). -/
def ctlCfmt (w : CmdWord) : Nat := fld w 235 232
def ctlSet (w : CmdWord) : Nat := fld w 236 236
def ctlZero (w : CmdWord) : Bool := bitN w.toNat 237
def ctlClose (w : CmdWord) : Bool := bitN w.toNat 238
def ctlSparse (w : CmdWord) : Bool := bitN w.toNat 239
/-- ANCHOR [9:0], two's complement, and RMODE stochastic (R150). -/
def ctlAnchor (w : CmdWord) : Int := signed 10 (fld w 249 240)
def ctlSr (c : Ctx) : Bool := c.gen == 3 && fld c.w 251 250 == 1
/-- Active rows and columns. -/
def ctlRows (w : CmdWord) : Nat := cb w 26 1 + 1
def ctlCols (w : CmdWord) : Nat := cb w 27 1 + 1
/-- Formats of A and B, and K. -/
def ctlFa (w : CmdWord) : Nat := fld w 227 224
def ctlFb (w : CmdWord) : Nat := fld w 231 228
def ctlK (w : CmdWord) : Nat := (fld w 202 192 + 1) * 32

/-- The grid width W: 128 in FJ3, 96 in FJ2 (R148, R181). -/
def gridW (gen : Nat) : Nat := if gen = 3 then 128 else 96

/-- Accumulator set a of a tile. -/
def Tile.set (x : Tile) (a : Nat) : AccSet := x.sets.get (toFin 2 a)

def cAccState : Nat := 0x0009

/-- ACC_STATE (R127, R149): causes 1 ZERO_ON_OPEN, 2 ADD_ON_CLOSED, 3 ANCHOR_MISMATCH. -/
def accFault (c : Ctx) : Option (Nat × Nat × Nat × Option Loc) :=
  let a := ctlSet c.w
  let v := c.x.set a
  if c.skip then none
  else if ctlZero c.w && v.isOpen then some (cAccState, 1, a, none)
  else if !ctlZero c.w && !v.isOpen then some (cAccState, 2, a, none)
  else if !ctlZero c.w && c.gen == 3 && v.anchor != ctlAnchor c.w then some (cAccState, 3, a, none)
  else none

/-- The anchor that governs the set: that of the opening command (R149). -/
def accAnchor (c : Ctx) : Int := if ctlZero c.w then ctlAnchor c.w else (c.x.set (ctlSet c.w)).anchor

/-- The cells a command starts from (R127). -/
def accBase (c : Ctx) : Sparse AccCell := if ctlZero c.w then [] else (c.x.set (ctlSet c.w)).cells

/-- Bytes of one result. -/
def resultSize (w : CmdWord) : Nat := elemBits (ctlCfmt w) / 8

/-- The drain of a closing command whose accumulation is usable at cycle u: its end on the class, and its
completion (R88, R128). -/
def drainEnd (c : Ctx) (u : Nat) : Nat := max u c.x.units.matWrite + 256 * resultSize c.w

/-- What an accumulator command lands: its set with the cells after accumulation, and, where it closes, the drained block
(R128, R155, R183). -/
def accLand (c : Ctx) (cells : Sparse AccCell × Bool) : Landing :=
  let a := ctlSet c.w
  if ctlClose c.w then
    let cref := c.resolve (cb c.w 20 4)
    let drawn := if ctlSr c then (takeDraws 65536 c.x.seed).1 else []
    let (bs, s, v) := drainSet cells.1 (ctlCfmt c.w) (accAnchor c) (gridW c.gen) (ctlRows c.w) (ctlCols c.w) drawn.toArray
      (ctlSr c)
    { acc := some (a, { isOpen := false, anchor := accAnchor c, cells := cells.1 })
      writes := partWrites cref.f cref.sh 0 (1024 * resultSize c.w) bs, sat := cells.2 || s, invalid := v }
  else { acc := some (a, { isOpen := true, anchor := accAnchor c, cells := cells.1 }), sat := cells.2 }

/-- The effect of an accumulator command: cells after accumulation, usable cycle, units, reads (R127, R128,
R155, R157, R178, R183). -/
def accEffect (c : Ctx) (u : Nat) (us : List (UnitId × Nat)) (reads : List (Nat × Nat))
    (ues : List (Nat × Nat × Nat × Nat)) (cells : Unit → Sparse AccCell × Bool) : Effect :=
  let a := ctlSet c.w
  let close := ctlClose c.w
  let cref := c.resolve (cb c.w 20 4)
  let de := drainEnd c u
  let sr := ctlSr c && close
  let lines := 1024 * resultSize c.w
  { fault := accFault c
    units := us ++ (if close then [(.matWrite, de)] else [])
    complete := if close then de + 64 else u
    entry := c.blockEntry cref, acc := some a
    reads := if c.skip then [] else reads
    writes := if c.skip || !close then [] else lineRuns cref.f cref.sh lines
    soft := if c.skip then [] else c.softLines reads
    late := if c.skip then [] else ues
    seed := if sr then some (takeDraws 65536 c.x.seed).2 else none
    landing := if c.skip || !ues.isEmpty then {} else accLand c (cells ()) }

/-- Cycles a MATMUL occupies the engine: K ÷ ρ (Table TIL-4). -/
def matmulCycles (w : CmdWord) : Nat :=
  let k := ctlK w
  let base := match elemCode (ctlFa w) with
    | 0x4 => 4 * k
    | 0x9 | 0xA => k / 2
    | _ => k
  if ctlSparse w then base / 2 else base

/-- Lines of an operand of 256 rows of n elements, with its MX scales and 2:4 metadata (Table ARI-2). -/
def operandLines (code kk n : Nat) (sparse : Bool) : Nat :=
  (streamBytes (elemBits code) (256 * n) + (if (mxBase code).isSome then streamBytes 8 (256 * (kk / 32)) else 0)
    + (if sparse then streamBytes 4 (256 * (kk / 4)) else 0)) / 64

/-- MATMUL (R125 to R128). -/
def matmulDef : OpDef :=
  { op := 0x20
    carries := fun st => st = .execute
    units := fun _ _ => [.matrix]
    set := fun w => some (ctlSet w)
    refs := fun w => [cb w 12 4, cb w 16 4] ++ (if ctlClose w then [cb w 20 4] else [])
    draws := fun w => ctlClose w && fld w 251 250 == 1
    effect := fun c =>
      let k := ctlK c.w
      let ra := c.resolve (cb c.w 12 4)
      let rb := c.resolve (cb c.w 16 4)
      let runA := lineRuns ra.f ra.sh (operandLines (ctlFa c.w) k k false)
      let runB := lineRuns rb.f rb.sh (operandLines (ctlFb c.w) k (if ctlSparse c.w then k / 2 else k) (ctlSparse c.w))
      let occ := matmulCycles c.w
      let ues := if c.skip then [] else
        c.ue runA (c.cyc + occupancy ra.sh 15 + 64) ++ c.ue runB (c.cyc + occupancy rb.sh 15 + 64)
      accEffect c (c.cyc + occ + 88) [(.matrix, c.cyc + occ)] (runA ++ runB) ues (fun _ =>
        matmulCells (ctlFa c.w) (ctlFb c.w) k (ctlSparse c.w) (c.readBytes ra).toArray (c.readBytes rb).toArray
          (ctlRows c.w) (ctlCols c.w) (accAnchor c) (gridW c.gen) (accBase c)) }

/-- ACCADD (R156, R157). -/
def accaddDef : OpDef :=
  { op := 0x21
    carries := fun st => st = .execute
    units := fun _ _ => [.matrix, .matRead]
    set := fun w => some (ctlSet w)
    refs := fun w => [cb w 12 4] ++ (if ctlClose w then [cb w 20 4] else [])
    draws := fun w => ctlClose w && fld w 251 250 == 1
    effect := fun c =>
      let r := c.resolve (cb c.w 12 4)
      let occ := occupancy r.sh 15
      let runs := blockRuns r.f r.sh
      let ues := if c.skip then [] else c.ue runs (c.cyc + occ + 64)
      accEffect c (c.cyc + occ + 64 + 24) [(.matrix, c.cyc + occ), (.matRead, c.cyc + occ)] runs ues (fun _ =>
        (accaddCells (c.readBytes r).toArray (ctlRows c.w) (ctlCols c.w) (gridW c.gen) (accBase c), false)) }

/-! ### Vector commands -/

/-- VREG and FMT of VLOAD and VSTORE. -/
def vecReg (w : CmdWord) : Nat := fld w 132 128
def vecFmt (w : CmdWord) : Nat := cb w 17 1

/-- VLOAD (R129, R189). -/
def vloadDef : OpDef :=
  { op := 0x28
    carries := fun st => st = .execute
    units := fun _ _ => [.vecRead]
    refs := fun w => [cb w 12 4]
    effect := fun c =>
      let r := c.resolve (cb c.w 12 4)
      let occ := occupancy r.sh 6
      let runs := blockRuns r.f r.sh
      let ue := if c.skip then [] else c.ue runs (c.cyc + occ + 64)
      { units := [(.vecRead, c.cyc + occ)], complete := c.cyc + occ + 64, entry := c.blockEntry r
        wreg := some (vecReg c.w)
        reads := if c.skip then [] else runs
        soft := if c.skip then [] else c.softLines runs
        late := ue
        landing := if c.skip || !ue.isEmpty then {}
          else { vreg := some (vecReg c.w, vloadLanes (vecFmt c.w) (c.readBytes r)) } } }

/-- A VSTORE rounds stochastically: RMODE 0b01 in FJ3 (R150). -/
def vstoreSr (c : Ctx) : Bool := c.gen == 3 && fld c.w 145 144 == 1

/-- VSTORE (R129, R178, R190, R191). -/
def vstoreDef : OpDef :=
  { op := 0x29
    carries := fun st => st = .execute
    units := fun _ _ => [.vecWrite]
    regs := fun w => [vecReg w]
    refs := fun w => [cb w 12 4]
    draws := fun w => fld w 145 144 == 1
    effect := fun c =>
      let r := c.resolve (cb c.w 12 4)
      let occ := occupancy r.sh 4
      let drawn := if vstoreSr c then takeDraws 512 c.x.seed else ([], c.x.seed)
      let (bs, s, v) := vstoreBlock (vecFmt c.w) (regOf c.x.vregs (vecReg c.w)) drawn.1
      { units := [(.vecWrite, c.cyc + occ)], complete := c.cyc + occ + 64, entry := c.blockEntry r
        writes := if c.skip then [] else blockRuns r.f r.sh
        seed := if vstoreSr c then some drawn.2 else none
        landing := if c.skip then {} else { writes := blockWrites r.f r.sh bs, sat := s, invalid := v } } }

/-- Register fields of VOP. -/
def vopVd (w : CmdWord) : Nat := fld w 108 104
def vopVa (w : CmdWord) : Nat := fld w 116 112
def vopVb (w : CmdWord) : Nat := fld w 124 120
def vopVc (w : CmdWord) : Nat := fld w 132 128
/-- OPT bit 0: IMM in place of VB. -/
def vopImm (w : CmdWord) : Bool := bitN w.toNat 136

/-- A subop of Table CMD-11 reads VB; reads VC. -/
def readsVb (sub : Nat) : Bool := (0x01 ≤ sub && sub ≤ 0x12)
def readsVc (sub : Nat) : Bool := sub == 0x04 || sub == 0x09

/-- VOP (R130). -/
def vopDef : OpDef :=
  { op := 0x2A
    carries := fun st => st = .execute
    units := fun _ _ => [.vecUnit]
    regs := fun w =>
      [vopVa w] ++ (if readsVb (cb w 12 1) && !vopImm w then [vopVb w] else [])
        ++ (if readsVc (cb w 12 1) then [vopVc w] else [])
    effect := fun c =>
      let w := c.w
      let vb := if vopImm w then List.replicate 512 (BitVec.ofNat 32 (cb w 20 4)) else regOf c.x.vregs (vopVb w)
      { units := [(.vecUnit, c.cyc + 1)], complete := c.cyc + 6, wreg := some (vopVd w)
        landing := if c.skip then {}
          else { vreg := some (vopVd w, vopLanes (cb w 12 1) (regOf c.x.vregs (vopVa w)) vb (regOf c.x.vregs (vopVc w))) } } }

/-- TRANS: four issue cycles of 128 lanes, the last usable after the latency of the stepping (R90, R131). -/
def transDef : OpDef :=
  { op := 0x30
    carries := fun st => st = .execute
    units := fun _ _ => [.trans]
    regs := fun w => [fld w 116 112]
    effect := fun c =>
      let va := regOf c.x.vregs (fld c.w 116 112)
      { units := [(.trans, c.cyc + 4)], complete := c.cyc + 3 + transLatency c.m.stepping
        wreg := some (fld c.w 108 104)
        landing := if c.skip then {}
          else { vreg := some (fld c.w 108 104, (List.range 512).map (fun i => transFn (cb c.w 12 1) (va.getD i 0))) } } }

/-! ### SELECT (R158, R208 to R216) -/

/-- Fields of Table FJ3-8. -/
def selC (w : CmdWord) : Nat := fld w 139 128 + 1
def selK (w : CmdWord) : Nat := fld w 149 144 + 1
def selFmt (w : CmdWord) : Nat := cb w 19 1
def selBush (w : CmdWord) : Nat := fld w 164 160
def selClear (w : CmdWord) : Bool := bitN w.toNat 167
def selBush2 (w : CmdWord) : Nat := fld w 172 168
def selClear2 (w : CmdWord) : Bool := bitN w.toNat 175
def selSpill (w : CmdWord) : Bool := cb w 22 1 == 1

/-- Rows of scores (R208). -/
def selScores (c : Ctx) (r : Res) : List (List Reg) :=
  let bs := (c.readBytes r).toArray
  (List.range r.sh.rows).map (fun i =>
    (List.range (selC c.w)).map (fun j =>
      let b := elemBits (selFmt c.w)
      toFp32 (elemVal (selFmt c.w) (elemAt bs (64 * r.sh.cols * i) b j))))

/-- The selector's working state of a group. -/
def Tile.workGroup (x : Tile) (g : Nat) : Group := (alGet x.groupsWork g).getD {}

/-- SELECT (R208 to R216). A skipped SELECT empties the groups it clears and advances ROWNEXT. -/
def selectDef : OpDef :=
  { op := 0x38
    carries := fun st => st = .execute
    units := fun _ _ => [.selector]
    refs := fun w => [cb w 12 4, cb w 24 4]
    effect := fun c =>
      let w := c.w
      let r := c.resolve (cb w 12 4)
      let gr := c.resolve (cb w 24 4)
      let k := selK w
      let occ := r.sh.rows * (ceilDiv (selC w) 32 + k)
      let b1 := selBush w
      let b2 := selBush2 w
      let d1 := (c.x.decl b1).getD default
      let d2 := (c.x.decl b2).getD default
      let g1 := if selClear w then {} else c.x.workGroup b1
      let g2 := if selSpill w && selClear2 w then {} else c.x.workGroup b2
      let done := c.cyc + occ + 16
      let runs := blockRuns r.f r.sh
      let ue := if c.skip then [] else c.ue runs (c.cyc + occupancy r.sh 2 + 64)
      let base : Effect :=
        { units := [(.selector, c.cyc + occ)], complete := done, entry := c.blockEntry gr, late := ue }
      if c.skip then
        let h := { g1 with rowNext := min 65536 (g1.rowNext + r.sh.rows) }
        let gs := (b1, h) :: (if selSpill w && selClear2 w then [(b2, g2)] else [])
        { base with work := gs, landing := { groups := gs } }
      else
        let out := selectFill d1 d2 g1 g2 k (selSpill w) (selScores c r)
        let gs := (b1, out.g1) :: (if selSpill w then [(b2, out.g2)] else [])
        let w1 := out.g1 != c.x.workGroup b1 || !out.placed1.isEmpty
        let w2 := selSpill w && (out.g2 != c.x.workGroup b2 || !out.placed2.isEmpty)
        let ws := blockWrites gr.f gr.sh (gateBlock out.gate k r.sh.rows)
          ++ (if w1 then groupWrites d1 out.g1 out.placed1 else [])
          ++ (if w2 then groupWrites d2 out.g2 out.placed2 else [])
        { base with
          work := gs
          reads := runs
          writes := ws.map (fun v => (v.1 / 64, ceilDiv v.2.length 64))
          soft := c.softLines runs
          landing := if ue.isEmpty then
              { groups := gs, writes := ws, selChoices := out.choices, selDropped := out.dropped
                selRerouted := out.rerouted }
            else {} } }

def execMatmul (t : TileId) (s : State) : Host.Outcome State Fault Refusal := onTile matmulDef t .execute s
def execAccadd (t : TileId) (s : State) : Host.Outcome State Fault Refusal := onTile accaddDef t .execute s
def execVload (t : TileId) (s : State) : Host.Outcome State Fault Refusal := onTile vloadDef t .execute s
def execVstore (t : TileId) (s : State) : Host.Outcome State Fault Refusal := onTile vstoreDef t .execute s
def execVop (t : TileId) (s : State) : Host.Outcome State Fault Refusal := onTile vopDef t .execute s
def execTrans (t : TileId) (s : State) : Host.Outcome State Fault Refusal := onTile transDef t .execute s
def execSelect (t : TileId) (s : State) : Host.Outcome State Fault Refusal := onTile selectDef t .execute s

end Sys2Proof.Machine
end

