-- ==== Sys2Proof/Machine/Holds.lean ====
section
/-!
DEFINITION. Holds (R48 to R57): notices, the hold table, wall slack, and the thermal holds of a domain (R430).
-/
namespace Sys2Proof.Machine

/-- Reason codes of Table TIM-6. -/
def rPlannedFlit : Nat := 1
def rVDeadline : Nat := 2
def rLaneSwap : Nat := 3
def rHostRequest : Nat := 4
def rThermal : Nat := 5

/-- A hold notice (Table TIM-5). -/
structure Notice where
  target : Nat
  ext : Nat
  reason : Nat
  domain : BitVec 16
  origin : BitVec 24
  port : Nat
  serial : Nat
  issued : Nat
  deriving DecidableEq, Repr, Inhabited

/-- The 240 payload bytes of a notice. -/
def Notice.bytes (n : Notice) : Bytes :=
  leBytes 8 n.target ++ leBytes 1 n.ext ++ leBytes 1 n.reason ++ leBytes 2 n.domain.toNat
  ++ leBytes 3 n.origin.toNat ++ leBytes 1 n.port ++ leBytes 2 n.serial ++ leBytes 6 0 ++ leBytes 8 n.issued
  ++ leBytes 208 0

/-- Read a notice. -/
def Notice.parse (b : Bytes) : Notice :=
  { target := leAt b 0 8, ext := leAt b 8 1 % 16, reason := leAt b 9 1, domain := BitVec.ofNat 16 (leAt b 10 2)
    origin := BitVec.ofNat 24 (leAt b 12 3), port := leAt b 15 1 % 16, serial := leAt b 16 2, issued := leAt b 24 8 }

/-- The checks of R52 on a received notice: TARGET on the hold grid, no reserved field or code, DOMAIN of the
port. -/
def noticeGood (b : Bytes) (domain : BitVec 16) : Bool :=
  leAt b 0 8 % 320 == 0 && leAt b 8 1 < 16 && 1 ≤ leAt b 9 1 && leAt b 9 1 ≤ 5 && leAt b 15 1 < 16
  && leAt b 18 6 == 0 && allZero (sliceB b 32 208) && leAt b 10 2 == domain.toNat

/-- The HOLD flit of a notice. -/
def holdFlit (payload : Bytes) (domain : BitVec 16) : TxFlit :=
  { type := 2, vc := 0, sop := false, eop := false, domain, payload }

/-- Queue a HOLD flit on a port. -/
def queueHold (payload : Bytes) (m : Mod) (q : PortId) : Mod :=
  m.updPort q (fun x => { x with txHold := x.txHold ++ [holdFlit payload x.domain] })

/-- The recorded hold of a TARGET. -/
def Partition.hold (x : Partition) (target : Nat) : Option HoldEntry := x.holds.find? (fun h => h.target == target)

/-- Record a notice (R52): a new TARGET, or a higher extension of a recorded one. -/
def recordHold (n : Notice) (x : Partition) : Partition :=
  let e : HoldEntry := { target := n.target, ext := n.ext, reason := n.reason, origin := n.origin }
  match x.hold n.target with
  | none => { x with holds := insertBy (·.target) e x.holds }
  | some h =>
    if h.ext < n.ext then
      let x := { x with holds := x.holds.map (fun (g : HoldEntry) => if g.target = n.target then e else g) }
      match x.standing with
      | some s => if s.target = n.target then { x with tel := { x.tel with lastHold := some e } } else x
      | none => x
    else x

/-- Issue a notice from this module (R50, R51, R57): recorded, counted, and sent on every domain port. DESIGN CHOICE (log 125):
R51 does not say whether SERIAL counts the notice that carries it; it is the count before it, so the first has SERIAL 0. -/
def issueNotice (p : Part) (target ext reason port : Nat) (m : Mod) : Mod :=
  let x := m.part p
  let n : Notice := { target, ext, reason, domain := m.domainId p, origin := m.node, port,
                      serial := x.serial % 2 ^ 16, issued := x.ctr }
  let m := m.updPart p (fun x =>
    let x := recordHold n x
    { x with serial := (x.serial + 1) % 2 ^ 16
             tel := { x.tel with holdOrig := x.tel.holdOrig.set! (reason - 1) ((x.tel.holdOrig[reason - 1]!).add 1) } })
  (m.domainPorts p).foldl (queueHold n.bytes) m

/-- First hold-grid point, in rods, at least G ahead of a plan rod (R50). -/
def gridAhead (now g : Nat) : Nat := roundUp (now + g) 64

/-- The present plan rod. -/
def Partition.rod (x : Partition) : Nat := x.ctr / 5

/-- Wall rods for which the counter has stood at a recorded hold. -/
def rodsStood (x : Partition) (wall : Nat) (h : HoldEntry) : Nat :=
  match x.standing with
  | some s => if s.target = h.target then (wall - s.since) / 5 else 0
  | none => 0

/-- `wall_slack` of R48, as an integer number of rods. -/
def wallSlack (x : Partition) (wall deadline rem : Nat) : Int :=
  x.holds.foldl (fun (w : Int) h =>
    if h.target / 5 + rem ≤ deadline then
      w + ((h.ext + 1) * x.member.params.h : Nat) - (rodsStood x wall h : Nat)
    else w) ((deadline : Int) - (x.rod : Int) - (rem : Int))

/-- Θ of Table TIM-3. -/
def Params.theta (k : Params) : Nat := 2 * k.g + 128

/-- `choose_notice` of R49: TARGET and EXT, or nothing for HOLD_LIMIT. -/
def chooseNotice (x : Partition) (deadline rem : Nat) : Option (Nat × Nat) :=
  let t := gridAhead x.rod x.member.params.g
  if t + rem ≤ deadline then some (5 * t, 0)
  else
    match (x.holds.filter (fun h => h.target / 5 + rem ≤ deadline)).getLast? with
    | some h => if h.ext < 15 then some (h.target, h.ext + 1) else none
    | none => none

/-- Fault codes of holds (Table CHK-2). -/
def cHoldLimit : Nat := 0x0022
def cHoldLate : Nat := 0x0023

/-- A host or thermal notice, or one for a lane swap: a new hold at the first hold-grid point (R50). -/
def issueNow (p : Part) (reason port : Nat) (m : Mod) : Mod :=
  issueNotice p (5 * gridAhead (m.part p).rod (m.part p).member.params.g) 0 reason port m

/-- The next thermal target after a thermal hold at rod tprev, at step k (R430). -/
def thermalTarget (x : Partition) (tprev k : Nat) : Nat :=
  roundUp (max (tprev + ceilDiv (x.member.params.h * (4 - k)) k) (x.rod + x.member.params.g)) 64

/-- The first thermal notice of a domain in an emergency (R430). -/
def firstThermal (p : Part) (m : Mod) : Mod :=
  let t := gridAhead (m.part p).rod (m.part p).member.params.g
  let m := issueNow p rThermal 0xF m
  m.updPart p (fun x => { x with thermPrev := some t, thermNext := none })

end Sys2Proof.Machine
end

