-- ==== Sys2Proof/Machine/Domain.lean ====
section
/-!
DEFINITION. Job domains (R280 to R283): the descriptor and its checks, the graph of included links, planned
and unplanned routes (R289, R292), the start tree (R302), the timing parameters (R40, R41), the seal (R307),
and what the loss of a link does to a member (R300).
-/
namespace Sys2Proof.Machine

/-! ### The descriptor (Table FAB-2) -/

/-- Read a descriptor. -/
def DomainDesc.parse (b : Bytes) : DomainDesc :=
  let xw := leAt b 4 2
  let yw := leAt b 6 2
  let nlink := leAt b 8 4
  let lo := 128 + 8 * (xw * yw)
  { domain := BitVec.ofNat 16 (leAt b 0 2), fexp := leAt b 2 1, sealUse := leAt b 3 1 % 2 == 1, xw, yw
    root := leAt b 12 2, greq := leAt b 14 2, hreq := leAt b 16 4
    plan := BitVec.ofNat 256 (leAt b 32 32), sealDigest := BitVec.ofNat 256 (leAt b 64 32)
    members := (List.range (xw * yw)).map (fun m =>
      (BitVec.ofNat 24 (leAt b (128 + 8 * m) 3), BitVec.ofNat 8 (leAt b (131 + 8 * m) 1)))
    links := (List.range nlink).map (fun j =>
      let o := lo + 8 * j
      { nodeA := BitVec.ofNat 24 (leAt b o 3), portA := leAt b (o + 3) 1 % 16
        nodeB := BitVec.ofNat 24 (leAt b (o + 4) 3), portB := leAt b (o + 3) 1 / 16 })
    raw := b }

/-- Bytes of the descriptor that its own header gives. -/
def descLength (b : Bytes) : Nat := 128 + 8 * (leAt b 4 2 * leAt b 6 2) + 8 * leAt b 8 4

/-- No two members of a list are equal. -/
def noRepeat {α : Type} [BEq α] : List α → Bool
  | [] => true
  | a :: r => !r.contains a && noRepeat r

/-- Strictly rising in a key. -/
def rising (l : List Nat) : Bool := (l.zip (l.drop 1)).all (fun e => e.1 < e.2)

/-- Pairs of grid neighbours, lower member first (R282). -/
def DomainDesc.gridPairs (d : DomainDesc) : List (Nat × Nat) :=
  (List.range (d.xw * d.yw)).flatMap (fun m =>
    (if m % d.xw + 1 < d.xw then [(m, m + 1)] else [])
    ++ (if m + d.xw < d.xw * d.yw then [(m, m + d.xw)] else []))

/-- The members at the two ends of a link. -/
def DomainDesc.ends (d : DomainDesc) (r : LinkRec) : Option (Nat × Nat) :=
  match d.memberOf r.nodeA, d.memberOf r.nodeB with
  | some a, some b => some (a, b)
  | _, _ => none

/-- Every pair of grid neighbours has one of the links (R281, GRID_LINK of Table FAB-11). -/
def DomainDesc.gridLinked (d : DomainDesc) (ls : List LinkRec) : Bool :=
  d.gridPairs.all (fun p => ls.any (fun r => d.ends r == some (p.1, p.2) || d.ends r == some (p.2, p.1)))

/-- A header field of the descriptor is out of its range, or a reserved field is not zero (R281). -/
def descHeaderBad (b : Bytes) : Bool :=
  let xw := leAt b 4 2
  let yw := leAt b 6 2
  leAt b 0 2 == 0 || leAt b 0 2 == 0xFFFF || leAt b 2 1 < 8 || leAt b 2 1 > 16 || leAt b 3 1 > 1
  || xw == 0 || xw > 1024 || yw == 0 || yw > 1024 || xw * yw > 16384 || leAt b 8 4 > 65536
  || leAt b 12 2 ≥ xw * yw || !allZero (sliceB b 20 12)
  || (leAt b 3 1 == 0 && !allZero (sliceB b 64 32)) || !allZero (sliceB b 96 32)

/-- The checks of R281 on a whole descriptor. -/
def descBad (b : Bytes) : Bool :=
  descHeaderBad b || b.length != descLength b ||
  (let d := DomainDesc.parse b
   let nodes := d.members.map (·.1)
   let n := d.xw * d.yw
   let ends := d.links.flatMap (fun r => [(r.nodeA, r.portA), (r.nodeB, r.portB)])
   (List.range n).any (fun m => leAt b (132 + 8 * m) 4 != 0)
   || nodes.contains 0xFFFFFF#24 || !noRepeat nodes
   || (List.range d.links.length).any (fun j => leAt b (128 + 8 * n + 8 * j + 7) 1 != 0)
   || d.links.any (fun r =>
        decide (r.nodeB.toNat ≤ r.nodeA.toNat) || (d.ends r).isNone
        || !((d.members.find? (fun e => e.1 == r.nodeA)).any (fun e => e.2.getLsbD (r.portA / 2)))
        || !((d.members.find? (fun e => e.1 == r.nodeB)).any (fun e => e.2.getLsbD (r.portB / 2))))
   || !noRepeat ends
   || !rising (d.links.map (fun r => r.nodeA.toNat * 16 + r.portA))
   || !d.gridLinked d.links)

/-! ### The graph of included links -/

/-- A link of the graph: index, members and ports at its ends, calibrated latency in cycles. -/
structure Edge where
  j : Nat
  a : Nat
  pa : Nat
  b : Nat
  pb : Nat
  lat : Nat
  deriving DecidableEq, Repr, Inhabited

/-- The links that are not excluded. -/
def DomainDesc.edges (d : DomainDesc) (excl lat : List Nat) : List Edge :=
  d.links.zipIdx.filterMap (fun r =>
    if excl.contains r.2 then none
    else
      match d.ends r.1 with
      | some (a, b) => some { j := r.2, a, pa := r.1.portA, b, pb := r.1.portB, lat := lat.getD r.2 0 }
      | none => none)

/-- The edges at member m, turned so that m is their first end. -/
def edgesAt (es : List Edge) (m : Nat) : List Edge :=
  es.filterMap (fun e =>
    if e.a = m then some e
    else if e.b = m then some { e with a := e.b, pa := e.pb, b := e.a, pb := e.pa }
    else none)

/-- A distance no member has. -/
def far : Nat := 2 ^ 32

/-- One round of distances: each member takes one more than its nearest neighbour where that is less. -/
def relax (es : List Edge) (ds : List Nat) : List Nat :=
  ds.mapIdx (fun m x => (edgesAt es m).foldl (fun x e => min x (ds.getD e.b far + 1)) x)

/-- Hop counts from every one of n members to member b (`dist` of R289). -/
def distTo (es : List Edge) (n b : Nat) : List Nat :=
  (List.range n).foldl (fun ds _ => relax es ds) ((List.range n).map (fun m => if m = b then 0 else far))

/-- `planned_route` of R289: the edges taken from a to b, each turned in the direction of travel. -/
def routeGo (es : List Edge) (ds : List Nat) : Nat → Nat → Nat → List Edge
  | 0, _, _ => []
  | k + 1, m, b =>
    if m = b then []
    else
      let cands := (edgesAt es m).filter (fun e => ds.getD e.b far + 1 == ds.getD m far)
      match sortBy (fun e => e.lat * 2 ^ 24 + e.b * 2 ^ 8 + e.pa) cands with
      | [] => []
      | e :: _ => e :: routeGo es ds k e.b b

def plannedRoute (es : List Edge) (n a b : Nat) : List Edge := routeGo es (distTo es n b) n a b

/-- A latency in rods, rounded up (R40). -/
def hopRods (lat : Nat) : Nat := ceilDiv lat 5

/-- The cycles of a route: its latencies and 10 cycles of forwarding at each intermediate member (R40). -/
def routeCycles (r : List Edge) : Nat := (r.map (·.lat)).foldl (· + ·) 0 + 10 * (r.length - 1)

/-! ### The start tree (R302) -/

/-- Depth, parent and tree edge of member m: the edge from the parent, turned toward m. -/
def treeEdge (es : List Edge) (ds : List Nat) (m : Nat) : Option Edge :=
  let ups := (edgesAt es m).filter (fun e => ds.getD e.b far + 1 == ds.getD m far)
  match sortBy (fun e => e.b * 2 ^ 8 + e.pb) ups with
  | [] => none
  | e :: _ => some e

/-- The tree children of a member: index and own port. -/
def treeChildren (es : List Edge) (ds : List Nat) (n m : Nat) : List (Nat × Nat) :=
  (List.range n).filterMap (fun c =>
    match treeEdge es ds c with
    | some e => if e.b = m then some (c, e.pb) else none
    | none => none)

/-- Depth of the tree. -/
def treeDepth (ds : List Nat) : Nat := maxL 0 (ds.filter (· < far))

/-! ### Escape direction and minimal sets (R292) -/

/-- The grid neighbour in the escape direction toward member t: X first, then Y. -/
def escapeNext (d : DomainDesc) (m t : Nat) : Nat :=
  let x := m % d.xw
  let tx := t % d.xw
  if x < tx then m + 1
  else if tx < x then m - 1
  else if m / d.xw < t / d.xw then m + d.xw
  else m - d.xw

/-- The links that unplanned traffic of a member may use: included and not dropped by a route change. -/
def Member.edges (mb : Member) (extra : List Nat) : List Edge :=
  match mb.desc with
  | some d => d.edges (mb.excl ++ mb.dropped ++ extra) mb.latency
  | none => []

/-- A port is in ACTIVE or NARROW. -/
def Port.carries (x : Port) : Bool := x.st == .active || x.st == .narrow

/-- Index of the partition's member in its descriptor. -/
def Mod.memberIndex (m : Mod) (p : Part) : Option Nat :=
  match (m.part p).member.desc with
  | some d => d.memberOf m.node
  | none => none

/-- The escape port of a partition's member toward member t: the lowest port, in ACTIVE or NARROW, of the
included grid links to the neighbour in that direction. -/
def Mod.escapePort (m : Mod) (p : Part) (t : Nat) : Option Nat :=
  let mb := (m.part p).member
  match mb.desc, m.memberIndex p with
  | some d, some me =>
    let nx := escapeNext d me t
    minL (((edgesAt (mb.edges []) me).filter (fun e => e.b == nx && (m.port (toFin 16 e.pa)).carries)).map (·.pa))
  | _, _ => none

/-- The minimal set of a member toward member t (R292), ascending. -/
def Mod.minimalPorts (m : Mod) (p : Part) (t : Nat) : List Nat :=
  let mb := (m.part p).member
  match mb.desc, m.memberIndex p with
  | some d, some me =>
    let es := mb.edges []
    let ds := distTo es (d.xw * d.yw) t
    sortBy id (((edgesAt es me).filter (fun e => ds.getD e.b far + 1 == ds.getD me far)).map (·.pa))
  | _, _ => []

/-! ### The measured quantities and the timing parameters (R40, R41) -/

/-- P, Δ, h_max and r_max. -/
structure Measured where
  path : Nat
  diameter : Nat
  hmax : Nat
  rmax : Nat
  deriving DecidableEq, Repr, Inhabited

/-- Replay round trip of a hop latency h (R258). -/
def replayTrip (h : Nat) : Nat := 2 * h + 4

/-- Measure a domain of n members whose planned routes are rs. -/
def measure (es : List Edge) (n : Nat) (rs : List (List Edge)) : Measured :=
  { path := maxL 0 (rs.map (fun r => ceilDiv (routeCycles r) 5))
    diameter := maxL 0 ((List.range n).flatMap (fun b => (distTo es n b).filter (· < far)))
    hmax := maxL 0 (es.map (fun e => hopRods e.lat))
    rmax := maxL 0 (es.map (fun e => replayTrip (hopRods e.lat))) }

/-- The parameters of Table TIM-3, or nothing where a rule of it fails. -/
def timing (d : DomainDesc) (k : Measured) : Option Params :=
  let gmin := max (k.diameter * (k.hmax + 2) + k.rmax) 1
  let g := if d.greq = 0 then gmin else d.greq
  let s := 2 * g + 128 + 2 * k.rmax
  let dl := k.path + s
  let h := if d.hreq = 0 then dl else d.hreq
  if gmin ≤ g && g ≤ 16256 && dl ≤ 2 ^ d.fexp && 128 ≤ h && h ≤ 65536 then
    some { n := d.fexp, g, h, s, d := dl, pathLat := k.path }
  else none

/-- Connected: every member reaches the root. -/
def connected (es : List Edge) (n root : Nat) : Bool := (distTo es n root).all (· < far)

/-- The seal of R307: the descriptor with SEAL_USE and SEAL zero, bytes [4] and [39:24] of the COMMIT line, and
the latency table. -/
def sealOf (d : DomainDesc) (line : MgLine) (latency : List Nat) : BitVec 256 :=
  let b := d.raw
  let flags := leAt b 3 1 / 2 * 2
  let desc := b.take 3 ++ leBytes 1 flags ++ sliceB b 4 60 ++ leBytes 32 0 ++ b.drop 96
  Config.sha3d256 (desc ++ sliceB line.bytes 4 1 ++ sliceB line.bytes 24 16 ++ latency.flatMap (leBytes 2 ·))

/-- A retained seal becomes invalid (R308). -/
def dropSeal (p : Part) (m : Mod) : Mod :=
  m.updPart p (fun x => { x with member := { x.member with
    retained := x.member.retained.map (fun r => { r with valid := false }) } })

/-- The bay offset that a planned transfer writes in furlong f: half (f mod 2) of its bin receives (R44). -/
def SendPlan.offsetIn (e : SendPlan) (f : Nat) : Nat := e.offset + f % 2 * e.half

/-! ### The loss of an included link (R300) -/

def cPortLost : Nat := 0x0027

/-- A slot table of the member names a port. -/
def Schedule.usesPort (s : Schedule) (me q : Nat) : Bool :=
  s.furlongs.any (fun f => f.2.any (fun e => e.hops.any (fun h => h.1 == me && h.2.1 == q)))

/-- The slot tables of the domain of port q use its link, at this end or at the other, while its member is COMMITTED or
RUNNING. -/
def Mod.planUses (m : Mod) (p : Part) (q : PortId) : Bool :=
  let mb := (m.part p).member
  (mb.st == .committed || mb.st == .running) && m.isDomainPort p q
    && (match m.memberIndex p, mb.desc with
        | some me, some d => mb.sched.usesPort me q.val || (match d.linkAt m.node q.val with
            | some (_, far, r) => (d.memberOf far).any (fun k => mb.sched.usesPort k r)
            | none => false)
        | _, _ => false)

/-- Send a management message to every tree child. -/
def sendChildren (p : Part) (body : Bytes) (m : Mod) : Mod :=
  (m.part p).member.children.foldl (fun m c => sendMg (toFin 16 c.2) body m) m

/-- Put a message into the partition's own inbox. -/
def selfMg (p : Part) (body : Bytes) (m : Mod) : Mod :=
  m.updPart p (fun x => { x with member := { x.member with inbox := x.member.inbox ++ [body] } })

/-- Send a management message to the tree parent; the root sends it to itself. -/
def sendParent (p : Part) (body : Bytes) (m : Mod) : Mod :=
  match (m.part p).member.parentPort with
  | some q => sendMg (toFin 16 q) body m
  | none => selfMg p body m

/-- An included link of partition p at port q has left ACTIVE (R300): the domain fails where the slot tables, the
tree, the grid or the connection of the domain need it; else the route tables change, with FREEZE to the root. -/
def linkLost (p : Part) (q : PortId) (cause : Nat) (m : Mod) : Mod :=
  let mb := (m.part p).member
  match mb.desc, m.domainLink p q with
  | some d, some (j, _, _) =>
    if mb.st != .committed && mb.st != .running then m
    else if m.planUses p q then failNode p cPortLost cause q.val m
    else
      let es := mb.edges (j :: mb.dropPending)
      let tree := mb.parentPort == some q.val || mb.children.any (fun c => c.2 == q.val)
      let left := d.links.zipIdx.filterMap (fun r => if es.any (fun e => e.j == r.2) then some r.1 else none)
      if tree || !d.gridLinked left || !connected es (d.xw * d.yw) d.root then failNode p cPortLost 4 q.val m
      else
        let line : MgLine := { mtype := 6, attempt := mb.attempt, domain := d.domain, origin := m.node,
                               count := mb.freezeGen + 1 }
        let m := m.updPart p (fun x => { x with member := { x.member with dropPending := x.member.dropPending ++ [j] } })
        sendParent p line.bytes m
  | _, _ => m

end Sys2Proof.Machine
end

