-- ==== Sys2Proof/Machine/External.lean ====
section
/-!
DEFINITION. The V commands (R132 to R138, R163 to R165, R233, R234, R341): their issue, the end of their
external part, and their deadline.
-/
namespace Sys2Proof.Machine

/-! ### Issue -/

/-- Deadline of a V command as a plan cycle: the first cycle of furlong f + DLF (R134). -/
def vDeadline (c : Ctx) (dlf : Nat) : Nat := c.part.furStart (c.fur + dlf)

/-- DLF and XADDR of Table CMD-13. -/
def vDlf (w : CmdWord) : Nat := cb w 24 1
def vXaddr (w : CmdWord) : Nat := cb w 16 8

/-- The V entry of a command with its block. -/
def vEntry (c : Ctx) (dlf xaddr : Nat) (r : Res) : VEntry :=
  { index := c.index, iter0 := c.iter0, iter1 := c.iter1, op := cmdOp c.w, issue := c.cyc
    deadline := vDeadline c dlf, vhold := cmdVhold c.w, used := 0, skipped := c.skip, entered := false
    ext := .pending, first := r.f, rows := r.sh.rows, cols := r.sh.cols, stride := r.sh.stride, xaddr
    data := [], firkins := [], error := none, touch := [], push := none, sig := none }

/-- Bytes of the block of a reference. -/
def Res.bytes (r : Res) : Nat := 64 * r.sh.foot

/-- ADDR_WINDOW at issue of an access of n bytes at a of a window of the given size (R137). -/
def windowFault (size a n : Nat) : Option (Nat × Nat × Nat × Option Loc) :=
  if a + n > size then some (cAddrWindow, 0, a, none) else none

/-- Size in bytes of the CXL window, where it is registered. -/
def Partition.windowSize (x : Partition) : Option Nat := x.extents.map (fun e => extentPages e * pageBytes)

/-- The entry of a V command whose window is not set up: it fails at its deadline (R137). -/
def VEntry.unregistered (v : VEntry) : VEntry := { v with ext := .failed vUnregistered (v.xaddr / pageBytes * pageBytes) }

/-- CXL_READ takes effect at its issue (R234) and delivers at its deadline. -/
def cxlReadDef : OpDef :=
  { op := 0x18, carries := fun st => st = .access, isV := true
    refs := fun w => [cb w 12 4]
    effect := fun c =>
      let r := c.resolve (cb c.w 12 4)
      let v := vEntry c (vDlf c.w) (vXaddr c.w) r
      let e : Effect := { entry := c.blockEntry r, vent := some v }
      if c.skip then e
      else
        match c.part.extents with
        | none => { e with vent := some v.unregistered }
        | some es =>
          let v := match windowRead c.m c.p es v.xaddr r.bytes with
            | .ok bs => { v with data := bs }
            | .error f => { v with error := some f }
          { e with fault := windowFault (extentPages es * pageBytes) v.xaddr r.bytes, vent := some v } }

/-- The source read of a V write at its issue, on mesh out (R135), with its MEM_UE (Table MEM-3). -/
def vSource (c : Ctx) (r : Res) : Effect :=
  let occ := occupancy r.sh 16
  let runs := blockRuns r.f r.sh
  { units := [(.meshOut, c.cyc + occ)]
    reads := if c.skip then [] else runs
    soft := if c.skip then [] else c.softLines runs
    late := if c.skip then [] else c.ue runs (c.cyc + occ + 64)
    entry := c.blockEntry r }

/-- CXL_WRITE reads its block and takes effect at its issue (R233, R234), completing at its deadline. -/
def cxlWriteDef : OpDef :=
  { op := 0x19, carries := fun st => st = .access, isV := true
    units := fun _ _ => [.meshOut]
    refs := fun w => [cb w 12 4]
    effect := fun c =>
      let r := c.resolve (cb c.w 12 4)
      let e := vSource c r
      let v := { vEntry c (vDlf c.w) (vXaddr c.w) r with touch := e.reads }
      if c.skip then { e with vent := some v }
      else
        match c.part.extents with
        | none => { e with vent := some v.unregistered }
        | some es =>
          let bs := c.readBytes r
          let fault := windowFault (extentPages es * pageBytes) v.xaddr r.bytes
          if !e.late.isEmpty then { e with fault := fault, vent := some { v with barred := true } }
          else
            match windowMerge c.m c.p es v.xaddr bs with
            | .ok ws => { e with fault := fault, vent := some { v with data := bs }, tier := ws }
            | .error f => { e with fault := fault, vent := some { v with error := some f } } }

/-- Bytes of a stone record, and of a granule of a namespace (R335, R339). -/
def recordBytes : Nat := 67112960
def granuleBytes : Nat := 2 ^ 30

/-- A byte range of a namespace touches a page of a directory record (R341). -/
def touchesRecord (ns : Namespace) (a n : Nat) : Bool :=
  ns.dir.any (fun d => a < d.foff + recordBytes && d.foff < a + n)

/-- Read pages of a namespace outside stone records: each is decrypted and checked (R341). A page that the flash key has
never written holds no tag, and fails (R355). -/
def stageRead (ns : Namespace) (key : BitVec 256) (a n : Nat) : Except (Nat × Nat) Bytes :=
  let pages := (pagesOf a n).map (fun k =>
    let ct := ns.data.read (pageBytes * k) pageBytes
    let (tag, wc) := ns.spare.get (0, 0) k
    let iv := Config.flashIv k wc
    (k, if wc ≠ 0 && Config.gcmTag key iv [] ct == tag then some (Config.gcmDecrypt key iv [] ct) else none))
  match pages.find? (fun e => e.2.isNone) with
  | some e => .error (vTag, pageBytes * e.1)
  | none => .ok (sliceB (pages.flatMap (fun e => sliceB (e.2.getD []) 0 pageBytes)) (a % pageBytes) n)

/-- FLASH_STAGE (R132, R341). -/
def flashStageDef : OpDef :=
  { op := 0x1A, carries := fun st => st = .access, isV := true
    refs := fun w => [cb w 12 4]
    effect := fun c =>
      let r := c.resolve (cb c.w 12 4)
      let v := vEntry c (vDlf c.w) (vXaddr c.w) r
      let e : Effect := { entry := c.blockEntry r, vent := some v }
      if c.skip then e
      else
        match c.part.ns, c.part.keys.flashKey with
        | some ns, some key =>
          let fault := if touchesRecord ns v.xaddr r.bytes then some (cAddrWindow, 0, v.xaddr, none)
            else windowFault (ns.granules * granuleBytes) v.xaddr r.bytes
          let v := match stageRead ns key v.xaddr r.bytes with
            | .ok bs => { v with data := bs }
            | .error f => { v with error := some f }
          { e with fault := fault, vent := some v }
        | _, _ => { e with vent := some v.unregistered } }

/-- HOST_READ (R132). -/
def hostReadDef : OpDef :=
  { op := 0x1B, carries := fun st => st = .access, isV := true
    refs := fun w => [cb w 12 4]
    effect := fun c =>
      let r := c.resolve (cb c.w 12 4)
      let v := vEntry c (vDlf c.w) (vXaddr c.w) r
      let e : Effect := { entry := c.blockEntry r, vent := some v }
      if c.skip then e
      else
        match c.part.exwin with
        | some (_, size) => { e with fault := windowFault size v.xaddr r.bytes }
        | none => { e with vent := some v.unregistered } }

/-- HOST_WRITE (R132): the block is read at issue. -/
def hostWriteDef : OpDef :=
  { op := 0x1C, carries := fun st => st = .access, isV := true
    units := fun _ _ => [.meshOut]
    refs := fun w => [cb w 12 4]
    effect := fun c =>
      let r := c.resolve (cb c.w 12 4)
      let e := vSource c r
      let v := { vEntry c (vDlf c.w) (vXaddr c.w) r with touch := e.reads }
      if c.skip then { e with vent := some v }
      else
        match c.part.exwin with
        | some (_, size) =>
          { e with fault := windowFault size v.xaddr r.bytes
                   vent := some { v with data := c.readBytes r, barred := !e.late.isEmpty } }
        | none => { e with vent := some v.unregistered } }

/-- SEED_HW (R163). -/
def seedHwDef : OpDef :=
  { op := 0x1D, carries := fun st => st = .access, isV := true
    effect := fun c => { vent := some (vEntry c (vDlf c.w) 0 { f := 0, sh := { rows := 0, cols := 0, stride := 0 } }) } }

/-- The checks of one entry of CXL_GATHER, in order (R164). -/
def gatherFault (c : Ctx) (tref : Res) (j : Nat) : Option (Nat × Nat × Nat) :=
  if j ≥ pageLimit c.gen then some (cPageRange, 0, j)
  else if 8 * j + 8 > 64 * tref.sh.foot then some (cOperandRange, 4, j)
  else
    let e := pageEntry c tref j
    if !e.present then none
    else if e.reserved then some (cAddrWindow, 0, j)
    else
      match c.part.extents with
      | some es =>
        if e.tier && e.loc + ceilDiv (pageFlines c.w) 64 > extentPages es then some (cAddrWindow, 0, j) else none
      | none => none

/-- The tier firkins that move: position in the block in lines, window page, lines. -/
def gatherMoves (c : Ctx) (tref : Res) : List (Nat × Nat × Nat) :=
  (pageIdx c).zipIdx.filterMap (fun j =>
    let e := pageEntry c tref j.1
    if e.present && e.tier then some (j.2 * pageFlines c.w, e.loc, pageFlines c.w) else none)

/-- Read the firkins of a gather: their bytes one after another. -/
def gatherRead (m : Mod) (p : Part) (es : List (Nat × Nat × Nat)) (ks : List (Nat × Nat × Nat)) :
    Except (Nat × Nat) Bytes :=
  ks.foldl (fun a k =>
    match a with
    | .error f => .error f
    | .ok bs =>
      match windowRead m p es (pageBytes * k.2.1) (64 * k.2.2) with
      | .error f => .error f
      | .ok b => .ok (bs ++ b)) (.ok [])

/-- CXL_GATHER (R164). -/
def cxlGatherDef : OpDef :=
  { op := 0x1E, carries := fun st => st = .access, isV := true
    units := fun _ _ => [.meshIn]
    refs := fun w => [cb w 12 4, cb w 16 4]
    effect := fun c =>
      let r := c.resolve (cb c.w 12 4)
      let tref := c.resolve (cb c.w 16 4)
      let lines := if c.skip then [] else (pageIdx c).map (fun j => (pageLine tref j, 1))
      let late := pageLate c tref (gatherFault c tref)
      let v := { vEntry c (cb c.w 26 1) 0 r with touch := lines }
      let e : Effect := { units := [(.meshIn, c.cyc + 80)], entry := c.blockEntry r, reads := lines
                          soft := c.softLines lines
                          late := late, vent := some v }
      if c.skip || !late.isEmpty then e
      else
        let ks := gatherMoves c tref
        let v := { v with firkins := ks, xaddr := pageBytes * (ks.headD (0, 0, 0)).2.1 }
        match c.part.extents with
        | none => { e with vent := some (if ks.isEmpty then v else v.unregistered) }
        | some es =>
          match gatherRead c.m c.p es ks with
          | .ok bs => { e with vent := some { v with data := bs } }
          | .error f => { e with vent := some { v with error := some f } } }

def execCxlRead (t : TileId) (s : State) : Host.Outcome State Fault Refusal := onTile cxlReadDef t .access s
def execCxlWrite (t : TileId) (s : State) : Host.Outcome State Fault Refusal := onTile cxlWriteDef t .access s
def execFlashStage (t : TileId) (s : State) : Host.Outcome State Fault Refusal := onTile flashStageDef t .access s
def execHostRead (t : TileId) (s : State) : Host.Outcome State Fault Refusal := onTile hostReadDef t .access s
def execHostWrite (t : TileId) (s : State) : Host.Outcome State Fault Refusal := onTile hostWriteDef t .access s
def execSeedHw (t : TileId) (s : State) : Host.Outcome State Fault Refusal := onTile seedHwDef t .access s
def execCxlGather (t : TileId) (s : State) : Host.Outcome State Fault Refusal := onTile cxlGatherDef t .access s

/-! ### The end of the external part (R135, R137, R165) -/

/-- Update the first member of a list that satisfies a condition. -/
def updFirst {α : Type} (f : α → Bool) (g : α → α) : List α → List α
  | [] => []
  | a :: r => if f a then g a :: r else a :: updFirst f g r

/-- A V entry whose external part runs. -/
def VEntry.awaits (v : VEntry) (index : Nat) : Bool :=
  v.index == index && !v.skipped && !v.entered && !v.barred && (match v.ext with | .pending => true | _ => false)

/-- The outcomes that can end the external part of an opcode. -/
def outcomeFits (op : Nat) (o : ExtOutcome) : Bool :=
  match o with
  | .ok => true
  | .flashUe => op == 0x1A
  | .targetAbsent => op == 0x18 || op == 0x19 || op == 0x1E || op == 0x1B || op == 0x1C
  | .writeRejected => op == 0x19 || op == 0x1C
  | .entropyFailure => op == 0x1D

/-- Cause of V_DATA_ERROR of an outcome. -/
def outcomeCause : ExtOutcome → Nat
  | .ok => 0
  | .flashUe => vFlashUe
  | .targetAbsent => vAbsent
  | .writeRejected => vRejected
  | .entropyFailure => vEntropy

/-- A DMA range is met by a PCIe error, or the host link is down (R137, R360). -/
def Mod.dmaFails (m : Mod) (a n : Nat) : Bool :=
  !m.hostUp || m.hostBad.any (fun r => a < r.1 + r.2 && r.1 < a + n)

/-- Byte offset of the first page of bytes [a, a + n) of the exchange window at a base whose DMA fails. -/
def Mod.hostFault (m : Mod) (base a n : Nat) : Option Nat :=
  ((pagesOf a n).find? (fun k =>
    let lo := max a (pageBytes * k)
    m.dmaFails (base + lo) (min (a + n) (pageBytes * (k + 1)) - lo))).map (pageBytes * ·)

/-- The window bytes of an access: offset and length of each piece. -/
def VEntry.ranges (v : VEntry) : List (Nat × Nat) :=
  if v.op == 0x1E then v.firkins.map (fun k => (pageBytes * k.2.1, 64 * k.2.2))
  else [(v.xaddr, 64 * v.rows * v.cols)]

/-- The first page of an access whose device is absent or has failed (R231). -/
def VEntry.absent (v : VEntry) (m : Mod) (es : List (Nat × Nat × Nat)) : Option Nat :=
  ((v.ranges.flatMap (fun r => pagesOf r.1 r.2)).find? (fun k =>
    match locatePage es k with
    | some (q, _) => !(m.cxl.get q).good
    | none => true)).map (pageBytes * ·)

/-- What a device page holds after the target rejected its write is left open: free bytes. -/
def spoilPage (es : List (Nat × Nat × Nat)) (m : Mod) (k : Nat) : Mod :=
  match locatePage es k with
  | none => m
  | some (q, n) =>
    let d := m.cxl.get q
    let bs := (List.range pageBytes).map (Config.spoiledByte m.free)
    { m with cxl := m.cxl.set q.val { d with data := d.data.write (pageBytes * n) bs } q.isLt, free := m.free + 1 }

/-- How the external part of an entry ends, with what it does outside. DESIGN CHOICE (log 122): a HOST_WRITE of which some
page's DMA meets a PCIe error leaves host memory wholly unwritten; R137 is silent on the bytes before it. -/
def endExternal (v : VEntry) (p : Part) (out : ExtOutcome) (off : Nat) (m : Mod) : ExtState × Mod :=
  let x := m.part p
  match v.error with
  | some (c, o) => if out ≠ .ok && off ≤ o then (.failed (outcomeCause out) off, m) else (.failed c o, m)
  | none =>
    match out with
    | .ok =>
      match v.op with
      | 0x1A => (.done v.data, m)
      | 0x1B =>
        let base := (x.exwin.getD (0, 0)).1
        let n := 64 * v.rows * v.cols
        match m.hostFault base v.xaddr n with
        | some o => (.failed vAbsent o, m)
        | none => (.done (m.hostMem.read (base + v.xaddr) n), m)
      | 0x1C =>
        let base := (x.exwin.getD (0, 0)).1
        match m.hostFault base v.xaddr v.data.length with
        | some o => (.failed vAbsent o, m)
        | none => (.done [], { m with hostMem := m.hostMem.write (base + v.xaddr) v.data })
      | 0x1D =>
        let (n, m) := m.draw
        (.done (leBytes 32 (Config.random512 n).toNat), m)
      | _ =>
        match v.absent m (x.extents.getD []) with
        | some o => (.failed vAbsent o, m)
        | none => (.done v.data, m)
    | o =>
      let m := if o = .writeRejected && v.op == 0x19 then
          (pagesOf v.xaddr v.data.length).foldl (spoilPage (x.extents.getD [])) m
        else m
      (.failed (outcomeCause o) off, m)

/-- V_EXTERNAL_COMPLETE: the oldest held V command of the tile at the index whose external part runs. An
outcome that its opcode cannot have is no event. -/
def execVExternalComplete (t : TileId) (index : Nat) (out : ExtOutcome) (off : Nat) (s : State) :
    Host.Outcome State Fault Refusal :=
  match s.m.partOfTile t, (s.m.tile t).ventries.find? (·.awaits index) with
  | some p, some v =>
    if !outcomeFits v.op out then .next s
    else
      let (e, m) := endExternal v p out off s.m
      .next { s with m := m.updTile t (fun x =>
        { x with ventries := updFirst (·.awaits index) (fun v => { v with ext := e }) x.ventries }) }
  | _, _ => .next s

/-! ### The deadline (R134, R135, R137, R138) -/

/-- Fault codes of Table CHK-2 that V commands raise at a deadline. -/
def cVDeadline : Nat := 0x000B
def cVDataError : Nat := 0x000C

/-- A V command that reads into local store. -/
def isVRead (op : Nat) : Bool := op == 0x18 || op == 0x1A || op == 0x1B || op == 0x1E

/-- What a V read lands: the whole block, or the firkins of a gather (R164). -/
def VEntry.landing (v : VEntry) (bs : Bytes) : Landing :=
  let sh : Shape := { rows := v.rows, cols := v.cols, stride := v.stride }
  if v.op == 0x1E then
    let (ws, _) := v.firkins.foldl (fun (a : List (Nat × Bytes) × Nat) k =>
      (a.1 ++ partWrites v.first sh k.1 k.2.2 (bs.drop a.2), a.2 + 64 * k.2.2)) ([], 0)
    { writes := ws }
  else { writes := blockWrites v.first sh bs }

/-- A V read enters the mesh-in class at its deadline, behind any transfer already on it (R135). -/
def enterClass (p : Part) (t : TileId) (v : VEntry) (bs : Bytes) (m : Mod) : Mod :=
  let x := m.tile t
  let cyc := (m.part p).ctr
  let sh : Shape := { rows := v.rows, cols := v.cols, stride := v.stride }
  let start := max cyc x.units.meshIn
  let endc := start + occupancy sh 16
  let land := if v.skipped then {} else v.landing bs
  let writes := land.writes.map (fun w => (w.1 / 64, w.2.length / 64))
  let i : Inflight := { stream := .access, index := v.index, iter0 := v.iter0, iter1 := v.iter1, op := v.op,
                        issue := v.issue, complete := endc + 64, skipped := v.skipped, push := v.push, sig := v.sig
                        writes := writes, landing := land }
  let m := if (m.part p).debug then
      (x.races t [] writes).foldl (fun m r =>
        let first := x.inflight.any (fun j => j.loc t == r.1 && j.issue < v.issue)
        if first then reportHazard p cyc 1 r.1 (v.loc t) r.2 m else reportHazard p cyc 1 (v.loc t) r.1 r.2 m) m
    else m
  joinFlight p t i (m.updTile t (fun x =>
    { x with units := { x.units with meshIn := endc }
             ventries := updFirst (fun w => w.index == v.index && !w.entered) (fun w => { w with entered := true }) x.ventries }))

/-- Remove the oldest held entry of a command index that has, or has not, entered its class. -/
def dropEntry (t : TileId) (index : Nat) (entered : Bool) (m : Mod) : Mod :=
  m.updTile t (fun x => { x with ventries := removeFirst (fun v => v.index == index && v.entered == entered) x.ventries })

/-- A V command completes at its deadline: its entry is pushed, its flag signalled, its place freed. -/
def completeV (p : Part) (t : TileId) (v : VEntry) (m : Mod) : Mod :=
  let i : Inflight := { stream := .access, index := v.index, iter0 := v.iter0, iter1 := v.iter1, op := v.op,
                        issue := v.issue, complete := v.deadline, skipped := v.skipped, push := v.push, sig := v.sig }
  dropEntry t v.index false (completeAt p t i m)

/-- A V command at its deadline, in the present cycle. -/
def deadlineAt (p : Part) (t : TileId) (v : VEntry) (m : Mod) : Mod :=
  let cyc := (m.part p).ctr
  if v.skipped then
    if isVRead v.op then enterClass p t v [] m else completeV p t v m
  else
    match v.ext with
    | .pending =>
      raise p cyc cVDeadline 0 (some (v.loc t)) none ((m.part p).furlongOf v.deadline)
        (discardWrite p v.undo (dropEntry t v.index false m))
    | .failed c o => raise p cyc cVDataError c (some (v.loc t)) none o (dropEntry t v.index false m)
    | .done bs =>
      if isVRead v.op then enterClass p t v bs m
      else if v.op == 0x1D then
        let m := completeV p t v m
        m.updTile t (fun x => { x with atEnd := x.atEnd ++ [EndEffect.seed (BitVec.ofNat 256 (leNat bs)) (v.loc t)] })
      else completeV p t v m

/-- V_COMMAND_DEADLINE: the oldest held V command of the tile at the index that has not entered its class. -/
def execVCommandDeadline (t : TileId) (index : Nat) (s : State) : Host.Outcome State Fault Refusal :=
  match s.m.partOfTile t, (s.m.tile t).ventries.find? (fun v => v.index == index && !v.entered) with
  | some p, some v =>
    if !(s.m.part p).live || !(s.m.part p).reaches v.deadline then .next s
    else
      let m := advanceTo p v.deadline s.m
      if (m.part p).live then .next { s with m := deadlineAt p t v m } else .next { s with m := m }
  | _, _ => .next s

end Sys2Proof.Machine
end

