-- ==== Sys2Proof/Machine/Image.lean ====
section
/-!
DEFINITION. The plan image (R144, R145): header, section directory, and the state its sections give a tile.
-/
namespace Sys2Proof.Machine

/-- A section directory entry (R145). -/
structure Section where
  type : Nat
  tile : Nat
  reserved : Bool
  offset : Nat
  length : Nat
  deriving DecidableEq, Repr, Inhabited

def imgGen (b : Bytes) : Nat := leAt b 4 1
def imgRev (b : Bytes) : Nat := leAt b 5 1
def imgFeatures (b : Bytes) : Nat := leAt b 16 4
def imgBays (b : Bytes) : Nat := leAt b 20 1
def imgFexp (b : Bytes) : Nat := leAt b 21 1
def imgNsect (b : Bytes) : Nat := leAt b 22 2
def imgFurlongs (b : Bytes) : Nat := leAt b 24 8
def imgBuild (b : Bytes) : BitVec 64 := BitVec.ofNat 64 (leAt b 32 8)

/-- The section directory. -/
def imgSections (b : Bytes) : List Section :=
  (List.range (imgNsect b)).map (fun i =>
    let o := 64 + 16 * i
    { type := leAt b o 1, tile := leAt b (o + 1) 1, reserved := leAt b (o + 2) 2 != 0 || leAt b (o + 12) 4 != 0
      offset := leAt b (o + 4) 4, length := leAt b (o + 8) 4 })

/-- The section of a type that applies to tile index k: its own, else the shared one (R145). -/
def imgSection (b : Bytes) (type k : Nat) : Option Bytes :=
  let ss := (imgSections b).filter (fun s => s.type == type)
  match ss.find? (fun s => s.tile == k) with
  | some s => some (sliceB b s.offset s.length)
  | none => (ss.find? (fun s => s.tile == 0xFF)).map (fun s => sliceB b s.offset s.length)

/-- A run of bytes as words of n bytes each. -/
def words (n : Nat) : Nat → Bytes → List Nat
  | 0, _ => []
  | k + 1, bs => leNat (bs.take n) :: words n k (bs.drop n)

/-- A section as words of n bytes; no words where it is absent. -/
def sectionWords (b : Bytes) (type k n : Nat) : List Nat :=
  match imgSection b type k with
  | some s => words n (s.length / n) s
  | none => []

/-- The state of a tile at T0 (R73, R78, R105, R112, R120, R123, R127, R151, R201, R203, Table FJ3-3). -/
def imgTile (b : Bytes) (k : Nat) : Tile :=
  { codeA := (sectionWords b 0x01 k 32).map (BitVec.ofNat 256)
    codeX := (sectionWords b 0x02 k 32).map (BitVec.ofNat 256)
    shapes := (sectionWords b 0x03 k 8).map (BitVec.ofNat 64)
    flags := (sectionWords b 0x04 k 2).zipIdx.filterMap (fun e => if e.1 = 0 then none else some (e.2, e.1))
    bins := (sectionWords b 0x05 k 8).map (BitVec.ofNat 64)
    xfers := (sectionWords b 0x06 k 16).map (BitVec.ofNat 128)
    decls := (sectionWords b 0x07 k 32).map (BitVec.ofNat 256)
    seed := BitVec.ofNat 256 (leNat ((imgSection b 0x08 k).getD [])) }

/-- Every local-store line of the partition's logical tiles becomes zero (R220), its recorded errors go, and
the sections of the plan are loaded. -/
def loadTiles (p : Part) (img : Bytes) (m : Mod) : Mod :=
  let x := m.part p
  x.tiles.foldl (fun m t =>
    let k := m.physOf t
    let m := clearErrs (fun l => match l with | .localStore q _ => q == k | .hbm _ _ => false)
      { m with ls := m.ls.set k.val [] k.isLt }
    m.setTile t (imgTile img (x.tileIndex t))) m

end Sys2Proof.Machine
end

