-- ==== Sys2Proof/Machine/PlanTime.lean ====
section
/-!
DEFINITION. SEND (R124, R289, R290), the furlong boundary and the end of a plan (R44, R45, R297), the watchdog
(R446), the books (R452), and the rows of holds (R48, R53, R136, R430).
-/
namespace Sys2Proof.Machine

/-! ### The slot tables and SEND -/

/-- The furlong the load check evaluated in place of furlong f (R439): the latest stretch it skipped is undone first. -/
def Schedule.evaluated (s : Schedule) (f : Nat) : Nat :=
  s.skips.foldr (fun k g => if k.1 ≤ g && g < k.1 + k.2.1 then k.2.2.1 + (g - k.1) % k.2.2.2 else g) f

/-- The planned transfers of a furlong (R291, R439). -/
def Schedule.sends (s : Schedule) (f : Nat) : List SendPlan := (alGet s.furlongs (s.evaluated f)).getD []

/-- First cycle of a slot within its furlong (R249). -/
def slotCycle (q : Nat) : Nat := 5 * (q / 2) + 2 * (q % 2)

/-- The schedule entry of a SEND. -/
def sendPlan (c : Ctx) : Option SendPlan :=
  let k := c.part.tileIndex c.t
  let xfer := bitsN (cb c.w 16 2) 11 0
  (c.part.member.sched.sends c.fur).find? (fun e =>
    some e.member == c.m.memberIndex c.p && e.tile == k && e.xfer == xfer)

def cReleaseOverrun : Nat := 0x0005

/-- Bay offset of the local store of tile 0 of a bay, and the bytes of one local store (Table MEM-7). -/
def lsWindow : Nat := 0x8000000000
def lsBytes : Nat := 0x2000000

/-- The packet and flits of a planned transfer (R124, R285), with their slots on the first hop (R290). -/
def planFlits (c : Ctx) (e : SendPlan) (body : Bytes) : List PlannedFlit :=
  let dn := (c.part.member.desc.bind (fun d => d.members[e.dst]?)).map (·.1)
  let hdr := packetHeader (dn.getD 0xFFFFFF#24) e.dbay 1 (e.offsetIn c.fur) c.m.node (c.t.val / 8) (body.length / 64 - 1)
    (Config.plannedTag c.m.node e.xfer).toNat 0
  let base := c.part.furStart c.fur / 5
  ((packetFlits 0 (c.m.domainId c.p) hdr body).zip e.slots).map (fun f =>
    { slot := f.2, furlong := c.fur
      flit := { f.1 with planned := true, deadline := base + f.2 / 2 + c.part.member.params.d, rem := e.rem } })

/-- A cycle that no plan reaches: a SEND whose slots the load check has not assigned yet. -/
def unassigned : Nat := 2 ^ 63

/-- SEND (R123, R124): it must issue before the first cycle of its first slot; its flits leave in their slots,
and it completes at the end of its last assigned rod. A destination on the sending module is written over the
mesh at its completion. -/
def sendDef : OpDef :=
  { op := 0x14
    carries := fun st => st = .access
    refs := fun w => [cb w 12 4]
    effect := fun c =>
      let r := c.resolve (cb c.w 12 4)
      let runs := blockRuns r.f r.sh
      match sendPlan c with
      | none => { complete := unassigned, entry := c.blockEntry r }
      | some e =>
        let start := c.part.furStart c.fur
        let first := start + slotCycle (e.slots.headD 0)
        let last := start + 5 * (maxL 0 e.slots / 2) + 4
        let ue := if c.skip then [] else c.ue runs (start + e.readEnd)
        let base : Effect :=
          { complete := max c.cyc last, entry := c.blockEntry r, xfer := some e.xfer
            fault := if first ≤ c.cyc then some (cReleaseOverrun, 1, e.xfer, none) else none }
        if c.skip then base
        else
          let body := c.readBytes r
          let base := { base with
            reads := runs, soft := c.softLines runs, late := ue }
          if !ue.isEmpty then base
          else
            match e.hops with
            | [] =>
              let off := e.offsetIn c.fur - lsWindow
              { base with landing := { mesh := [(8 * e.dbay + off / lsBytes, off % lsBytes, body)] } }
            | (_, q, _) :: _ =>
              { base with sends := (planFlits c e body).map (fun f => (toFin 16 q, f))
                          landing := { sentOn := some (q % 16, c.fur, e.slots) } } }

def execSend (t : TileId) (s : State) : Host.Outcome State Fault Refusal := onTile sendDef t .access s

/-- The opcode of a command word (Tables CMD-4, FJ3-10). -/
def opDef (op : Nat) : Option OpDef :=
  [endDef, syncDef, repeatDef, psetDef, fsetDef, qpushDef, loadHbmDef, storeHbmDef, pageGatherDef, pageScatterDef,
   sendDef, releaseDef, cxlReadDef, cxlWriteDef, flashStageDef, hostReadDef, hostWriteDef, seedHwDef, cxlGatherDef,
   matmulDef, accaddDef, vloadDef, vstoreDef, vopDef, transDef, selectDef].find? (fun d => d.op == op)

/-! ### Completion -/

/-- What a command sees when its operation is done over the lines it has read (R85). -/
def redoCtx (p : Part) (t : TileId) (i : Inflight) (a : AtIssue) (m : Mod) : Ctx :=
  let x := m.tile t
  { m, p, t, st := i.stream, w := x.code i.stream i.index, index := i.index, iter0 := i.iter0, iter1 := i.iter1, n0 := a.n0
    cyc := i.issue, fur := a.fur, gen := (m.part p).gen.getD 2, skip := i.skipped, popA := a.popA, popB := a.popB
    seen := i.seen
    x := { x with vregs := a.vregs, sets := a.sets, seed := a.seed, groupsWork := a.work, groups := a.groups
                  released := a.released } }

/-- What a command lands: as settled at its issue, or, where it touched lines beside an unordered write, what its operation
gives over the lines as it saw them. -/
def finalLanding (p : Part) (t : TileId) (i : Inflight) (m : Mod) : Landing :=
  if i.seen.isEmpty then i.landing
  else
    match opDef i.op, i.inputs with
    | some d, some a => (d.effect (redoCtx p t i a m)).landing
    | _, _ => i.landing

/-- COMMAND_COMPLETE: the oldest command in flight of the stream at the index (R65, R70, R74). A V read that
completes frees its V entry (R133). -/
def execCommandComplete (t : TileId) (st : Stream) (index : Nat) (s : State) : Host.Outcome State Fault Refusal :=
  let pick : Inflight → Bool := fun i => i.stream == st && i.index == index
  match s.m.partOfTile t, (s.m.tile t).inflight.find? pick with
  | some p, some i =>
    if !(s.m.part p).live || !(s.m.part p).reaches i.complete then .next s
    else
      let m := advanceTo p i.complete s.m
      if !(m.part p).live then .next { s with m := m }
      else
        match (m.tile t).inflight.find? pick with
        | none => .next { s with m := m }
        | some i =>
          let m := completeWith p t i (finalLanding p t i m) m
          let m := m.updTile t (fun x => { x with inflight := removeFirst pick x.inflight })
          .next { s with m := if isVRead i.op then dropEntry t index true m else m }
  | _, _ => .next s

/-! ### Furlong boundary and plan end -/

/-- Bins of a tile whose valid half has not been released in the furlong (R45): none in furlong 0. -/
def unreleased (x : Tile) (f : Nat) : List Nat :=
  if f = 0 then [] else (List.range 64).filter (fun j => (x.bin j).isSome && !x.released.contains j)

/-- RELEASE_OVERRUN, cause NOT_RELEASED, of every unreleased half, at the last cycle c of the furlong (R441). -/
def raiseUnreleased (p : Part) (c : Nat) (m : Mod) : Mod :=
  let x := m.part p
  x.tiles.foldl (fun m t =>
    (unreleased (m.tile t) x.furlong).foldl (fun m j =>
      raise p c cReleaseOverrun 2 (some { tile := t.val, stream := .access, index := 0xFFFF, iter0 := 0, iter1 := 0 })
        none j m) m) m

/-- Index of the first SEND of a transfer in a tile's access stream; 0xFFFF where there is none. -/
def sendIndex (x : Tile) (xfer : Nat) : Nat :=
  (x.codeA.findIdx? (fun w => cmdOp w == 0x14 && bitsN (cb w 16 2) 11 0 == xfer)).getD 0xFFFF

/-- RELEASE_OVERRUN, cause SEND_LATE, of every planned send of the furlong that has not issued in it (R45), at its last cycle
c. A send that issues late faults at its issue. -/
def raiseUnsent (p : Part) (c : Nat) (m : Mod) : Mod :=
  let x := m.part p
  let mine := (x.member.sched.sends x.furlong).filter (fun e => some e.member == m.memberIndex p)
  mine.foldl (fun m e =>
    match x.tileAt e.tile with
    | none => m
    | some t =>
      if (m.tile t).sends.contains e.xfer then m
      else raise p c cReleaseOverrun 1
        (some { tile := t.val, stream := .access, index := sendIndex (m.tile t) e.xfer, iter0 := 0, iter1 := 0 }) none e.xfer m) m

/-- The hand-overs of the present furlong that were not made, at its last cycle c (R45). -/
def raiseOverruns (p : Part) (c : Nat) (m : Mod) : Mod := raiseUnsent p c (raiseUnreleased p c m)

/-- Let time pass over the last cycle of the present furlong, whose hand-overs are checked at its end (after the
releases of that cycle have taken effect), to the first cycle of the next. -/
def passFurlong (p : Part) (m : Mod) : Mod :=
  let x := m.part p
  let b := x.furStart (x.furlong + 1)
  if x.ctr ≥ b then allParts.foldl settleFaults (raiseOverruns p (b - 1) m)
  else
    let m := advanceTo p (b - 1) m
    if (m.part p).live then advance 1 (raiseOverruns p (b - 1) (settleTiles m)) else m

/-- FURLONG_BOUNDARY (R44, R45): the halves of every bin change roles and the slot tables advance. -/
def execFurlongBoundary (p : Part) (s : State) : Host.Outcome State Fault Refusal :=
  let x := s.m.part p
  let b := x.furStart (x.furlong + 1)
  if !x.live || b ≥ x.planEnd || !x.reaches b then .next s
  else
    let m := passFurlong p s.m
    if !(m.part p).live then .next { s with m := m }
    else
      let m := m.updPart p (fun x => { x with furlong := x.furlong + 1 })
      .next { s with m := (m.part p).tiles.foldl (fun m t => m.updTile t (fun y => { y with released := [], sends := [] })) m }

/-- PLAN_END (R297): the plan ends and the member enters TEARDOWN. -/
def execPlanEnd (p : Part) (s : State) : Host.Outcome State Fault Refusal :=
  let x := s.m.part p
  if !x.live || x.furlong + 1 < x.furlongs || !x.reaches x.planEnd then .next s
  else
    let m := passFurlong p s.m
    if !(m.part p).live then .next { s with m := m }
    else
      let m := stopPlan p m
      .next { s with m := m.updPart p (fun x =>
        { x with member := { x.member with st := .teardown, since := m.wall }, thermNext := none }) }

/-! ### T0 (R297, R38, R44, R73, R184, R220, R447, R484) -/

/-- Counters that clear at T0 (R484). -/
def PartTel.atT0 (t : PartTel) : PartTel :=
  { t with holdCount := {}, holdExt := {}, holdRods := {}, holdOrig := Vector.replicate 5 {}, lastHold := none,
           stepsRun := {}, stepsOff := {} }

def cT0Unready : Nat := 0x0035
def cAlignLost : Nat := 0x0026

/-- T0 of a ready member: RUNNING, both streams of every tile at index 0, furlong 0. The seal of the job and its
set-up are retained (R307). -/
def startPlan (p : Part) (m : Mod) : Mod :=
  let x := m.part p
  let img := (x.plans[x.slot]?).join.getD []
  let m := loadTiles p img m
  let m := m.updFunc (vfOf p) (fun f =>
    if x.chkReset then { f with chk := {} } else f)
  let chk := BitVec.ofNat 2 ((m.func (vfOf p)).chk.active.toNat % 4)
  m.updPart p (fun x =>
    { x with running := true, furlongs := imgFurlongs img, furlong := 0, dueFaults := []
             hazardLog := [], hazardCount := 0, hlogOvf := false, faultLog := [], faultCount := 0, flogOvf := false
             chk := chk, chkPending := false, chkReset := false, tel := x.tel.atT0
             member := { x.member with
               st := .running
               retained := some { sealDigest := x.member.sealDigest, params := x.member.params
                                  latency := x.member.latency, sched := x.member.sched, valid := true } } })

/-- T0_REACHED: the plan counter reaches T0. A member that is not ready fails; an emergency in force is taken as
entered at T0 (R430). -/
def execT0Reached (p : Part) (s : State) : Host.Outcome State Fault Refusal :=
  let x := s.m.part p
  if x.member.st != .committed || x.member.t0 < x.ctr || !x.reaches x.member.t0 then .next s
  else
    let m := advanceTo p x.member.t0 s.m
    if (m.part p).member.st != .committed then .next { s with m := m }
    else if !(m.part p).member.ready then .next { s with m := failOwn p cT0Unready m }
    else
      match (m.domainPorts p).find? (fun q => (m.port q).alignLost && m.planUses p q) with
      | some q => .next { s with m := failNode p cAlignLost 0 q.val m }
      | none =>
        let m := startPlan p m
        .next { s with m := if s.hub.power.thermStep > 0 then firstThermal p m else m }

/-! ### The watchdog (R446) -/

/-- What a stream of a dead tile awaits: none where it could still issue. -/
def streamAwaits (x : Tile) (st : Stream) (now : Nat) : Option Await :=
  let s := x.stream st
  if s.ended then some { code := 5, number := 0 }
  else
    match opDef (cmdOp (x.code st s.pc)) with
    | none => none
    | some d =>
      match readyAt d x st (x.code st s.pc) now with
      | .inr a => some a
      | .inl _ => none

/-- A drain is in progress while the matrix result write class is busy. -/
def draining (x : Tile) (now : Nat) : Bool := now < x.units.matWrite

/-- The dead state (R446): what the access stream and the execute stream await. -/
def deadState (x : Tile) (now : Nat) : Option (Await × Await) :=
  if !x.inflight.isEmpty || !x.ventries.isEmpty || draining x now || !x.atEnd.isEmpty || (x.acc.ended && x.exe.ended)
  then none
  else
    match streamAwaits x .access now, streamAwaits x .execute now with
    | some a, some e => some (a, e)
    | _, _ => none

/-- The location of a stream. -/
def streamLoc (t : TileId) (x : Tile) (st : Stream) : Loc :=
  let s := x.stream st
  { tile := t.val, stream := st, index := s.pc, iter0 := s.iters.1, iter1 := s.iters.2.1 }

def cDeadlock : Nat := 0x0010

/-- First cycle of a stream's stall. -/
def stallStart (s : StreamState) : Nat := s.stalledAt.getD s.nextIssue

/-- The stream that stalled first: the access stream on a tie. -/
def firstStalled (x : Tile) : Stream :=
  if x.acc.ended then .execute
  else if x.exe.ended then .access
  else if stallStart x.acc ≤ stallStart x.exe then .access else .execute

/-- The STREAM_DEADLOCK of a dead tile, raised in the present cycle. -/
def raiseDeadlock (p : Part) (t : TileId) (m : Mod) : Mod :=
  let x := m.tile t
  match deadState x (m.part p).ctr with
  | none => m
  | some (a, e) =>
    let (la, lb, oa, ob) := match firstStalled x with
      | .access => (Stream.access, Stream.execute, a, e)
      | .execute => (Stream.execute, Stream.access, e, a)
    let object := oa.code + oa.number * 2 ^ 8 + ob.code * 2 ^ 16 + ob.number * 2 ^ 24
    let m := m.updTile t (fun x => { x with deadRaised := true })
    raise p (m.part p).ctr cDeadlock 0 (some (streamLoc t x la)) (some (streamLoc t x lb)) object m

/-- STREAM_DEADLOCK: a tile in the dead state raises its fault at the last cycle of the furlong. -/
def execStreamDeadlock (t : TileId) (s : State) : Host.Outcome State Fault Refusal :=
  match s.m.partOfTile t with
  | none => .next s
  | some p =>
    let x := s.m.part p
    let c := x.furStart (x.furlong + 1) - 1
    if !x.live || (s.m.tile t).deadRaised || (deadState (s.m.tile t) x.ctr).isNone || !x.reaches c then .next s
    else
      let m := advanceTo p c s.m
      if (m.part p).live then .next { s with m := raiseDeadlock p t m } else .next { s with m := m }

/-! ### Conserved quantities (R451, R452) -/

def cBooks : Nat := 0x0014

/-- The books of Table CHK-7 that a port finds out of balance: credits beyond the buffer its partner has announced,
replay places other than the numbers not acknowledged, and ACK and NEXT out of order. -/
def Port.booksOut (x : Port) : List Nat :=
  let gap (a b : Nat) : Nat := (a + 4096 - b) % 4096
  let credits := (x.initRcvd.getD [256, 256, 256, 256, 256]).zip x.credits.toList |>.any (fun e => e.1 < e.2)
  (if credits then [1] else [])
  ++ (if x.replayBuf.length ≠ gap x.nextSeq x.ackTaken || 1024 < x.replayBuf.length then [2] else [])
  ++ (if 1024 < gap x.next x.ack then [3] else [])

/-- The books of Table CHK-7 that a tile finds out of balance: a half released twice or of no bin, more than 64 queue places,
more than 8 V entries, and a published bushel group that holds an entry twice. -/
def Tile.booksOut (x : Tile) : List Nat :=
  (if x.released.any (fun j => (x.bin j).isNone || x.released.count j ≠ 1) then [4] else [])
  ++ (if x.queues.toList.any (fun q => 64 < q.slots.length) then [5] else [])
  ++ (if 8 < x.ventries.length then [6] else [])
  ++ (if x.groups.any (fun g => decide (g.2.entries.map (·.1)).Nodup = false) then [7] else [])

/-- The page counts of a partition's tier slots do not sum to the pages of its window, with no write unacknowledged
(Table CHK-7). -/
def Partition.pagesOut (x : Partition) : Bool :=
  match x.extents with
  | none => false
  | some es => x.keys.pendingAck.isEmpty
      && (x.keys.tier.toList.map (fun t => (t.map (·.pages)).getD 0)).sum ≠ extentPages es

/-- The books of a partition that are out of balance, each with its port or tile (R452). -/
def Mod.booksOut (m : Mod) (p : Part) : List BookUpset :=
  let x := m.part p
  if !x.admitted then []
  else
    (allPorts.filter (fun q => m.partOfPort q == some p)).flatMap (fun q =>
      (m.port q).booksOut.map (fun k => { part := p, quantity := k, object := q.val }))
    ++ x.tiles.flatMap (fun t => (m.tile t).booksOut.map (fun k => { part := p, quantity := k, object := t.val }))
    ++ (if x.pagesOut then [{ part := p, quantity := 8, object := 0 }] else [])

/-- BOOKS_UNBALANCED for one book; for quantity 8 the re-encryption pass stops and PREV is kept. -/
def raiseBook (m : Mod) (u : BookUpset) : Mod :=
  let m := raise u.part (m.part u.part).ctr cBooks u.quantity none none u.object m
  if u.quantity = 8 then m.updPart u.part (fun x => { x with keys := { x.keys with rotation := none } }) else m

/-- BOOKS_CHECK: the module checks its books; one that a hardware fault has upset where the state does not show it is the
row's operand. -/
def execBooksCheck (upset : Option BookUpset) (s : State) : Host.Outcome State Fault Refusal :=
  let found := upset.toList.filter (fun u => (s.m.part u.part).admitted && decide (1 ≤ u.quantity) && decide (u.quantity ≤ 8))
  .next { s with m := (allParts.flatMap s.m.booksOut ++ found).foldl raiseBook s.m }

/-! ### Holds -/

/-- The watch of one planned flit (R48, R49, R252). -/
def watchFlit (p : Part) (q : PortId) (m : Mod) (f : TxFlit) : Mod :=
  let x := m.part p
  if !x.running || !f.planned then m
  else if wallSlack x m.wall f.deadline f.rem > (x.member.params.theta : Int) then m
  else
    match chooseNotice x f.deadline f.rem with
    | some (t, e) => issueNotice p t e rPlannedFlit q.val m
    | none => failNode p cHoldLimit 0 q.val m

/-- PLANNED_FLIT_WATCH: every planned flit of the port sent and not acknowledged, or displaced, in the present
rod. -/
def execPlannedFlitWatch (q : PortId) (s : State) : Host.Outcome State Fault Refusal :=
  match s.m.partOfPort q with
  | none => .next s
  | some p =>
    let x := s.m.port q
    let flits := x.replayBuf.map (·.flit) ++ x.displacedQ
    .next { s with m := flits.foldl (watchFlit p q) s.m }

/-- `v_hold_check` of R136 for one held V command; the domain's notices go out with ORIGIN_PORT 0xF. DESIGN CHOICE (log 124):
R136 gives no order among the V commands whose check falls in one rod; they are checked one after another, so a second one of
the same deadline sees the extension that the first has raised and keeps its own. -/
def vHoldCheck (p : Part) (t : TileId) (m : Mod) (i : Nat) : Mod :=
  match ((m.tile t).ventries[i]?) with
  | none => m
  | some v =>
    let x := m.part p
    let done := match v.ext with | .pending => false | _ => true
    if done || v.skipped || v.entered || v.vhold = 0 then m
    else
      let drod := v.deadline / 5
      let target := 5 * (drod - 64)
      let take (m : Mod) : Mod := m.updTile t (fun y =>
        let vs := y.ventries.set i { v with used := v.used + 1 }
        { y with ventries := vs })
      if v.used = 0 && x.rod + x.member.params.g + 64 = drod then
        issueNotice p target 0 rVDeadline 0xF (take m)
      else
        match x.hold target, x.standing with
        | some h, some st =>
          let left := (h.ext + 1) * x.member.params.h - rodsStood x m.wall h
          if st.target = target && left = x.member.params.g && v.used < v.vhold && h.ext < 15 then
            issueNotice p target (h.ext + 1) rVDeadline 0xF (take m)
          else m
        | _, _ => m

/-- The wall time at which the standing hold of a partition ends (R53). -/
def Partition.holdEndsAt (x : Partition) (st : Standing) : Nat :=
  let e := (x.hold st.target).map (·.ext)
  st.since + 5 * (e.getD 0 + 1) * x.member.params.h

/-- V_HOLD_CHECK at a rod: a plan rod, or, while the counter stands at a hold, the plan rod of the hold plus the
wall rods stood. -/
def execVHoldCheck (p : Part) (rod : Nat) (s : State) : Host.Outcome State Fault Refusal :=
  let x := s.m.part p
  let check (m : Mod) : Mod :=
    if !(m.part p).running then m
    else (m.part p).tiles.foldl (fun m t => (List.range (m.tile t).ventries.length).foldl (vHoldCheck p t) m) m
  match x.standing with
  | some st =>
    let w := st.since + 5 * (rod - st.target / 5)
    if !x.running || rod < st.target / 5 || w ≥ x.holdEndsAt st || w + 4 < s.m.wall then .next s
    else .next { s with m := check (advanceWall w s.m) }
  | none =>
    if !x.live || 5 * rod + 4 < x.ctr || !x.reaches (5 * rod) then .next s
    else .next { s with m := check (advanceTo p (5 * rod) s.m) }

/-- THERMAL_HOLD_NOTICE (R430): the notice of the next thermal target, in the plan rod G rods ahead of it, or at
once. -/
def execThermalHoldNotice (p : Part) (s : State) : Host.Outcome State Fault Refusal :=
  let x := s.m.part p
  match x.thermNext with
  | none => .next s
  | some t =>
    let c := 5 * (t - x.member.params.g)
    if !x.running || s.hub.power.thermStep = 0 || !(x.reaches c) then .next s
    else
      let m := advanceTo p c s.m
      if !(m.part p).running then .next { s with m := m }
      else
        let m := issueNotice p (5 * t) 0 rThermal 0xF m
        .next { s with m := m.updPart p (fun x => { x with thermPrev := some t, thermNext := none }) }

/-- HOLD_START (R53, R55): the counter stops at the first recorded TARGET ahead. -/
def execHoldStart (p : Part) (s : State) : Host.Outcome State Fault Refusal :=
  let x := s.m.part p
  if x.member.st != .committed && x.member.st != .running then .next s
  else if !x.counts then .next s
  else
    match x.nextHold with
    | none => .next s
    | some t =>
      let m := if x.live && t = x.furStart (x.furlong + 1) then passFurlong p s.m else advanceTo p t s.m
      let y := m.part p
      if !y.counts || y.ctr != t || (y.member.st != .committed && y.member.st != .running) then .next { s with m := m }
      else .next { s with m := m.updPart p (fun x =>
        { x with standing := some { target := t, since := m.wall }
                 tel := { x.tel with holdCount := x.tel.holdCount.add 1, lastHold := x.hold t } }) }

/-- HOLD_END (R53, R57, R430): the hold has stood (e + 1) × H rods; its entry goes, the counter resumes, and the
next thermal target follows a thermal hold. -/
def execHoldEnd (p : Part) (s : State) : Host.Outcome State Fault Refusal :=
  let x := s.m.part p
  match x.standing with
  | none => .next s
  | some st =>
    let m := advanceWall (x.holdEndsAt st) s.m
    let y := m.part p
    match y.standing with
    | none => .next { s with m := m }
    | some st =>
      let e := ((y.hold st.target).map (·.ext)).getD 0
      let k := s.hub.power.thermStep
      let y := { y with
        standing := none
        holds := y.holds.filter (fun h => h.target != st.target)
        tel := { y.tel with holdExt := y.tel.holdExt.add e, holdRods := y.tel.holdRods.add ((e + 1) * y.member.params.h) } }
      let y := match y.thermPrev with
        | some tp => if k > 0 && 5 * tp = st.target && y.running then { y with thermNext := some (thermalTarget y tp k) } else y
        | none => y
      .next { s with m := m.setPart p y }

end Sys2Proof.Machine
end

