-- ==== Sys2Proof/Machine/PlanCheck.lean ====
section
/-!
DEFINITION. What the loader refuses in a plan image as it stands (R101 to R126, R129 to R132, R140, R144 to R147,
R150 to R162, R202, R208 to R214): header, section directory, tables and command fields.
-/
namespace Sys2Proof.Machine

/-- A refusal of a plan (R377, PLAN_REFUSED): the rule broken, and the location it names. -/
structure PlanRefusal where
  rule : Nat
  tile : Nat := 0
  stream : Stream := .access
  index : Nat := 0
  nocmd : Bool := false
  bin : Nat := 0
  deriving DecidableEq, Repr, Inhabited

/-- RESULT of PLAN_REFUSED. -/
def PlanRefusal.result (r : PlanRefusal) : Nat :=
  let s := match r.stream with | .access => 0 | .execute => 1
  if r.nocmd then r.tile + 2 ^ 19 + r.bin * 2 ^ 20 + r.rule * 2 ^ 32
  else r.tile + s * 2 ^ 6 + r.index * 2 ^ 7 + r.rule * 2 ^ 32

/-- The rule of the first condition that holds. -/
def firstRule : List (Nat × Bool) → Option Nat
  | [] => none
  | (r, b) :: l => if b then some r else firstRule l

/-! ### Header and directory (R144 to R147) -/

/-- Feature bits (Table FJ3-5). -/
def fLowfmt : Nat := 0
def fMxfmt : Nat := 1
def fWide : Nat := 2
def fSelect : Nat := 3
def fLongctx : Nat := 4
def fSround : Nat := 5
def fCxlgather : Nat := 6

/-- Header rules of Table FJ3-2 apart from the generation, for an image of the length delivered. -/
def headerRefusal (b : Bytes) (len bays : Nat) : Option Nat :=
  firstRule [
    (144, leAt b 0 4 != 0x4C504A46),
    (146, if imgGen b = 2 then decide (2 < imgRev b) else imgRev b != 0),
    (144, leAt b 6 2 != 64),
    (144, leAt b 8 8 != len),
    (147, if imgGen b = 2 then imgFeatures b != 0 else decide (2 ^ 7 ≤ imgFeatures b)),
    (144, imgBays b != bays || imgBays b = 0 || imgBays b > 8),
    (144, imgFexp b < 8 || imgFexp b > 16),
    (144, imgNsect b = 0 || imgNsect b > 1024),
    (144, imgFurlongs b = 0 || imgFurlongs b > 2 ^ 40),
    (144, !allZero (sliceB b 40 24))]

/-- Size of a section of a type is as Table FJ3-3 gives. -/
def sectionSizeGood (type len : Nat) : Bool :=
  match type with
  | 0x01 | 0x02 => len % 32 == 0 && 1 ≤ len / 32 && len / 32 ≤ 4096
  | 0x03 => len == 2048
  | 0x04 => len == 128
  | 0x05 => len == 512
  | 0x06 => len % 16 == 0 && 1 ≤ len / 16 && len / 16 ≤ 4096
  | 0x07 => len == 1024
  | 0x08 => len == 32
  | _ => false

/-- No two byte ranges of a list overlap. -/
def rangesApart : List (Nat × Nat) → Bool
  | [] => true
  | (a, n) :: r => r.all (fun e => a + n ≤ e.1 || e.1 + e.2 ≤ a) && rangesApart r

/-- The section directory (R145, R147). -/
def directoryRefusal (b : Bytes) : Option Nat :=
  let ss := imgSections b
  let top := if imgGen b = 2 then 6 else 8
  firstRule [
    (145, ss.any (fun s => s.type = 0 || s.type > top || !sectionSizeGood s.type s.length || s.reserved
        || s.offset % 64 != 0 || s.offset + s.length > leAt b 8 8 || s.offset < 64 + 16 * imgNsect b
        || !(s.tile == 0xFF || s.tile < 8 * imgBays b))),
    (145, !rangesApart (ss.map (fun s => (s.offset, s.length)))),
    (145, !noRepeat (ss.map (fun s => (s.type, s.tile)))),
    (147, ss.any (fun s => s.type == 0x07 && !bitN (imgFeatures b) fSelect)),
    (147, ss.any (fun s => s.type == 0x08 && !bitN (imgFeatures b) fSround))]

/-! ### Tables of a tile (R105, R120, R123, R201, R202) -/

/-- A shape entry is refused (R105). -/
def shapeBad (e : BitVec 64) : Bool :=
  let s := Shape.of e
  fld e 15 13 != 0 || fld e 39 36 != 0 || fld e 63 60 != 0 || s.extent > 524288 || (s.stride < s.cols && s.rows > 1)

/-- A bin declaration is refused on its own (R120). -/
def binBad (e : BitVec 64) : Bool :=
  if e.getLsbD 63 then e.getLsbD 19 || fld e 62 38 != 0 || fld e 18 0 + 2 * (fld e 37 20 + 1) > 524288 else e != 0

/-- Lines of the declared bins, with their numbers: first line and count. -/
def Tile.binRanges (x : Tile) : List (Nat × Nat × Nat) :=
  (List.range 64).filterMap (fun j => (x.bin j).map (fun b => (j, b.1, 2 * b.2)))

/-- Fields of a transfer entry (Table CMD-18). -/
def xfX (e : BitVec 128) : Nat := fld e 15 0
def xfY (e : BitVec 128) : Nat := fld e 31 16
def xfTile (e : BitVec 128) : Nat := fld e 37 32
def xfBin (e : BitVec 128) : Nat := fld e 45 40
def xfOffset (e : BitVec 128) : Nat := fld e 81 64
def xfLines (e : BitVec 128) : Nat := fld e 107 96 + 1

/-- A transfer entry is refused (R123); the tiles are those of the image. -/
def xferBad (tiles : List Tile) (bays : Nat) (e : BitVec 128) : Bool :=
  fld e 39 38 != 0 || fld e 63 46 != 0 || fld e 95 82 != 0 || fld e 127 108 != 0 || xfTile e ≥ 8 * bays
  || (match (tiles.getD (xfTile e) {}).bin (xfBin e) with
      | some (_, half) => decide (xfOffset e + xfLines e > half)
      | none => true)

/-- Lines of the record region of a group (R203). -/
def GroupDecl.recordLines (g : GroupDecl) : Nat := 1 + ceilDiv g.size 8

/-- A group declaration is refused on its own (R201, R202). -/
def declBad (e : BitVec 256) : Bool :=
  if e.getLsbD 0 then
    let nb := fld e 27 16 + 1
    let cap := fld e 45 32 + 1
    fld e 15 3 != 0 || fld e 2 1 ≥ 2 || fld e 31 28 != 0 || fld e 63 46 != 0 || fld e 95 83 != 0 || fld e 127 115 != 0
    || fld e 159 148 != 0 || fld e 255 160 != 0 || fld e 147 128 > 524288 || nb * cap > 16384
    || fld e 82 64 + 1 + ceilDiv (nb * cap) 8 > 524288
  else e != 0

/-- Record regions of the declared groups: first line and count. -/
def Tile.recordRanges (x : Tile) : List (Nat × Nat) :=
  (List.range 32).filterMap (fun g => (x.decl g).map (fun d => (d.rline, d.recordLines)))

/-- The tables of tile index k are refused. -/
def tablesRefusal (tiles : List Tile) (bays k : Nat) : Option PlanRefusal :=
  let x := tiles.getD k {}
  let at_ (rule bin : Nat) : PlanRefusal := { rule, tile := k, nocmd := true, bin }
  if x.shapes.any shapeBad then some (at_ 105 0)
  else
    match (List.range 64).find? (fun j => binBad (x.bins.getD j 0)) with
    | some j => some (at_ 120 j)
    | none =>
      let bs := x.binRanges.map (fun e => e.2)
      if !rangesApart bs then some (at_ 120 0)
      else if x.xfers.any (xferBad tiles bays) then some (at_ 123 0)
      else if x.decls.any declBad || !rangesApart (x.recordRanges ++ bs) then some (at_ 202 0)
      else none

/-! ### Command fields (R101, R102, Tables CMD-1 to CMD-18, FJ3-7 to FJ3-9) -/

/-- The body bits that an opcode uses in a generation: low bit and width. Every other bit of bytes [31:12] must be
zero (R101). -/
def bodyFields (gen op : Nat) : List (Nat × Nat) :=
  let j3 := gen == 3
  match op with
  | 0x02 => [(96, 16), (112, 16)]
  | 0x03 => [(96, 8), (104, 6), (112, 6), (120, 5), (128, 16), (144, 32)]
  | 0x04 => [(96, 6), (112, 16)]
  | 0x05 => [(96, 64)]
  | 0x10 | 0x11 => [(96, 32), (128, 31), (160, 3), (164, 2), (168, 8)]
  | 0x12 | 0x13 => [(96, 32), (128, 32), (160, if j3 then 16 else 14), (176, 8), (184, if j3 then 4 else 1), (192, 16)]
  | 0x14 => [(96, 32), (128, 16)]
  | 0x15 => [(128, 6)]
  | 0x18 | 0x19 | 0x1A | 0x1B | 0x1C => [(96, 32), (128, 64), (192, 8)]
  | 0x1D => [(192, 8)]
  | 0x1E => [(96, 32), (128, 32), (160, 16), (176, 8), (184, 3), (192, 16), (208, 8)]
  | 0x20 => [(96, 96), (192, 11), (208, 8), (216, 8), (224, 8), (232, 8), (240, if j3 then 12 else 10)]
  | 0x21 => [(96, 32), (160, 32), (208, 8), (216, 8), (232, 7), (240, 12)]
  | 0x28 => [(96, 32), (128, 5), (136, 8)]
  | 0x29 => [(96, 32), (128, 5), (136, 8)] ++ (if j3 then [(144, 2)] else [])
  | 0x2A => [(96, 8), (104, 5), (112, 5), (120, 5), (128, 5), (136, 1), (160, 32)]
  | 0x30 => [(96, 8), (104, 5), (112, 5)]
  | 0x38 => [(96, 32), (128, 12), (144, 6), (152, 8), (160, 5), (167, 1), (168, 5), (175, 1), (176, 8), (192, 32)]
  | _ => []

/-- A body bit outside the fields is set. -/
def bodyReserved (gen : Nat) (w : CmdWord) : Bool :=
  let used := (bodyFields gen (cmdOp w)).foldl (fun a f => a ||| ((2 ^ f.2 - 1) * 2 ^ f.1)) 0
  (w.toNat / 2 ^ 96 * 2 ^ 96) &&& (2 ^ 256 - 1 - used) != 0

/-- Opcodes of a generation (R108, R166), V commands, and opcodes with no pushed entry. -/
def opcodeKnown (gen op : Nat) : Bool :=
  [0x00, 0x01, 0x02, 0x03, 0x04, 0x05, 0x10, 0x11, 0x12, 0x13, 0x14, 0x15, 0x18, 0x19, 0x1A, 0x1B, 0x1C, 0x20, 0x28,
   0x29, 0x2A, 0x30].contains op || (gen == 3 && [0x1D, 0x1E, 0x21, 0x38].contains op)
def opcodeV (op : Nat) : Bool := [0x18, 0x19, 0x1A, 0x1B, 0x1C, 0x1D, 0x1E].contains op
def opcodePushless (op : Nat) : Bool := [0x00, 0x02, 0x03, 0x04, 0x15, 0x1D, 0x2A, 0x30].contains op

/-- Header checks of a command (R66, R68, R101 to R103, R112, R114, R116, R128, R132). -/
def headRefusal (gen : Nat) (st : Stream) (w : CmdWord) : Option Nat :=
  let op := cmdOp w
  let carried := match opDef op with | some d => d.carries st | none => false
  let lowQ (k : Nat) : Bool := k < 12
  let popsOk (k : Option Nat) : Bool := match k, st with
    | none, _ => true
    | some k, .access => !lowQ k
    | some k, .execute => lowQ k
  let pushOk := match cmdPush w, st with
    | none, _ => true
    | some k, .access => lowQ k
    | some k, .execute => !lowQ k
  firstRule [
    (if gen = 3 then 166 else 108, !opcodeKnown gen op),
    (66, !carried),
    (132, cmdV w != opcodeV op),
    (102, cmdVhold w != 0 && !opcodeV op),
    (101, fld w 11 9 != 0 || fld w 31 25 != 0 || (!cmdPredEn w && fld w 23 16 != 0)
        || fld w 39 38 != 0 || fld w 55 54 != 0 || (cb w 5 1 = 0 && fld w 37 32 != 0) || (cb w 7 1 = 0 && fld w 53 48 != 0)
        || fld w 71 69 != 0 || fld w 79 77 != 0 || fld w 87 85 != 0
        || ((cmdPopA w).isNone && fld w 67 64 != 0) || ((cmdPopB w).isNone && fld w 75 72 != 0)
        || ((cmdPush w).isNone && (fld w 83 80 != 0 || (cmdAux w != 0 && op != 0x05)))),
    (101, bodyReserved gen w),
    (112, op == 0x00 && cmdPredEn w),
    (114, op == 0x01 && (cmdPush w).isSome && (cmdPopA w).isNone),
    (116, op == 0x05 && ((cmdPush w).isNone || cmdAux w != 0 || bitN (cb w 12 8) 19
        || bitsN (cb w 12 8) 39 20 = 0 || bitsN (cb w 12 8) 39 20 > 524288)),
    (103, opcodePushless op && (cmdPush w).isSome),
    (128, op == 0x20 && !ctlClose w && (cmdPush w).isSome),
    (103, op == 0x21 && !ctlClose w && (cmdPush w).isSome),
    (68, !popsOk (cmdPopA w) || !popsOk (cmdPopB w) || !pushOk)]

/-! ### References -/

/-- The references of a command, in ascending byte order, with whether it writes through them. -/
def cmdRefs (w : CmdWord) : List (Nat × Bool) :=
  match cmdOp w with
  | 0x03 => if cb w 12 1 = 1 then [(cb w 18 4, false)] else []
  | 0x10 | 0x18 | 0x1A | 0x1B => [(cb w 12 4, true)]
  | 0x11 | 0x14 | 0x19 | 0x1C | 0x28 => [(cb w 12 4, false)]
  | 0x12 | 0x1E => [(cb w 12 4, true), (cb w 16 4, false)]
  | 0x13 => [(cb w 12 4, false), (cb w 16 4, false)]
  | 0x20 => [(cb w 12 4, false), (cb w 16 4, false)] ++ (if ctlClose w then [(cb w 20 4, true)] else [])
  | 0x21 => [(cb w 12 4, false)] ++ (if ctlClose w then [(cb w 20 4, true)] else [])
  | 0x29 => [(cb w 12 4, true)]
  | 0x38 => [(cb w 12 4, false), (cb w 24 4, true)]
  | _ => []

/-- The checks of R104, R121, R159, R206 on one reference. -/
def refRefusal (gen feat : Nat) (x : Tile) (w : CmdWord) (r : Nat × Bool) : Option Nat :=
  let base := bitsN r.1 21 19
  firstRule [
    (104, base == 1 && (cmdPopA w).isNone),
    (104, base == 2 && (cmdPopB w).isNone),
    (104, base == 3 && (x.bin (bitsN r.1 18 13)).isNone),
    (121, base == 3 && r.2),
    (104, base ≥ 5 || (base == 4 && gen != 3)),
    (147, base == 4 && !bitN feat fSelect),
    (206, base == 4 && (x.decl (bitsN r.1 18 14)).isNone)]

/-- The first rule that a list of checks gives. -/
def firstSome {α β : Type} (f : α → Option β) : List α → Option β
  | [] => none
  | a :: r => match f a with
    | some b => some b
    | none => firstSome f r

/-- The shape of a reference. -/
def refShape (x : Tile) (r : Nat) : Shape := x.shape (bitsN r 29 22)

/-! ### Formats -/

/-- A format code's feature bit is clear in an FJ3 image. -/
def featureClear (gen feat code : Nat) : Bool :=
  gen == 3 && ((7 ≤ code && code ≤ 0xA && !bitN feat fLowfmt) || (0xB ≤ code && code ≤ 0xF && !bitN feat fMxfmt))

/-- Codes of A and B (Tables CMD-10, FJ3-6). -/
def operandCode (gen code : Nat) : Bool := (1 ≤ code && code ≤ 4) || (gen == 3 && 7 ≤ code && code ≤ 15)

/-- Row of Table TIL-4 of a code. -/
def rateRow (code : Nat) : Nat :=
  match code with
  | 0x4 => 2
  | 0x9 | 0xA | 0xF => 1
  | _ => 0

/-- An integer code of A or B. -/
def intCode (code : Nat) : Bool := code == 0x3 || code == 0xA

/-- A floating C format other than FP32: RMODE applies (R150). -/
def roundsC (code : Nat) : Bool := code == 1 || code == 2 || code == 4

/-- Checks of MATMUL (R87, R126, R128, R150, R153). -/
def matmulRefusal (gen feat : Nat) (x : Tile) (w : CmdWord) : Option Nat :=
  let a := ctlFa w
  let b := ctlFb w
  let c := ctlCfmt w
  let k := ctlK w
  let ints := intCode a || intCode b
  let rho32 := 32 * (if rateRow a = 1 then 2 else 1) * (if ctlSparse w then 2 else 1)
  let foot (o : Nat) : Nat := (refShape x (cb w o 4)).foot
  firstRule [
    (126, !operandCode gen a || !operandCode gen b || !([1, 2, 4, 5, 6].contains c || (gen == 3 && c == 0))),
    (147, featureClear gen feat a || featureClear gen feat b || (gen == 3 && c == 0 && !bitN feat fWide)),
    (126, intCode a != intCode b || (if ints then !(c == 6 || c == 0) else c == 6)),
    (153, ints && a != b),
    (87, rateRow a != rateRow b),
    (126, ints && ctlAnchor w != 0),
    (126, ctlSparse w && (a == 4 || b == 4)),
    (87, k % rho32 != 0),
    (125, !ctlClose w && cb w 20 4 != 0),
    (150, gen == 3 && (fld w 251 250 ≥ 2 || (fld w 251 250 = 1 && !(ctlClose w && roundsC c)))),
    (147, gen == 3 && fld w 251 250 = 1 && !bitN feat fSround),
    (126, foot 12 < operandLines a k k false
        || foot 16 < operandLines b k (if ctlSparse w then k / 2 else k) (ctlSparse w)
        || (ctlClose w && foot 20 < 1024 * resultSize w))]

/-- Checks of ACCADD (R126, R150, R156). -/
def accaddRefusal (feat : Nat) (x : Tile) (w : CmdWord) : Option Nat :=
  let c := ctlCfmt w
  firstRule [
    (147, !bitN feat fWide),
    (156, !(List.contains [0, 1, 2, 4, 5, 6] c)),
    (126, c == 6 && ctlAnchor w != 0),
    (156, !ctlClose w && cb w 20 4 != 0),
    (150, fld w 251 250 ≥ 2 || (fld w 251 250 = 1 && !(ctlClose w && roundsC c))),
    (147, fld w 251 250 = 1 && !bitN feat fSround),
    (156, (refShape x (cb w 12 4)).foot != ctlRows w * 64),
    (126, ctlClose w && (refShape x (cb w 20 4)).foot < 1024 * resultSize w)]

/-- Checks of VLOAD and VSTORE (R126, R129, R150, R154). -/
def vecRefusal (gen feat : Nat) (x : Tile) (w : CmdWord) : Option Nat :=
  let f := vecFmt w
  let rm := fld w 145 144
  firstRule [
    (154, gen == 3 && f == 0),
    (126, !((1 ≤ f && f ≤ 6) || (gen == 3 && 7 ≤ f && f ≤ 15))),
    (147, featureClear gen feat f),
    (129, (refShape x (cb w 12 4)).foot != vecLines f),
    (150, cmdOp w == 0x29 && gen == 3 && (rm ≥ 2 || (rm = 1 && (f == 3 || f == 5 || f == 6 || f == 0xA)))),
    (147, cmdOp w == 0x29 && gen == 3 && rm = 1 && !bitN feat fSround)]

/-- Checks of SELECT (R158, R208, R211 to R214). -/
def selectRefusal (feat : Nat) (x : Tile) (w : CmdWord) : Option Nat :=
  let c := selC w
  let k := selK w
  let sh := refShape x (cb w 12 4)
  let gr := refShape x (cb w 24 4)
  let spill := cb w 22 1
  match x.decl (selBush w) with
  | none => if bitN feat fSelect then some 158 else some 147
  | some d1 =>
    let d2 := x.decl (selBush2 w)
    firstRule [
      (147, !bitN feat fSelect),
      (158, !(selFmt w == 4 || selFmt w == 5) || spill > 1 || k > c),
      (158, spill == 1 && (d2.isNone || selBush2 w == selBush w)),
      (208, sh.rows > 8192 || sh.cols != ceilDiv (c * (elemBits (selFmt w) / 8)) 64),
      (211, !d1.byRow && d1.nb < c),
      (212, spill == 1 && !(d2.any (fun d => !d.byRow && c ≤ d.nb))),
      (213, d1.byRow && (spill == 1 || d1.cap < k)),
      (214, gr.rows != sh.rows || gr.cols != ceilDiv k 8)]

/-- Checks of a paged transfer and of CXL_GATHER (R119, R161, R162, R164). -/
def pagedRefusal (gen feat : Nat) (x : Tile) (w : CmdWord) : Option Nat :=
  let op := cmdOp w
  let lines := pageNf w * pageFlines w
  let own := if op = 0x1E then 164 else 119
  firstRule [
    (147, op == 0x1E && !bitN feat fCxlgather),
    (147, gen == 3 && !bitN feat fLongctx && (fld w 175 174 != 0 || fld w 187 185 != 0)),
    (119, cb w 22 1 > 63),
    (own, pageFlines w = 0 || (refShape x (cb w 12 4)).foot != lines || (op == 0x1E && lines > 65536)),
    (119, bitN (cb w 23 1) 0 && (cmdPopB w).isNone),
    (163, op == 0x1E && cb w 26 1 = 0)]

/-- Checks of a V command of Table CMD-13 (R132, R163). -/
def vRefusal (feat : Nat) (x : Tile) (w : CmdWord) : Option Nat :=
  let op := cmdOp w
  firstRule [
    (147, op == 0x1D && !bitN feat fSround),
    (132, op != 0x1D && ((refShape x (cb w 12 4)).foot > 65536 || vXaddr w % (if op = 0x1A then 4096 else 64) != 0)),
    (if op = 0x1D then 163 else 132, vDlf w = 0)]

/-- Checks of PSET (R113, R160). -/
def psetRefusal (gen feat : Nat) (st : Stream) (x : Tile) (w : CmdWord) : Option Nat :=
  let mode := cb w 12 1
  firstRule [
    (113, mode = 0 || mode > (if gen = 3 then 6 else 5)),
    (113, mode == 3 && (cmdPopA w).isNone),
    (66, (mode == 5 || mode == 6) && st = .access),
    (147, mode == 6 && !bitN feat fSelect),
    (160, mode == 6 && (x.decl (fld w 116 112)).isNone)]

/-! ### Repeats (R109) -/

/-- The REPEATs of a program: index, LEN, COUNT. -/
def repeats (code : List CmdWord) : List (Nat × Nat × Nat) :=
  code.zipIdx.filterMap (fun e => if cmdOp e.1 = 0x02 then some (e.2, cb e.1 14 2, cb e.1 12 2) else none)

/-- The REPEATs whose bodies hold index i, innermost first. -/
def enclosing (rs : List (Nat × Nat × Nat)) (i : Nat) : List (Nat × Nat × Nat) :=
  (rs.filter (fun r => r.1 < i && i ≤ r.1 + r.2.1)).reverse

/-- Checks of the REPEAT at index i. -/
def repeatRefusal (rs : List (Nat × Nat × Nat)) (i : Nat) (w : CmdWord) : Option Nat :=
  let len := cb w 14 2
  let outer := enclosing rs i
  firstRule [
    (109, cb w 12 2 = 0 || len = 0 || len > 4095 || i + len > 4095),
    (109, outer.any (fun r => r.1 + r.2.1 < i + len)),
    (109, outer.length ≥ 4)]

/-! ### Blocks that overlap bins and record regions (R120, R202) -/

/-- Passes that STEP counts at index i: how many values the step takes. -/
def stepCount (rs : List (Nat × Nat × Nat)) (i step : Nat) : Nat :=
  let cs := (enclosing rs i).map (·.2.2)
  match step with
  | 1 => cs.getD 0 1
  | 2 => cs.getD 1 1
  | 3 => cs.getD 0 1 * cs.getD 1 1
  | _ => 1

/-- A block with BASE 0b000 touches lines [lo, lo + n) in some pass. -/
def blockTouches (x : Tile) (passes r lo n : Nat) : Bool :=
  let s := refShape x r
  let f := bitsN r 18 0
  let k := if f + s.extent > lo then 0 else (lo - f - s.extent) / s.foot + 1
  k < passes && f + k * s.foot < lo + n

/-- The overlaps of the references of a command. -/
def overlapRefusal (x : Tile) (rs : List (Nat × Nat × Nat)) (i : Nat) (w : CmdWord) : Option Nat :=
  let zero := (cmdRefs w).filter (fun r => bitsN r.1 21 19 = 0)
  let hits (r : Nat) (l : List (Nat × Nat)) : Bool :=
    l.any (fun e => blockTouches x (stepCount rs i (bitsN r 31 30)) r e.1 e.2)
  firstRule [
    (120, zero.any (fun r => hits r.1 (x.binRanges.map (·.2)))),
    (202, zero.any (fun r => r.2 && hits r.1 x.recordRanges))]

/-! ### One command -/

/-- What the opcode's own rules refuse. -/
def bodyRefusal (gen feat : Nat) (st : Stream) (x : Tile) (rs : List (Nat × Nat × Nat)) (i : Nat) (w : CmdWord) :
    Option Nat :=
  match cmdOp w with
  | 0x02 => repeatRefusal rs i w
  | 0x03 => psetRefusal gen feat st x w
  | 0x10 | 0x11 =>
    firstRule [(118, (x.shape (fld w 175 168)).foot != (refShape x (cb w 12 4)).foot)]
  | 0x12 | 0x13 | 0x1E => pagedRefusal gen feat x w
  | 0x14 =>
    match x.xfers[cb w 16 2]? with
    | none => some 123
    | some e => firstRule [(123, (refShape x (cb w 12 4)).foot != xfLines e)]
  | 0x18 | 0x19 | 0x1A | 0x1B | 0x1C | 0x1D => vRefusal feat x w
  | 0x20 => matmulRefusal gen feat x w
  | 0x21 => accaddRefusal feat x w
  | 0x28 | 0x29 => vecRefusal gen feat x w
  | 0x2A => firstRule [(130, !((1 ≤ cb w 12 1 && cb w 12 1 ≤ 0x16) || cb w 12 1 == 0x18))]
  | 0x30 => firstRule [(131, !(1 ≤ cb w 12 1 && cb w 12 1 ≤ 8))]
  | 0x38 => selectRefusal feat x w
  | _ => none

/-- The rule that refuses the command at index i of a stream, where one does. -/
def cmdRefusal (gen feat : Nat) (st : Stream) (x : Tile) (rs : List (Nat × Nat × Nat)) (i : Nat) (w : CmdWord) :
    Option Nat :=
  match headRefusal gen st w with
  | some r => some r
  | none =>
    match firstSome (refRefusal gen feat x w) (cmdRefs w) with
    | some r => some r
    | none =>
      match bodyRefusal gen feat st x rs i w with
      | some r => some r
      | none => overlapRefusal x rs i w

/-- The first refused command of a stream of tile index k. -/
def streamRefusal (gen feat k : Nat) (st : Stream) (x : Tile) : Option PlanRefusal :=
  let code := match st with | .access => x.codeA | .execute => x.codeX
  let rs := repeats code
  firstSome (fun (e : CmdWord × Nat) =>
    (cmdRefusal gen feat st x rs e.2 e.1).map (fun r => ({ rule := r, tile := k, stream := st, index := e.2 } : PlanRefusal)))
    code.zipIdx

/-- Everything the loader refuses in an image as it stands, apart from its generation. -/
def imageRefusal (b : Bytes) (len bays : Nat) : Option PlanRefusal :=
  match headerRefusal b len bays with
  | some r => some { rule := r }
  | none =>
    match directoryRefusal b with
    | some r => some { rule := r }
    | none =>
      let n := 8 * imgBays b
      let tiles := (List.range n).map (imgTile b)
      firstSome (fun k =>
        match tablesRefusal tiles (imgBays b) k with
        | some r => some r
        | none =>
          let x := tiles.getD k {}
          match streamRefusal (imgGen b) (imgFeatures b) k .access x with
          | some r => some r
          | none => streamRefusal (imgGen b) (imgFeatures b) k .execute x) (List.range n)

end Sys2Proof.Machine
end

