-- ==== Sys2Proof/Machine/LoadCheck.lean ====
section
/-!
DEFINITION. The loader's timing check (R42, R45, R46, R118, R123, R124, R133, R134, R136, R222 to R225, R290, R291, R439
to R442): the schedules of all tiles evaluated furlong by furlong, with the slot assignment of planned transfers, the
source reads of SENDs and the HBM slots.

The check runs the plan on scratch modules through the issue and completion of the tile commands, with data and
predication kept out: a command is taken as skipped, except a REPEAT, and an FSET or RELEASE whose PRED EN is 0.
-/
namespace Sys2Proof.Machine

/-! ### What the check is made against -/

/-- The members that the check evaluates together: the plan image, the stepping of each, where a transfer goes
(member, X, Y), its hops with the slots each lies behind and the nominal rods, the bay of a bay index of a member,
D, and G where it is known; the rules of which a condition ends the evaluation. -/
structure LoadNet where
  img : Bytes
  steps : List Nat
  dst : Nat → Nat → Nat → Nat
  route : Nat → Nat → List (Nat × Nat × Nat) × Nat
  bay : Nat → Nat → Nat
  d : Nat
  g : Option Nat
  desc : DomainDesc
  minds : Nat → Bool := fun _ => true

/-- A SEND of the furlong under evaluation. -/
structure Sent where
  member : Nat
  tile : Nat
  xfer : Nat
  index : Nat
  dst : Nat
  dtile : Nat
  bin : Nat
  first : Nat
  lines : Nat
  issue : Nat
  /-- Occupancy of the source read on mesh out, plan cycle at which it completes, and the ready rod within the furlong. -/
  occ : Nat
  readEnd : Nat
  ready : Nat
  hops : List (Nat × Nat × Nat)
  rem : Nat
  slots : Option (List Nat) := none
  deriving DecidableEq, Repr, Inhabited

/-- A line of a stack that a transfer reads or writes: member and bay index of the stack, pseudo-channel, and the first and
last plan rod in which it may be served. -/
structure HbmLine where
  member : Nat
  bay : Nat
  pc : Nat
  first : Nat
  last : Nat
  deriving DecidableEq, Repr, Inhabited

/-- The evaluation: a scratch module for each member (partition 0, bay k for bay index k), the SENDs of the furlong,
the slots they use, the spans for which other transfers hold the mesh-out class of each tile, the HBM lines of the furlong's
transfers, its paged transfers, the rods that lines are placed in, and the conditions met, with their cycles. -/
structure LoadSim where
  mods : List Mod
  f : Nat := 0
  sent : List Sent := []
  used : List (Nat × Nat × Nat) := []
  outs : List (Nat × Nat × Nat) := []
  hbm : List HbmLine := []
  paged : List (List Nat) := []
  served : List (Nat × List (Nat × Nat × Nat)) := [0, 256, 512].map (fun k => (k, []))
  fails : List (Nat × PlanRefusal) := []
  deriving Inhabited

/-- Bays of the image, cycles and rods of a furlong. -/
def LoadNet.bays (n : LoadNet) : Nat := imgBays n.img
def LoadNet.fur (n : LoadNet) : Nat := 5 * 2 ^ imgFexp n.img

/-- The partition of a scratch module. -/
def part0 : Part := 0

/-- The scratch module of member k with the slot tables given. -/
def LoadNet.scratch (n : LoadNet) (k stepping : Nat) (sched : Schedule) : Mod :=
  let node := ((n.desc.members[k]?).map (·.1)).getD 0
  let nt := 8 * n.bays
  let m : Mod := { stepping := stepping }
  let m := { m with tiles := Vector.ofFn (fun (i : Fin 64) => if i.val < nt then imgTile n.img i.val else {})
                    regs := { m.regs with node := node.extractLsb' 8 16, straps := node.extractLsb' 0 8 } }
  m.updPart part0 (fun x =>
    { x with admitted := true, bayMask := BitVec.ofNat 8 (2 ^ n.bays - 1), gen := some (imgGen n.img), ctrOn := true
             running := true, furlongs := imgFurlongs n.img
             member := { x.member with st := .running, desc := some n.desc, sched := sched
                                       params := { n := imgFexp n.img, d := n.d } } })

/-- Plan cycle of the evaluation. -/
def Mod.now (m : Mod) : Nat := (m.part part0).ctr

/-- Tiles of the image. -/
def LoadNet.tiles (n : LoadNet) : List TileId := allTiles.filter (fun t => t.val < 8 * n.bays)

/-! ### Conditions met (R440, R441) -/

/-- Rule of a fault that the evaluation meets. -/
def faultRule (r : FaultRec) : Nat :=
  match r.code with
  | 0x0003 => 121
  | 0x0004 => 122
  | 0x0005 => 45
  | 0x000A => if r.cause = 1 then 115 else 76
  | 0x000E => 79
  | _ => 106

/-- The refusal of a fault record. -/
def FaultRec.refusal (r : FaultRec) : Nat × PlanRefusal :=
  match r.locA with
  | some l => (r.cycle, { rule := faultRule r, tile := l.tile, stream := l.stream, index := l.index })
  | none => (r.cycle, { rule := faultRule r })

/-- The order of R441: cycle, tile, stream, index. -/
def failKey (e : Nat × PlanRefusal) : Nat :=
  let s := match e.2.stream with | .access => 0 | .execute => 1
  e.1 * 2 ^ 20 + e.2.tile * 2 ^ 14 + s * 2 ^ 13 + e.2.index

/-- The first condition in the order of R441. -/
def firstFail : List (Nat × PlanRefusal) → Option (Nat × PlanRefusal)
  | [] => none
  | e :: r =>
    match firstFail r with
    | none => some e
    | some e' => if failKey e ≤ failKey e' then some e else some e'

/-- A condition at the command that a stream is about to issue. -/
def failHere (m : Mod) (t : TileId) (st : Stream) (rule : Nat) : Nat × PlanRefusal :=
  (m.now, { rule, tile := t.val, stream := st, index := ((m.tile t).stream st).pc })

/-! ### One command -/

/-- A command of which R440 counts the conditions that predication can lift: its own PRED EN is 0, whatever REPEAT stands
around it. -/
def unpredicated (w : CmdWord) : Bool := !cmdPredEn w

/-- The context of the command that a stream is about to issue, as it would run. -/
def runCtx (m : Mod) (t : TileId) (st : Stream) (w : CmdWord) : Ctx :=
  let x := m.tile t
  let (i0, i1, n0) := (x.stream st).iters
  { m, p := part0, t, x, st, w, index := (x.stream st).pc, iter0 := i0, iter1 := i1, n0, cyc := m.now
    fur := (m.part part0).furlongOf m.now, gen := (m.part part0).gen.getD 2, skip := false, popA := 0, popB := 0 }

/-- The references with BASE 0b000 or 0b011 of a command as it would run, resolved. -/
def staticRefs (d : OpDef) (m : Mod) (t : TileId) (st : Stream) (w : CmdWord) : List Res :=
  let c := runCtx m t st w
  ((d.refs w).filter (fun r => bitsN r 21 19 = 0 || bitsN r 21 19 = 3)).map c.resolve

/-- The conditions of R106, R121 and R122 on them. -/
def staticFails (d : OpDef) (m : Mod) (t : TileId) (st : Stream) (w : CmdWord) : List (Nat × PlanRefusal) :=
  let x := m.tile t
  let rs := staticRefs d m t st w
  let own := match rs.findSome? (·.fault) with
    | some (code, _, _) => [failHere m t st (if code = cBinNotValid then 121 else 106)]
    | none => []
  let bins := rs.filterMap (·.bin)
  own ++ x.atEnd.filterMap (fun e =>
    match e with
    | .release b l => if bins.contains b then
        some (m.now, ({ rule := 122, tile := l.tile, stream := l.stream, index := l.index } : PlanRefusal)) else none
    | _ => none)

/-- Bytes of staging that the held V reads of a bay index hold (R133). -/
def stagingOf (m : Mod) (k : Nat) : Nat :=
  (((List.range 8).flatMap (fun i => (m.tile (toFin 64 (8 * k + i))).ventries)).map
    (fun v => if isVRead v.op then 64 * v.rows * v.cols else 0)).foldl (· + ·) 0

/-- The conditions of a V command: its deadline (R134), its check rod (R136), the staging of its bay (R133). -/
def vFails (n : LoadNet) (m : Mod) (t : TileId) (v : VEntry) (here : Nat → Nat × PlanRefusal) :
    List (Nat × PlanRefusal) :=
  let x := m.part part0
  (if v.deadline ≥ x.planEnd then [here 134] else [])
  ++ (match n.g with
      | some g => if v.vhold > 0 && v.deadline / 5 < g + 64 + v.issue / 5 then [here 136] else []
      | none => [])
  ++ (if isVRead v.op && stagingOf m (t.val / 8) > 2 ^ 23 then [here 133] else [])

/-- The first cycle from c on at which a span of occ cycles meets none of the given spans, within a number of tries. -/
def freeSpan (spans : List (Nat × Nat)) (occ : Nat) : Nat → Nat → Nat
  | 0, c => c
  | k + 1, c =>
    match spans.find? (fun e => e.1 < c + occ && c < e.2) with
    | some e => freeSpan spans occ k e.2
    | none => c

/-- The span in which the source of a SEND is read on mesh out. -/
def Sent.span (z : Sent) : Nat × Nat := (z.readEnd - 64 - z.occ, z.readEnd - 64)

/-- The spans for which the mesh-out class of a tile is taken: by other transfers, and by the reads of the SENDs given. -/
def LoadSim.outSpans (s : LoadSim) (tk : Nat) (zs : List Sent) : List (Nat × Nat) :=
  (s.outs.filter (fun e => e.1 == tk)).map (·.2) ++ (zs.filter (fun z => 64 * z.member + z.tile == tk)).map Sent.span

/-- Place the source read of a SEND in the first span from its issue on that is free (R124), with the ready rod it gives
(R290). -/
def placeRead (n : LoadNet) (s : LoadSim) (before : List Sent) (z : Sent) : Sent :=
  let spans := s.outSpans (64 * z.member + z.tile) before
  let done := freeSpan spans z.occ (spans.length + 1) z.issue + z.occ + 64
  { z with readEnd := done, ready := (done - n.fur * s.f) / 5 + 1 }

/-- Place the source reads of a tile that have no slots yet anew, in order of issue. -/
def placeReads (n : LoadNet) (tk : Nat) (s : LoadSim) : LoadSim :=
  { s with sent := s.sent.foldl (fun zs z =>
      zs ++ [if z.slots.isNone && 64 * z.member + z.tile == tk then placeRead n s zs z else z]) [] }

/-- A transfer of another kind takes the mesh-out class of a tile for a span. -/
def noteOut (n : LoadNet) (tk a b : Nat) (s : LoadSim) : LoadSim :=
  placeReads n tk { s with outs := s.outs ++ [(tk, a, b)] }

/-- A SEND that issues: its source read on mesh out (R124), its ready rod (R290), and the conditions of R46 and R123. -/
def noteSend (n : LoadNet) (k : Nat) (t : TileId) (w : CmdWord) (index occ cyc : Nat) (s : LoadSim) : LoadSim :=
  match s.mods[k]? with
  | none => s
  | some m =>
    let y := m.tile t
    let xfer := bitsN (cb w 16 2) 11 0
    let e := y.xfers.getD xfer 0
    let dst := n.dst k (xfX e) (xfY e)
    let (hops, rem) := n.route k dst
    let z : Sent := { member := k, tile := t.val, xfer, index, dst, dtile := xfTile e, bin := xfBin e
                      first := xfOffset e, lines := xfLines e, issue := cyc, occ, readEnd := 0, ready := 0, hops, rem }
    let meets (o : Sent) : Bool := o.dst == z.dst && o.dtile == z.dtile && o.bin == z.bin
      && z.first < o.first + o.lines && o.first < z.first + z.lines
    let here (rule tile index : Nat) : Nat × PlanRefusal := (cyc, { rule, tile, stream := .access, index })
    let clash := match s.sent.find? meets with
      | none => []
      | some o => if o.issue = cyc then [here 123 o.tile o.index] else [here 123 t.val index]
    { s with
      sent := s.sent ++ [placeRead n s s.sent z]
      fails := s.fails ++ (if s.f + 1 = imgFurlongs n.img then [here 46 t.val index] else [])
        ++ clash }

/-! ### The HBM accesses (R222 to R225) -/

/-- What a pseudo-channel of a stack serves in a rod (R223). -/
inductive SlotKind where
  | planned | refresh | reserved
  deriving DecidableEq, Repr, Inhabited

/-- `hbm_slot_kind` of R223: pseudo-channel p at plan cycle c of the partition that owns the bay. -/
def hbmSlotKind (p c : Nat) : SlotKind :=
  let u := c / 5
  if u % 768 / 24 = p then .refresh else if (u + p) % 64 = 63 then .reserved else .planned

/-- Cycles of a mesh transfer from its first mesh slot to its destination (R94). -/
def meshTime : Nat := 40

/-- Lines that a pseudo-channel serves in a rod (R222). -/
def pcLines : Nat := 4

/-- The rods in which a line of a transfer may be served, the first from T0 on and the last before the plan's end: a load's
line has crossed the mesh by the completion of its block, and a store's leaves no earlier than it can have crossed it (R83,
R94, R224). A load is taken up no more than a furlong before its own (log 16). -/
def LoadNet.lineWindow (n : LoadNet) (f : Nat) (load : Bool) (issue complete : Nat) : Nat × Nat :=
  if load then (n.fur * (f - 1) / 5, (complete - meshTime) / 5 - 1)
  else (ceilDiv (issue + meshTime) 5, n.fur * imgFurlongs n.img / 5 - 1)

/-- The lines of the stack that a LOAD_HBM or STORE_HBM of member k moves, as the load check places them. -/
def hbmLinesOf (k : Nat) (c : Ctx) (w : Nat × Nat) : List HbmLine :=
  let (_, f, sh) := hbmBlock c
  ((blockRuns f sh).flatMap (fun r => (List.range r.2).map (r.1 + ·))).map (fun l =>
    { member := k, bay := bitsN (cb c.w 16 8) 34 32, pc := l % 32, first := w.1, last := w.2 })

/-- A pseudo-channel of a stack can serve one more line in a rod, T0 being at a rod of the refresh cycle: the rod is planned
for it, and fewer than 4 lines stand in it. -/
def servable (phase : Nat) (served : List (Nat × Nat × Nat)) (z : HbmLine) (rod : Nat) : Bool :=
  hbmSlotKind z.pc (5 * (phase + rod)) == .planned
    && decide (served.countP (· == (8 * z.member + z.bay, z.pc, rod)) < pcLines)

/-- Place a line in the first rod of its window that can serve it: none where there is no such rod. -/
def placeLine (phase : Nat) (served : List (Nat × Nat × Nat)) (z : HbmLine) : Option (List (Nat × Nat × Nat)) :=
  ((List.range (z.last + 1 - z.first)).find? (fun d => servable phase served z (z.first + d))).map (fun d =>
    (8 * z.member + z.bay, z.pc, z.first + d) :: served)

/-- Place every line, the one with the earliest last rod first, which finds a placement where there is one. -/
def placeLines (phase : Nat) (served : List (Nat × Nat × Nat)) (zs : List HbmLine) : Option (List (Nat × Nat × Nat)) :=
  (sortBy HbmLine.last zs).foldl (fun a z => a.bind (fun s => placeLine phase s z)) (some served)

/-- The rods of the refresh cycle at which T0 can lie, a multiple of the furlong (R38), for which the lines of every furlong
so far have a placement, with it. -/
def placeAt (served : List (Nat × List (Nat × Nat × Nat))) (zs : List HbmLine) : List (Nat × List (Nat × Nat × Nat)) :=
  served.filterMap (fun e => (placeLines e.1 e.2 zs).map (fun s => (e.1, s)))

/-- Note the HBM accesses of a transfer that issues, predicated or not (R118, R224). -/
def noteHbm (n : LoadNet) (k op occ : Nat) (c : Ctx) (s : LoadSim) : LoadSim :=
  if op == 0x10 || op == 0x11 then
    { s with hbm := s.hbm ++ hbmLinesOf k c (n.lineWindow s.f (op == 0x10) c.cyc (c.cyc + occ + 64)) }
  else if op == 0x12 || op == 0x13 then { s with paged := s.paged ++ [[k, c.t.val, op, c.cyc - c.part.furStart s.f, occ]] }
  else s

/-- A stream with every open REPEAT taken as one that runs: R440 counts the conditions of a command by its own PRED EN. -/
def StreamState.openLoops (z : StreamState) : StreamState :=
  { z with loops := z.loops.map (fun l => { l with skipped := false }) }

/-- The issue of the command that a stream of member k comes to, in the present cycle. build: slots are being
assigned; else a SEND must find its slot. -/
def issueDry (n : LoadNet) (build : Bool) (k : Nat) (t : TileId) (st : Stream) (s : LoadSim) : LoadSim :=
  match s.mods[k]? with
  | none => s
  | some m =>
    let x := m.tile t
    let z := x.stream st
    let w := x.code st z.pc
    match opDef (cmdOp w) with
    | none => s
    | some d =>
      let en := unpredicated w
      let dry := !(!cmdPredEn w && (d.op == 0x02 || d.op == 0x04 || d.op == 0x15))
      let here (rule : Nat) : Nat × PlanRefusal := failHere m t st rule
      let static := if en then staticFails d m t st w else []
      let bins := if en then (staticRefs d m t st w).filterMap (·.bin) else []
      let m' := (doIssue d part0 t st dry m).updTile t (fun y => y.setStream st ((y.stream st).openLoops))
      let y := m'.tile t
      let m' := m'.setTile t { y with
        inflight := match y.inflight.getLast? with
          | some i => if y.inflight.length > x.inflight.length then y.inflight.dropLast ++ [{ i with bins := bins }]
                      else y.inflight
          | none => []
        ventries := match y.ventries.getLast? with
          | some v => if y.ventries.length > x.ventries.length then y.ventries.dropLast ++ [{ v with bins := bins }]
                      else y.ventries
          | none => [] }
      let v := if d.isV then
          match (m'.tile t).ventries.getLast? with
          | some v => vFails n m' t v here
          | none => []
        else []
      let lost := if d.op == 0x14 && !build && (y.inflight.getLast?).any (fun i => i.complete == unassigned)
        then [here 42] else []
      let s := { s with mods := s.mods.set k m', fails := s.fails ++ static ++ v ++ lost }
      let occ := occupancy (x.shape (bitsN (cb w 12 4) 29 22)) 16
      let s := if y.units.meshOut ≠ x.units.meshOut then noteOut n (64 * k + t.val) m.now y.units.meshOut s else s
      let s := if d.op == 0x14 && build then noteSend n k t w z.pc occ m.now s else s
      noteHbm n k d.op occ (runCtx m t st w) s

/-- A stream of a tile whose next command can issue in the present cycle issues it. -/
def tryIssue (n : LoadNet) (build : Bool) (k : Nat) (s : LoadSim) (e : TileId × Stream) : LoadSim :=
  match s.mods[k]? with
  | none => s
  | some m =>
    let x := m.tile e.1
    let z := x.stream e.2
    if z.ended || z.pc ≥ 4096 then s
    else
      match opDef (cmdOp (x.code e.2 z.pc)) with
      | none => s
      | some d =>
        match readyAt d x e.2 (x.code e.2 z.pc) m.now with
        | .inl c => if c = m.now then issueDry n build k e.1 e.2 s else s
        | .inr _ => s

/-! ### One cycle -/

/-- The deadlines and completions of a tile in the present cycle. -/
def dueDry (t : TileId) (m : Mod) : Mod :=
  let m := ((m.tile t).ventries.filter (fun v => !v.entered && v.deadline ≤ m.now)).foldl
    (fun m v => deadlineAt part0 t v m) m
  ((m.tile t).inflight.filter (fun i => i.complete ≤ m.now)).foldl (fun m i =>
    let m := completeAt part0 t i m
    let m := m.updTile t (fun x => { x with inflight := removeFirst (· == i) x.inflight })
    if isVRead i.op then dropEntry t i.index true m else m) m

/-- A cycle of member k: what falls due, then the issues, access stream first, then the end of the cycle. -/
def cycleDry (n : LoadNet) (build : Bool) (s : LoadSim) (k : Nat) : LoadSim :=
  match s.mods[k]? with
  | none => s
  | some m =>
    let m := n.tiles.foldl (fun m t => dueDry t m) m
    let s := { s with mods := s.mods.set k m }
    let s := (n.tiles.flatMap (fun t => [(t, Stream.access), (t, Stream.execute)])).foldl (tryIssue n build k) s
    match s.mods[k]? with
    | none => s
    | some m =>
      let m := bump 1 (settleTiles m)
      let due := (m.part part0).dueFaults
      let m := m.updPart part0 (fun x => { x with dueFaults := [] })
      { s with mods := s.mods.set k m, fails := s.fails ++ due.map FaultRec.refusal }

/-- The next cycle at or after the present one at which anything happens in a tile. -/
def tileNext (m : Mod) (t : TileId) : Option Nat :=
  let x := m.tile t
  let issue (st : Stream) : List Nat :=
    let z := x.stream st
    if z.ended || z.pc ≥ 4096 then []
    else
      match opDef (cmdOp (x.code st z.pc)) with
      | none => []
      | some d =>
        match readyAt d x st (x.code st z.pc) m.now with
        | .inl c => [c]
        | .inr _ => []
  minL (((x.inflight.map (·.complete)).filter (· != unassigned)
    ++ (x.ventries.filter (fun v => !v.entered)).map (·.deadline) ++ issue .access ++ issue .execute).map (max m.now))

/-- A tile dead before cycle c: the condition, with the first dead cycle (R446). -/
def deadBefore (m : Mod) (t : TileId) (c : Nat) : Option (Nat × PlanRefusal) :=
  let x := m.tile t
  let d := max m.now x.units.matWrite
  if d < c && (deadState x d).isSome then
    let st := firstStalled x
    some (d, { rule := 446, tile := t.val, stream := st, index := (x.stream st).pc })
  else none

/-! ### The slots of planned transfers (R290) -/

/-- The slots of a route are free for slot q on the first hop: none is a reserved slot (R249) and none is used. -/
def slotFree (used : List (Nat × Nat × Nat)) (hops : List (Nat × Nat × Nat)) (q : Nat) : Bool :=
  hops.all (fun h => (q + h.2.2) % 16 != 15 && !used.contains (h.1, h.2.1, q + h.2.2))

/-- The first free slot from q, within a number of tries. -/
def findSlot (used : List (Nat × Nat × Nat)) (hops : List (Nat × Nat × Nat)) : Nat → Nat → Nat
  | 0, q => q
  | k + 1, q => if slotFree used hops q then q else findSlot used hops k (q + 1)

/-- The slots of the flits of one transfer from q: slots on the first hop, or nothing where one lies beyond top
(`assign_slots` of R290). -/
def assignFlits (top : Nat) (hops : List (Nat × Nat × Nat)) :
    Nat → Nat → List (Nat × Nat × Nat) → Option (List Nat × List (Nat × Nat × Nat))
  | 0, _, used => some ([], used)
  | k + 1, q, used =>
    let q := findSlot used hops (top + 1 - q) q
    if q > top then none
    else
      match assignFlits top hops k (q + 1) (used ++ hops.map (fun h => (h.1, h.2.1, q + h.2.2))) with
      | none => none
      | some (qs, used) => some (q :: qs, used)

/-- Flits of a transfer (R124). -/
def sendFlits (lines : Nat) : Nat := ceilDiv (64 * lines + 16) 240

/-- The order of assignment: ready rod, source member, source tile, XFER. -/
def Sent.key (z : Sent) : Nat := ((z.ready * 2 ^ 15 + z.member) * 2 ^ 6 + z.tile) * 2 ^ 12 + z.xfer

/-- Assign the slots of one transfer; its SEND completes at the end of its last rod. One whose source read the mesh-out class
could place only past the send window is refused (R124). -/
def assignOne (n : LoadNet) (s : LoadSim) (z : Sent) : LoadSim :=
  let l := 2 ^ imgFexp n.img
  let base := n.fur * s.f
  let top := 2 * (l - n.d) - 1
  let full (rule : Nat) : LoadSim :=
    { s with fails := s.fails ++ [(base + 5 * z.ready, { rule, tile := z.tile, index := z.index })] }
  if l ≤ n.d then full 42
  else if z.issue + z.occ + 64 < z.readEnd && top < 2 * z.ready then full 124
  else
    match assignFlits top z.hops (sendFlits z.lines) (2 * z.ready) s.used with
    | none => full 42
    | some (qs, used) =>
      let last := base + 5 * (maxL 0 qs / 2) + 4
      let mods := match s.mods[z.member]? with
        | none => s.mods
        | some m => s.mods.set z.member (m.updTile (toFin 64 z.tile) (fun x =>
            { x with inflight := updFirst (fun i => i.op == 0x14 && i.index == z.index && i.complete == unassigned)
                                  (fun i => { i with complete := last }) x.inflight }))
      { s with mods := mods, used := used
               sent := s.sent.map (fun o => if o == z then { o with slots := some qs } else o) }

/-- Transfers without slots, in the order of assignment. -/
def LoadSim.waiting (s : LoadSim) : List Sent := sortBy Sent.key (s.sent.filter (·.slots.isNone))

/-- Assign every transfer whose ready rod has begun by cycle c: no later SEND can come before it in the order. -/
def assignDue (n : LoadNet) (c : Nat) (s : LoadSim) : LoadSim :=
  (s.waiting.filter (fun z => n.fur * s.f + 5 * z.ready ≤ c)).foldl (assignOne n) s

/-! ### One furlong -/

/-- Set the plan cycle of every member. -/
def LoadSim.goTo (s : LoadSim) (c : Nat) : LoadSim :=
  { s with mods := s.mods.map (fun m => m.updPart part0 (fun x => { x with ctr := max x.ctr c })) }

/-- Evaluate the furlong event by event up to cycle stop, or past the first condition met. -/
def furlongGo (n : LoadNet) (build : Bool) (stop : Nat) : Nat → LoadSim → LoadSim
  | 0, s => s
  | k + 1, s =>
    let acts := s.mods.flatMap (fun m => n.tiles.filterMap (tileNext m))
    let slots := (s.waiting.head?).map (fun z => n.fur * s.f + 5 * z.ready)
    let next := min stop ((minL (acts ++ slots.toList)).getD stop)
    let dead := s.mods.flatMap (fun m => n.tiles.filterMap (fun t => deadBefore m t next))
    let s := { s with fails := (s.fails ++ dead).filter (fun e => n.minds e.2.rule) }
    if next ≥ stop || s.fails.any (fun e => e.1 < next) then s
    else
      let s := assignDue n next (s.goTo next)
      furlongGo n build stop k ((List.range s.mods.length).foldl (cycleDry n build) s)

/-- The slot-table entries of a furlong's transfers. -/
def LoadSim.plans (n : LoadNet) (s : LoadSim) : List SendPlan :=
  s.sent.filterMap (fun z => z.slots.map (fun qs =>
    let (base, half) := (((s.mods[z.member]?).getD {}).tile (toFin 64 z.dtile)).bin z.bin |>.getD (0, 1)
    { member := z.member, tile := z.tile, xfer := z.xfer, dst := z.dst, dbay := n.bay z.dst (z.dtile / 8)
      offset := lsWindow + z.dtile % 8 * lsBytes + 64 * (base + z.first), half := 64 * half
      occ := z.occ, readEnd := z.readEnd - n.fur * s.f, slots := qs, hops := z.hops, rem := z.rem }))

/-- SENDs whose placed source read another transfer of the tile meets on mesh out, where the slot tables are given: the
class cannot meet the placement on this stepping (R124). -/
def readClashes (n : LoadNet) (s : LoadSim) : List (Nat × PlanRefusal) :=
  (List.range s.mods.length).flatMap (fun k =>
    match s.mods[k]? with
    | none => []
    | some m =>
      let x := m.part part0
      (x.member.sched.sends s.f).filterMap (fun e =>
        let me := (m.memberIndex part0).getD k
        let done := n.fur * s.f + e.readEnd - 64
        if e.member == me && (s.outSpans (64 * k + e.tile) []).any (fun o => o.1 < done && done < o.2 + e.occ) then
          some (done - e.occ, { rule := 124, tile := e.tile, index := sendIndex (m.tile (toFin 64 e.tile)) e.xfer })
        else none))

/-- `run_furlong` of R439: the furlong, then the release hand-over (R45) and the placements of R118 and R124. -/
def runFurlong (n : LoadNet) (build : Bool) (s : LoadSim) : LoadSim :=
  let start := n.fur * s.f
  let stop := n.fur * (s.f + 1)
  let s := { s with sent := [], used := [], hbm := [], paged := [], outs := s.outs.filter (fun e => start < e.2.2)
                    served := s.served.map (fun e => (e.1, e.2.filter (fun r => start ≤ 5 * r.2.2 + n.fur))) }
  let s := furlongGo n build stop (n.fur + 1) s
  let s := s.waiting.foldl (assignOne n) s
  let late := s.mods.flatMap (fun m => n.tiles.flatMap (fun t =>
    (unreleased (m.tile t) s.f).map (fun j =>
      (stop - 1, ({ rule := 45, tile := t.val, nocmd := true, bin := j } : PlanRefusal)))))
  let placed := placeAt s.served s.hbm
  let fits := !placed.isEmpty && (s.paged.isEmpty || Config.hbmPlacement s.paged)
  let place := if fits then [] else [(stop - 1, ({ rule := 118 } : PlanRefusal))]
  let s := { s with fails := (s.fails ++ late ++ place ++ (if build then [] else readClashes n s)).filter
                               (fun e => n.minds e.2.rule)
                    served := placed }
  let s := s.goTo stop
  { s with f := s.f + 1
           mods := s.mods.map (fun m => n.tiles.foldl (fun m t => m.updTile t (fun x => { x with released := [] })) m) }

/-! ### The key of a timing state (R439) -/

/-- A cycle taken relative to the boundary b: what lies before it no longer counts. -/
def relTo (b c : Nat) : Nat := c - b

/-- The same for the cycles of a queue, whose order decides visibility up to 64 entries on. -/
def relQ (b c : Nat) : Nat := c + 128 - b

/-- Place of a reservation in its queue. -/
def pushKey (x : Tile) (p : Option (Nat × Nat × BitVec 64)) : List Nat :=
  match p with
  | none => [0]
  | some (k, id, _) => [1, k, (x.queue k).slots.findIdx (fun s => s.id == id)]

def optPair (p : Option (Nat × Nat)) : List Nat :=
  match p with
  | none => [0]
  | some (a, b) => [1, a, b]

def streamKey (b : Nat) (s : StreamState) : List Nat :=
  [s.pc, if s.ended then 1 else 0, relTo b s.nextIssue, s.loops.length]
  ++ s.loops.flatMap (fun l => [l.first, l.len, l.count, if l.skipped then 1 else 0])

def queueKey (b : Nat) (q : Queue) : List Nat :=
  [q.slots.length, relQ b q.prevDone, relQ b q.prevVis]
  ++ q.slots.map (fun s => match s.entry with | none => 0 | some (_, d) => 1 + relQ b d)

def UnitFree.key (b : Nat) (u : UnitFree) : List Nat :=
  [u.matrix, u.matRead, u.matWrite, u.vecUnit, u.vecRead, u.vecWrite, u.trans, u.selector, u.meshIn, u.meshOut].map
    (relTo b)

def inflightKey (b : Nat) (x : Tile) (i : Inflight) : List Nat :=
  [(match i.stream with | .access => 0 | .execute => 1), i.index, i.op, relTo b i.complete, i.wreg.getD 99, i.acc.getD 99,
   i.bins.length] ++ i.bins ++ pushKey x i.push ++ optPair i.sig ++ optPair i.landing.fset

def ventryKey (b : Nat) (x : Tile) (v : VEntry) : List Nat :=
  [v.index, v.op, relTo b v.deadline, if v.entered then 1 else 0, v.rows, v.cols, v.stride, v.bins.length] ++ v.bins
  ++ pushKey x v.push ++ optPair v.sig

def Tile.timeKey (b : Nat) (x : Tile) : List Nat :=
  streamKey b x.acc ++ streamKey b x.exe ++ x.queues.toList.flatMap (queueKey b) ++ x.units.key b
  ++ [x.flags.length] ++ x.flags.flatMap (fun e => [e.1, e.2])
  ++ [x.inflight.length] ++ x.inflight.flatMap (inflightKey b x)
  ++ [x.ventries.length] ++ x.ventries.flatMap (ventryKey b x)

/-- The key of the whole evaluation, without pass numbers. -/
def LoadSim.key (n : LoadNet) (s : LoadSim) : List Nat :=
  s.mods.flatMap (fun m => n.tiles.flatMap (fun t => (m.tile t).timeKey (n.fur * s.f)))

/-- The open repeats of the evaluation: pass and COUNT. -/
def LoadSim.passes (n : LoadNet) (s : LoadSim) : List (Nat × Nat) :=
  s.mods.flatMap (fun m => n.tiles.flatMap (fun t =>
    ((m.tile t).acc.loops ++ (m.tile t).exe.loops).map (fun l => (l.pass, l.count))))

/-! ### The skip (R439) -/

/-- Take the passes given for the loops of a stream, and what is left of the list. -/
def takePasses : List Loop → List Nat → List Loop × List Nat
  | [], ps => ([], ps)
  | l :: r, ps =>
    let (r', ps') := takePasses r (ps.drop 1)
    ({ l with pass := ps.headD l.pass } :: r', ps')

/-- A tile with later passes, all its cycles later by k. -/
def Tile.shift (k : Nat) (x : Tile) (ps : List Nat) : Tile × List Nat :=
  let (la, ps) := takePasses x.acc.loops ps
  let (le, ps) := takePasses x.exe.loops ps
  let u := x.units
  ({ x with
     acc := { x.acc with loops := la, nextIssue := x.acc.nextIssue + k }
     exe := { x.exe with loops := le, nextIssue := x.exe.nextIssue + k }
     queues := x.queues.map (fun q => { q with
       prevDone := q.prevDone + k, prevVis := q.prevVis + k, popCycle := q.popCycle + k
       slots := q.slots.map (fun s => { s with entry := s.entry.map (fun e => (e.1, e.2 + k)) }) })
     units := { matrix := u.matrix + k, matRead := u.matRead + k, matWrite := u.matWrite + k, vecUnit := u.vecUnit + k
                vecRead := u.vecRead + k, vecWrite := u.vecWrite + k, trans := u.trans + k
                selector := u.selector + k, meshIn := u.meshIn + k, meshOut := u.meshOut + k }
     inflight := x.inflight.map (fun i => { i with issue := i.issue + k, complete := i.complete + k })
     ventries := x.ventries.map (fun v => { v with issue := v.issue + k, deadline := v.deadline + k }) }, ps)

/-- The evaluation df furlongs later, with the pass numbers given. -/
def LoadSim.skip (n : LoadNet) (df : Nat) (ps : List Nat) (s : LoadSim) : LoadSim :=
  let k := n.fur * df
  let (mods, _) := s.mods.foldl (fun (a : List Mod × List Nat) m =>
    let (m, ps) := n.tiles.foldl (fun (b : Mod × List Nat) t =>
      let (x, ps) := (b.1.tile t).shift k b.2
      (b.1.setTile t x, ps)) (m, a.2)
    (a.1 ++ [m.updPart part0 (fun x => { x with ctr := x.ctr + k })], ps)) ([], ps)
  { s with mods := mods, f := s.f + df, outs := s.outs.map (fun e => (e.1, e.2.1 + k, e.2.2 + k))
           served := s.served.map (fun e => (e.1, e.2.map (fun r => (r.1, r.2.1, r.2.2 + k / 5)))) }

/-- Periods that the skip passes over: m of `load_check`, given the passes before and now. -/
def skipCount (furlongs f d : Nat) (old now : List (Nat × Nat)) : Nat :=
  (old.zip now).foldl (fun m e =>
    let (p0, p, count) := (e.1.1, e.2.1, e.2.2)
    if p < p0 then 0
    else if p0 < p then min m ((count - 1 - p) / (p - p0))
    else m) ((furlongs - 1 - f) / d)

/-! ### The whole check -/

/-- What a pass over the plan gives: the slot tables, and the first condition met. -/
structure LoadResult where
  sched : Schedule := {}
  fail : Option (Nat × PlanRefusal) := none
  deriving Inhabited

/-- A key seen before: key, furlong class, furlong, passes. -/
abbrev Seen := List (List Nat × Nat × Nat × List (Nat × Nat))

/-- `load_check` of R439 and R442, with the slot tables given (fixed) or being built. The key takes the furlong index modulo the
slot-table period where the tables are given; while they are built no slot depends on it. -/
def loadGo (n : LoadNet) (build : Bool) (period : Nat) (fixed : Schedule) : Nat → LoadSim → Seen → Schedule → LoadResult
  | 0, s, _, sched => { sched, fail := some (n.fur * s.f, { rule := 442 }) }
  | k + 1, s, seen, sched =>
    let total := imgFurlongs n.img
    if s.f ≥ total then { sched }
    else
      let s := runFurlong n build s
      let sched := if build then { sched with furlongs := alPut sched.furlongs (s.f - 1) (s.plans n) } else sched
      match firstFail s.fails with
      | some e => { sched, fail := some e }
      | none =>
        let key := s.key n
        let cls := s.f % period
        let now := s.passes n
        match seen.find? (fun e => e.2.1 == cls && e.1 == key) with
        | none => loadGo n build period fixed k s ((key, cls, s.f, now) :: seen) sched
        | some (_, _, f0, old) =>
          let d := s.f - f0
          let m := skipCount total s.f d old now
          let later := (old.zip now).map (fun e => e.2.1 + m * (e.2.1 - e.1.1))
          let sched := if build && m > 0 then { sched with skips := sched.skips ++ [(s.f, m * d, f0, d)] } else sched
          let s := if m = 0 then s else s.skip n (m * d) later
          let seen := (key, cls, s.f, s.passes n) :: seen.filter (fun e => !(e.2.1 == cls && e.1 == key))
          loadGo n build period fixed k s seen sched

/-- Furlongs that the check may evaluate (R442). -/
def maxRuns : Nat := 2 ^ 20

/-- One pass over some members. -/
def LoadNet.pass (n : LoadNet) (build : Bool) (mods : List Mod) (period : Nat) (fixed : Schedule) : LoadResult :=
  loadGo n build period fixed maxRuns { mods } [] {}

/-! ### Slot tables (R291) -/

/-- The table of a port in furlong f: the flits by transfer and slot. -/
def portTable (s : Schedule) (port : Nat × Nat) (f : Nat) : List (List Nat) :=
  (s.sends f).flatMap (fun e =>
    (e.hops.filter (fun h => h.1 == port.1 && h.2.1 == port.2)).map (fun h =>
      [e.member, e.tile, e.xfer] ++ e.slots.map (· + h.2.2)))

/-- Ports that some table names. -/
def Schedule.ports (s : Schedule) : List (Nat × Nat) :=
  (s.furlongs.flatMap (fun f => f.2.flatMap (fun e => e.hops.map (fun h => (h.1, h.2.1))))).foldl
    (fun a p => if a.contains p then a else a ++ [p]) []

/-- The furlongs at which a sequence must be compared for period q: those evaluated, and in each skipped stretch one
period and q more. -/
def checkPoints (s : Schedule) (q : Nat) : List Nat :=
  s.furlongs.map (·.1) ++ s.skips.flatMap (fun k => (List.range (min k.2.1 (k.2.2.2 + q))).map (k.1 + ·))

/-- The tables of a port repeat from furlong 0 with period q, apart from the last furlong. -/
def repeatsWith (s : Schedule) (last : Nat) (port : Nat × Nat) (q : Nat) : Bool :=
  (checkPoints s q).all (fun f => f ≥ last || portTable s port f == portTable s port (f % q))

/-- At most 16 tables a port, and a period of 1 to 4,096 furlongs. -/
def tablesFit (s : Schedule) (furlongs : Nat) : Bool :=
  s.ports.all (fun p =>
    let ts := (s.furlongs.filter (fun e => e.1 + 1 < furlongs)).map (fun e => portTable s p e.1)
    (ts.foldl (fun a t => if a.contains t then a else a ++ [t]) []).length ≤ 16
    && (span 1 4096).any (repeatsWith s (furlongs - 1) p))

/-! ### The results -/

/-- Conditions of the slots themselves, which bind a member of any stepping: the slots are assigned under the C0 column of
Table TIL-5 (R290). -/
def slotRule (r : Nat) : Bool := r == 42 || r == 46 || r == 123 || r == 124 || r == 442

/-- The transfers of a furlong with their slots, those within a module included. -/
def sendTable (s : Schedule) (f : Nat) : List (List Nat) :=
  (s.sends f).map (fun e => [e.member, e.tile, e.xfer, e.readEnd] ++ e.slots)

/-- The slot-table period (R291): the least number of furlongs with which the transfers and slots repeat, up to the bound of a
table's period, and the length of the plan where none does. -/
def slotPeriod (s : Schedule) (furlongs : Nat) : Nat :=
  let sameAs (q f : Nat) : Bool := f + 1 ≥ furlongs || sendTable s f == sendTable s (f % q)
  ((span 1 4096).find? (fun q => (checkPoints s q).all (sameAs q))).getD furlongs

/-- The slots of every planned transfer (R290, R291), assigned under the C0 column whatever else a C0 module would meet; the rules
given end the evaluation. -/
def LoadNet.tables (n : LoadNet) (minds : Nat → Bool) : LoadResult :=
  { n with minds }.pass true ((List.range n.steps.length).map (fun k => n.scratch k 0xC0 {})) 1 {}

/-- The check of a network of members: slots from the C0 column (R290), whatever else a C0 module would meet, then every member
on its own stepping. Where every member is C0 and no transfer has slots the two passes are one. -/
def LoadNet.check (n : LoadNet) : LoadResult :=
  let ks := List.range n.steps.length
  let allC0 := n.steps.all (· == 0xC0)
  let total := imgFurlongs n.img
  let c0 := n.tables (fun r => allC0 || slotRule r)
  if c0.fail.isSome then c0
  else
    let one := allC0 && c0.sched.furlongs.all (fun e => e.2.isEmpty)
    let own := if one then [] else
      ks.filterMap (fun k =>
        (n.pass false [n.scratch k (n.steps.getD k 0) c0.sched] (slotPeriod c0.sched total) c0.sched).fail)
    match firstFail own with
    | some e => { sched := c0.sched, fail := some e }
    | none => if tablesFit c0.sched total then c0 else { c0 with fail := some (0, { rule := 291 }) }

/-- The check made at PLAN_LOAD: the partition alone, with every route empty, before D and G are known. -/
def planNet (img : Bytes) (stepping : Nat) : LoadNet :=
  { img, steps := [stepping], dst := fun _ x y => x + 2 ^ 16 * y, route := fun _ _ => ([], 0), bay := fun _ k => k
    d := 0, g := none
    desc := { domain := 0, fexp := imgFexp img, sealUse := false, xw := 1, yw := 1, root := 0, greq := 0, hreq := 0
              plan := 0, sealDigest := 0, members := [(0, 0xFF)], links := [], raw := [] } }

/-- The destination member of a transfer (R289). -/
def DomainDesc.dest (d : DomainDesc) (a x y : Nat) : Nat :=
  let tx := ((a % d.xw : Nat) : Int) + signed 16 x
  let ty := ((a / d.xw : Nat) : Int) + signed 16 y
  (tx % (d.xw : Int)).toNat + d.xw * (ty % (d.yw : Int)).toNat

/-- The hops of a route with the slots each lies behind the first (R290), and the rods from the sender to the
destination. -/
def routeHops (r : List Edge) : List (Nat × Nat × Nat) × Nat :=
  let (hs, off) := r.foldl (fun (a : List (Nat × Nat × Nat) × Nat) e =>
    (a.1 ++ [(e.a, e.pa, a.2)], a.2 + 2 * (hopRods e.lat + 2))) ([], 0)
  (hs, off / 2 - min 2 (off / 2))

/-- The check of a whole domain (R304, R305). -/
def domainNet (d : DomainDesc) (es : List Edge) (img : Bytes) (steps : List Nat) (k : Params) : LoadNet :=
  { img, steps, dst := fun a x y => d.dest a x y
    route := fun a b => routeHops (plannedRoute es (d.xw * d.yw) a b)
    bay := fun m i =>
      let mask : BitVec 8 := ((d.members[m]?).map (fun (r : BitVec 24 × BitVec 8) => r.2)).getD 0
      (((List.range 8).filter (fun b => mask.getLsbD b))[i]?).getD 0
    d := k.d, g := some k.g, desc := d }

end Sys2Proof.Machine
end

