-- ==== Sys2Proof/Machine/Link.lean ====
section
/-!
DEFINITION. The link layer (09): the check of a flit, the slots of a port, sequence numbers, acknowledgement
and replay, credits, packets put together at a receive port, lanes, port states and violations.
-/
namespace Sys2Proof.Machine

/-! ### The check (R247) -/

/-- One bit of the CRC-64 of R247. -/
def crcBit (c : BitVec 64) (x : Bool) : BitVec 64 :=
  if x != c.getLsbD 63 then (c <<< 1) ^^^ 0x42F0E1EBA9EA3693#64 else c <<< 1

/-- One byte, bit 0 first. -/
def crcByte (c : BitVec 64) (b : Byte) : BitVec 64 :=
  (List.range 8).foldl (fun c i => crcBit c (b.getLsbD i)) c

/-- The register after a run of bytes. -/
def crcRun (c : BitVec 64) (bs : Bytes) : BitVec 64 := bs.foldl crcByte c

/-- `crc64` of R247. -/
def crc64 (bs : Bytes) : BitVec 64 := crcRun (BitVec.allOnes 64) bs ^^^ BitVec.allOnes 64

/-- The check of 248 bytes under the implicit word W. -/
def flitCheck (body : Bytes) (w : Nat) : BitVec 64 := crc64 (body ++ leBytes 2 w)

/-- The check from the register after the 248 bytes. -/
def checkFrom (c : BitVec 64) (w : Nat) : BitVec 64 := crcRun c (leBytes 2 w) ^^^ BitVec.allOnes 64

/-- Distance of sequence number a ahead of b, modulo 4,096. -/
def seqDist (a b : Nat) : Nat := (a + 4096 - b % 4096) % 4096

/-- The window set of R248: 0 for an IDLE, 0x1000 + s for s from ACK − 1,024 to ACK + 1,023. -/
def windowSet (ack : Nat) : List (Option Nat) :=
  none :: (List.range 2048).map (fun i => some ((ack + 3072 + i) % 4096))

/-- The implicit word of a sequence number, or of an IDLE. -/
def implicitWord : Option Nat → Nat
  | none => 0
  | some s => 0x1000 + s

/-- The members of the window set under which a flit checks. -/
def windowHits (x : Port) (body : Bytes) (check : BitVec 64) : List (Option Nat) :=
  let c := crcRun (BitVec.allOnes 64) body
  (windowSet x.ack).filter (fun w => checkFrom c (implicitWord w) == check)

/-! ### Header fields (Table LNK-3) -/

def hType (h : BitVec 64) : Nat := fld h 3 0
def hVc (h : BitVec 64) : Nat := fld h 6 4
def hSop (h : BitVec 64) : Bool := h.getLsbD 7
def hEop (h : BitVec 64) : Bool := h.getLsbD 8
def hAck (h : BitVec 64) : Nat := fld h 20 9
def hNakSeq (h : BitVec 64) : Nat := fld h 32 21
def hNakK (h : BitVec 64) : Nat := fld h 34 33
def hCrvc (h : BitVec 64) : Nat := fld h 37 35
def hCrcnt (h : BitVec 64) : Nat := fld h 47 38
def hDomain (h : BitVec 64) : BitVec 16 := BitVec.ofNat 16 (fld h 63 48)

/-- Build a header. -/
def mkHeader (f : TxFlit) (ack nakseq nakk crvc crcnt : Nat) : BitVec 64 :=
  BitVec.ofNat 64 (f.type % 16 + f.vc % 8 * 2 ^ 4 + (if f.sop then 2 ^ 7 else 0) + (if f.eop then 2 ^ 8 else 0)
    + ack % 4096 * 2 ^ 9 + nakseq % 4096 * 2 ^ 21 + nakk % 4 * 2 ^ 33 + crvc % 8 * 2 ^ 35 + crcnt % 1024 * 2 ^ 38
    + f.domain.toNat * 2 ^ 48)

/-- Receive buffers of VCs 1 to 5 (Table LNK-6). -/
def vcBuffers : List Nat := [256, 256, 192, 128, 64]

/-! ### Lanes (R241, R271, R272) -/

/-- A lane that can carry data. -/
def Lane.good (l : Lane) : Bool := !l.failed

/-- Lanes of a direction that are active, ascending: the logical position of one is its place in this list (R241). -/
def activeLanes (v : Vector Lane 5) : List Nat := (List.range 5).filter (fun i => (v[i]!).active)

/-- Active lanes that have been marked DEGRADED or FAILED. -/
def badLanes (v : Vector Lane 5) : List Nat :=
  (activeLanes v).filter (fun i => (v[i]!).degraded || (v[i]!).failed)

/-- The warm spare of a direction: good, not degraded, carrying no data. -/
def spareLane (v : Vector Lane 5) : Option Nat :=
  (List.range 5).find? (fun i => let l := v[i]!; !l.active && l.good && !l.degraded)

/-- Give a direction its roles after training: lanes that did not train are failed, and one that a swap took out stays so;
active lanes that trained stay, the spare fills up to four; with fewer than four good lanes the two lowest good lanes,
or the one, carry. -/
def trainedRoles (v : Vector Lane 5) (good : BitVec 5) : Vector Lane 5 :=
  let ok (i : Nat) : Bool := good.getLsbD i && !(v[i]!).swapped
  let n := ((List.range 5).filter ok).length
  let keep := (List.range 5).filter (fun i => ok i && (v[i]!).active)
  let rest := (List.range 5).filter (fun i => ok i && !(v[i]!).active)
  let chosen :=
    if n ≥ 4 then (keep ++ rest).take 4
    else if n ≥ 2 then ((List.range 5).filter ok).take 2
    else (List.range 5).filter ok
  v.mapIdx (fun i l => { active := chosen.contains i, degraded := false, failed := !ok i, swapped := l.swapped })

/-- Run a direction narrow: the two lowest good lanes, or the one that remains. -/
def narrowRoles (v : Vector Lane 5) : Vector Lane 5 :=
  let good := (List.range 5).filter (fun i => (v[i]!).good && !(v[i]!).degraded)
  let chosen := good.take 2
  v.mapIdx (fun i l => { l with active := chosen.contains i })

/-- The spare takes over the data of a lane, which is marked failed (R271). -/
def swapRoles (v : Vector Lane 5) (lane : Nat) : Vector Lane 5 :=
  match spareLane v with
  | none => v
  | some s => v.mapIdx (fun i l =>
      if i = lane then { l with active := false, failed := true, swapped := true } else if i = s then { l with active := true } else l)

/-- A port direction has used its spare lane. -/
def spareUsed (v : Vector Lane 5) : Bool := (spareLane v).isNone

/-! ### REPLACE_REQUESTED (R99, R434, Table OPS-7) -/

/-- Usable physical tiles of a bay (R97). -/
def Mod.usable (m : Mod) (b : Nat) : List Nat :=
  (List.range 9).filterMap (fun i =>
    if m.cal.retired.any (fun r => r.1 == 9 * b + i) then none else some (9 * b + i))

/-- Repair rows used of a pseudo-channel. -/
def Mod.rowsUsed (m : Mod) (b pc : Nat) : Nat := (m.cal.repairs.filter (fun r => r.1 == b && r.2.1 == pc)).length

/-- The causes REPL_CAUSE and REPL_PORT show (Table OPS-9). -/
def Mod.replaceCauses (m : Mod) : BitVec 32 × BitVec 32 :=
  let tiles := ((List.range 8).filter (fun b => (m.usable b).length ≤ 8)).map (2 ^ ·)
  let rows := ((List.range 8).filter (fun b => (List.range 32).any (fun pc => m.rowsUsed b pc ≥ 32))).map (fun b => 2 ^ (8 + b))
  let n := (tiles ++ rows).foldl (· + ·) 0 + (if m.flashWorn then 2 ^ 16 else 0) + (if m.cal.factoryGood then 0 else 2 ^ 17)
  let ports := (allPorts.filter (fun q => spareUsed (m.port q).txLanes || spareUsed (m.port q).rxLanes)).map (fun q => 2 ^ q.val)
  (BitVec.ofNat 32 n, BitVec.ofNat 32 (ports.foldl (· + ·) 0))

/-- Recompute the causes; REPLACE_REQUESTED is posted each time one is added. A cause stays: the spare tile of a bay alone
can return (R434). -/
def refreshReplace (m : Mod) : Mod :=
  let (c, q) := m.replaceCauses
  let c := c ||| (m.regs.replCause &&& 0x3FF00)
  let q := q ||| m.regs.replPort
  let added := (c &&& ~~~m.regs.replCause) != 0 || (q &&& ~~~m.regs.replPort) != 0
  let m := { m with regs := { m.regs with replCause := c, replPort := q } }
  if added then postEvent pf0 evReplaceRequested m else m

/-! ### Port states (R265 to R267) -/

/-- Everything of a port that starts afresh at its entry to ACTIVE or leaves with it (R266, R267). The run of CRVC over
the flits it sends goes on (R263), as does the place in the received frame. -/
def Port.fresh (x : Port) : Port :=
  { x with nextSeq := 0, ackTaken := 0, replayBuf := [], replayQ := [], displacedQ := []
           credits := Vector.replicate 5 0, crTaken := Vector.replicate 5 0, crPending := [], lastVc := 5
           ackSince := 0, goBackRun := 0, kaSent := none, kaRcvd := false
           ack := 0, next := 0, held := [], holes := [], nakQ := []
           used := Vector.replicate 5 0, freed := Vector.replicate 5 0, reported := Vector.replicate 5 0
           partials := Vector.replicate 6 none, rxHold := [], rxLctl := [], rxPv := []
           fecOpen := [], rxDiscard := false, slots := 0, winCorrupt := 0, winSymbols := Vector.replicate 5 0, winViol := 0 }

/-- Change the state of a port. -/
def Port.goto (x : Port) (st : PortSt) (wall : Nat) : Port :=
  { x with st := st, enteredAt := wall, counts := { x.counts with stateChanges := x.counts.stateChanges.add 1 } }

/-- The flits of a port that its entry to DOWN discards. -/
def Port.losses (x : Port) : Nat :=
  x.replayBuf.length + x.displacedQ.length + x.held.length + x.planned.length + x.txHold.length
  + ((x.txVc.toList.map (·.length)).foldl (· + ·) 0)

/-- A port enters DOWN (R267): its flits are discarded and counted, its retained seal goes, and a domain that
used it fails or changes its routes (R300). -/
def portDown (q : PortId) (m : Mod) : Mod :=
  let x := m.port q
  if x.st == .down then m
  else
    let m := match m.partOfPort q with
      | some p => dropSeal p (if x.carries then linkLost p q 1 m else m)
      | none => m
    let x := m.port q
    m.setPort q { x.fresh.goto .down m.wall with
      planned := [], txHold := [], txLctl := [], txPv := [], txVc := Vector.replicate 5 [], swapLane := none
      initSent := false, initRcvd := none
      counts := { x.counts with discarded := x.counts.discarded.add x.losses
                                stateChanges := x.counts.stateChanges.add 1 } }

/-- A port enters ISOLATED (R275). -/
def portIsolate (q : PortId) (m : Mod) : Mod :=
  let note (m : Mod) (f : Fn) : Mod := postEvent f evPortIsolated (m.updFunc f (fun x => { x with evtPort := q.val }))
  let m := match m.partOfPort q with
    | some p => note (dropSeal p (linkLost p q 3 m)) (vfOf p)
    | none => m
  let m := note m pf0
  m.updPort q (fun x => { x.fresh.goto .isolated m.wall with
    planned := [], txHold := [], txLctl := [], txPv := [], txVc := Vector.replicate 5 [], swapLane := none
    initSent := false, initRcvd := none })

/-- A port enters NARROW for want of a spare (R272), or DOWN where a direction has no good lane left. One in NARROW takes
its lanes anew and changes no state. -/
def portNarrow (q : PortId) (m : Mod) : Mod :=
  let x := m.port q
  let tx := narrowRoles x.txLanes
  let rx := narrowRoles x.rxLanes
  let roles (x : Port) : Port :=
    { x with txLanes := tx, rxLanes := rx, swapLane := none, swapTarget := none, rxSlots := 0, fecOpen := [] }
  if (activeLanes tx).isEmpty || (activeLanes rx).isEmpty then portDown q m
  else if x.st == .narrow then refreshReplace (m.updPort q roles)
  else
    let m := match m.partOfPort q with
      | some p => dropSeal p (if x.st == PortSt.active then linkLost p q 2 m else m)
      | none => m
    refreshReplace (m.updPort q (fun x =>
      { (roles x).goto .narrow m.wall with planned := [], displacedQ := [], txHold := [] }))

/-- The LCTL payload of a code with its bytes from 1 on (Table LNK-8). -/
def lctlFlit (code : Nat) (rest : Bytes) : TxFlit :=
  { type := 3, vc := 0, sop := false, eop := false, domain := 0, payload := sliceB (leBytes 1 code ++ rest) 0 240 }

/-- The INIT of a port (Table LNK-8). -/
def Mod.initFlit (m : Mod) (q : PortId) : TxFlit :=
  lctlFlit 1 (leBytes 3 m.node.toNat ++ leBytes 1 q.val ++ vcBuffers.flatMap (leBytes 2 ·)
    ++ leBytes 2 ((m.port q).latency.getD 0))

/-- Queue a SWAP_REQ naming a receive lane. -/
def sendSwapReq (q : PortId) (lane : Nat) (m : Mod) : Mod :=
  m.updPort q (fun x => { x with txLctl := x.txLctl ++ [lctlFlit 4 (List.replicate 16 0 ++ leBytes 1 lane)] })

/-- A port enters CALIBRATE and sends its INIT (R266); a lane that went bad in KEEPALIVE is named to the partner then
(R270, R271). -/
def portCalibrate (q : PortId) (m : Mod) : Mod :=
  let init := m.initFlit q
  let m := m.updPort q (fun x => { x.fresh.goto .calibrate m.wall with
    txLctl := [init], initSent := false, initRcvd := none, slotAt := m.wall, txFrameAt := m.wall, txFrame := 0, rxSlots := 0 })
  (badLanes (m.port q).rxLanes).foldl (fun m l => sendSwapReq q l m) m

/-- A data lane has gone bad and no spare is left in its direction. -/
def wantsNarrow (v : Vector Lane 5) : Bool := !(badLanes v).isEmpty && (spareLane v).isNone

/-- Both INITs are exchanged: ACTIVE, or NARROW where the port is built narrow (R266). A data lane that went bad in
CALIBRATE with no spare left takes the port from ACTIVE to NARROW at once (R272). -/
def tryActivate (q : PortId) (m : Mod) : Mod :=
  let x := m.port q
  match x.initRcvd with
  | none => m
  | some bufs =>
    if x.st != .calibrate || !x.initSent then m
    else
      let m := if x.narrowBuild then (match m.partOfPort q with
          | some p => dropSeal p m
          | none => m) else m
      let m := m.setPort q { x.fresh.goto (if x.narrowBuild then .narrow else .active) m.wall with
        credits := Vector.ofFn (fun i => bufs.getD i.val 0), ackSince := m.wall, slotAt := x.slotAt, fecOpen := x.fecOpen
        rxDiscard := x.rxDiscard }
      if !x.narrowBuild && (wantsNarrow x.rxLanes || wantsNarrow x.txLanes) then portNarrow q m else m

/-! ### Violations (R273) -/

/-- The PV flit of a violation (Table LNK-10). -/
def pvFlit (code : Nat) (hdr : BitVec 64) (seq : Nat) : TxFlit :=
  { type := 4, vc := 0, sop := false, eop := false, domain := 0
    payload := sliceB (leBytes 1 code ++ leBytes 1 0 ++ leBytes 8 hdr.toNat ++ leBytes 2 seq) 0 240 }

/-- Keep the last 16 entries of a log. -/
def last16 {α : Type} (l : List α) : List α := l.drop (l.length - 16)

/-- A partner protocol violation: answered, counted, logged; beyond 64 in a window the port is isolated. Windows run in
ACTIVE and NARROW alone (R269). -/
def violation (q : PortId) (code : Nat) (hdr : BitVec 64) (seq : Nat) (m : Mod) : Mod :=
  let m := m.updPort q (fun x =>
    { x with txPv := x.txPv ++ [pvFlit code hdr seq], winViol := if x.carries then x.winViol + 1 else x.winViol
             violLog := last16 (x.violLog ++ [(pvFlit code hdr seq).payload.take 12])
             counts := { x.counts with
               violations := x.counts.violations.set! (code - 1) ((x.counts.violations[code - 1]!).add 1) } })
  if (m.port q).winViol > 64 then portIsolate q m else m

/-! ### Slots (R243, R249, R250) -/

/-- Phase of the rods of a port: wall time w starts a rod where (w + phase) mod 5 = 0. Where the plan counter of
the port's partition is loaded, the rods are those of plan time. -/
def Mod.rodPhase (m : Mod) (q : PortId) : Nat :=
  match m.partOfPort q with
  | none => 0
  | some p =>
    let x := m.part p
    match x.standing with
    | some st => (4 * st.since) % 5
    | none => if x.ctrOn then (x.ctr + 4 * m.wall) % 5 else 0

/-- Rods of a frame by its number of active data lanes (Table LNK-1). -/
def frameRods (lanes : Nat) : Nat := if lanes ≥ 4 then 17 else if lanes ≥ 2 then 34 else 68

/-- Slots start at cycles 0 and 2 of a rod with four lanes, at cycle 0 with two, and at cycle 0 of every second rod of
the frame with one (Table LNK-1); off counts the cycles from the start of a frame. -/
def slotStart (lanes off : Nat) : Bool :=
  if lanes ≥ 4 then off % 5 == 0 || off % 5 == 2 else if lanes ≥ 2 then off % 5 == 0 else off % 10 == 0

/-- The alignment marker of a lane (R243): logical position, physical lane, frame count, and 0xA5 in 58 bytes. -/
def alignMarker (pos lane count : Nat) : Bytes :=
  leBytes 1 pos ++ leBytes 1 lane ++ leBytes 4 (count % 2 ^ 32) ++ List.replicate 58 0xA5

/-- The alignment markers of the frame that a port sends, in logical lane order. -/
def Port.markers (x : Port) : List Bytes :=
  (activeLanes x.txLanes).mapIdx (fun pos lane => alignMarker pos lane x.txFrame)

/-- The message bytes of a frame (Table LNK-1): markers, the 34 slots, and the pad to 8,995 bytes. -/
def frameMessage (markers : List Bytes) (slots : List Bytes) : Bytes := sliceB (markers.flatten ++ slots.flatten) 0 8995

/-- Symbol i of codeword c of a frame's message (R243): 10 bits, each byte taken from bit 0 upward. -/
def frameSymbol (msg : Bytes) (c i : Nat) : Nat :=
  let b := 10 * (514 * c + i)
  leAt msg (b / 8) 3 / 2 ^ (b % 8) % 2 ^ 10

/-- The logical lane that carries symbol i of every codeword (R243). -/
def symbolLane (lanes i : Nat) : Nat := i % lanes

/-- The codeword of a frame that holds a message byte's first bit, and that of its last. -/
def byteWord (b : Nat) : Nat × Nat := (8 * b / 5140, (8 * b + 7) / 5140)

/-- The codewords of a frame that hold a byte of slot k, first and last. -/
def slotWords (lanes k : Nat) : Nat × Nat :=
  let b := 64 * lanes + 256 * k
  ((byteWord b).1, (byteWord (b + 255)).2)

/-- The codeword that begins in slot k, for the FEC report of the slot; the first slot of a frame takes codeword 0. -/
def wordBegins (lanes k : Nat) : Bool := k = 0 || (slotWords lanes (k - 1)).2 < (slotWords lanes k).2

/-- A codeword whose last message symbol lies in slot k, or in the pad after the last slot (R269; DEDUCED, log 131). -/
def wordEnds (lanes k c : Nat) : Bool := if k = 33 then (slotWords lanes k).2 = c else (slotWords lanes (k + 1)).1 > c

/-- The rods of a port have moved since its present frame began, or its frame has yet to begin: the next frame begins at
the first rod boundary from w on. -/
def Mod.txBase (m : Mod) (q : PortId) (w : Nat) : Nat :=
  let x := m.port q
  if (x.txFrameAt + m.rodPhase q) % 5 = 0 && x.txFrameAt ≤ w then x.txFrameAt else w + (5 - (w + m.rodPhase q) % 5) % 5

/-- The first slot of a port at or after wall time w. -/
def Mod.nextSlot (m : Mod) (q : PortId) (w : Nat) : Nat :=
  let lanes := (activeLanes (m.port q).txLanes).length
  let base := m.txBase q w
  match (List.range 15).find? (fun i => base ≤ w + i && slotStart lanes (w + i - base)) with
  | some i => w + i
  | none => w

/-- The first frame boundary of a port at or after wall time w. -/
def Mod.nextFrame (m : Mod) (q : PortId) (w : Nat) : Nat :=
  let base := m.txBase q w
  let len := 5 * frameRods (activeLanes (m.port q).txLanes).length
  base + len * ceilDiv (w - base) len

/-- The frame that a port sends at wall time w begins, where w is its boundary, or goes on. -/
def Mod.frameNow (m : Mod) (q : PortId) (w : Nat) : Port :=
  let x := m.port q
  let base := m.txBase q w
  let len := 5 * frameRods (activeLanes x.txLanes).length
  if base ≠ x.txFrameAt then { x with txFrameAt := base, txFrame := (x.txFrame + 1) % 2 ^ 32 }
  else
    let k := (w - base) / len
    { x with txFrameAt := base + k * len, txFrame := (x.txFrame + k) % 2 ^ 32 }

/-- The plan slot of the present cycle: partition, furlong and slot index, where a plan of the port's partition
runs and its counter does not stand (R249). -/
def Mod.planSlot (m : Mod) (q : PortId) : Option (Part × Nat × Nat) :=
  match m.partOfPort q with
  | none => none
  | some p =>
    let x := m.part p
    if x.live && x.member.t0 ≤ x.ctr then
      let c := x.ctr - x.member.t0
      some (p, c / x.furCycles, 2 * (c / 5 % x.lrods) + (if c % 5 = 0 then 0 else 1))
    else none

/-- The slot tables assign a flit to a slot of a port (R290). -/
def Mod.assigned (m : Mod) (p : Part) (q : PortId) (f slot : Nat) : Bool :=
  match m.memberIndex p with
  | none => false
  | some me => ((m.part p).member.sched.sends f).any (fun e =>
      e.hops.any (fun h => h.1 == me && h.2.1 == q.val && e.slots.any (fun s => s + h.2.2 == slot)))

/-- What a slot carries (Table LNK-5). -/
inductive SlotUse where
  | hold (f : TxFlit)
  | replay (seq : Nat)
  | planned (f : TxFlit)
  | displaced (f : TxFlit)
  | lctl (f : TxFlit)
  | pv (f : TxFlit)
  | data (vc : Nat) (f : TxFlit)
  | idle
  deriving DecidableEq, Repr, Inhabited

/-- A flit of VC PL. -/
def TxFlit.isPl (f : TxFlit) : Bool := f.type == 1 && f.vc == 0

/-- The port may carry PL and HOLD flits: it is ACTIVE and its receiver keeps its phase (R36, R272). -/
def Port.wide (x : Port) : Bool := x.st == .active && !x.alignLost

/-- Replays that may start, in sequence order. A port that carries no PL or HOLD flit replays none (R36, R272; DEDUCED, log
130). -/
def Port.replays (x : Port) (wall : Nat) (pl : Bool) : List Nat :=
  let ok := x.replayQ.filter (fun r => r.2.1 ≤ wall && x.replayBuf.any (fun o =>
    o.seq == r.1 && (!pl || o.flit.isPl) && (x.wide || !(o.flit.isPl || o.flit.type == 2))))
  sortBy (fun s => seqDist s x.ackTaken) (ok.map (·.1))

/-- Credits of a VC usable in a slot at wall time w (R262). -/
def Port.creditOf (x : Port) (vc wall : Nat) : Nat :=
  x.credits[vc - 1]! + ((x.crPending.filter (fun c => c.1 == vc && c.2.2 ≤ wall)).map (·.2.1)).foldl (· + ·) 0

/-- The next VC of order 7 (R264). -/
def Port.nextData (x : Port) (wall : Nat) : Option (Nat × TxFlit) :=
  ((List.range 5).map (fun i => (x.lastVc + i) % 5 + 1)).findSome? (fun vc =>
    match x.txVc[vc - 1]! with
    | f :: _ => if x.creditOf vc wall > 0 then some (vc, f) else none
    | [] => none)

/-- Nothing but LCTL of this end is outstanding or waits to be sent, and its receiver has no hole (R268). -/
def Port.drained (x : Port) : Bool :=
  x.replayBuf.all (fun o => o.flit.type == 3) && x.displacedQ.isEmpty && x.holes.isEmpty && x.held.isEmpty
    && x.txVc.toList.all (·.isEmpty) && x.txHold.isEmpty && x.planned.isEmpty && x.txPv.isEmpty

/-- The next LCTL to send: a KA_REQ waits until this end is drained (R268). -/
def Port.nextLctl (x : Port) : Option TxFlit := x.txLctl.find? (fun f => leAt f.payload 0 1 != 2 || x.drained)

/-- The choice of Table LNK-5 in a slot at wall time w; fl is the planned flit of an assigned slot. A slot that is assigned
a flit which is absent is no unassigned slot, and orders 4 to 8 are not open to it: where no HOLD or PL replay takes it the
model sends IDLE (DEDUCED, log 129). -/
def Port.pick (x : Port) (wall : Nat) (assigned : Bool) (fl : Option TxFlit) : SlotUse :=
  let out := x.replayBuf.length
  let room := out < 1008
  let wide := x.wide
  if x.st == .calibrate then
    match x.nextLctl with
    | some f => .lctl f
    | none => match x.replays wall false with
      | s :: _ => .replay s
      | [] => .idle
  else
    match (if wide && out < 1024 then x.txHold.head? else none),
          (if wide && x.displacedQ.length < 128 then (x.replays wall true).head? else none) with
    | some f, _ => .hold f
    | none, some s => .replay s
    | none, none =>
      if assigned then
        match fl with
        | some f => if room then .planned f else .idle
        | none => .idle
      else
        match (if wide && room then x.displacedQ.head? else none), (x.replays wall false).head?,
              (if room then x.nextLctl else none), (if room then x.txPv.head? else none),
              (if room then x.nextData wall else none) with
        | some f, _, _, _, _ => .displaced f
        | none, some s, _, _, _ => .replay s
        | none, none, some f, _, _ => .lctl f
        | none, none, none, some f, _ => .pv f
        | none, none, none, none, some (vc, f) => .data vc f
        | none, none, none, none, none => .idle

/-- An IDLE flit. -/
def idleFlit : TxFlit := { type := 0, vc := 0, sop := false, eop := false, domain := 0, payload := List.replicate 240 0 }

/-- The lowest pending NAK that may go out (R257). -/
def Port.nextNak (x : Port) (wall : Nat) : Option Nat :=
  let ok := x.nakQ.filter (fun n => n.2 ≤ wall && seqDist n.1 x.ack < 1024 && !x.held.any (fun h => h.1 == n.1))
  (sortBy (fun s => seqDist s x.ack) (ok.map (·.1))).head?

/-- Put a flit on the lanes with the current header (R246, R256, R257, R263). -/
def Port.transmit (x : Port) (f : TxFlit) (seq : Option Nat) (wall : Nat) : Port :=
  let nak := x.nextNak wall
  let crcnt := x.freed[x.nextCrvc - 1]!
  let hdr := mkHeader f x.ack (nak.getD 0) (if nak.isSome then 1 else 0) x.nextCrvc crcnt
  let body := leBytes 8 hdr.toNat ++ sliceB f.payload 0 240
  let naks := match nak with
    | some s => x.nakQ.filter (fun n => n.1 != s)
    | none => x.nakQ
  { x with
    sent := some { header := hdr, payload := sliceB f.payload 0 240, check := flitCheck body (implicitWord seq)
                   seq := seq.getD 0xFFFF }
    nakQ := naks
    holes := x.holes.map (fun h => if some h.seq = nak then { h with lastNak := some wall } else h)
    reported := x.reported.set! (x.nextCrvc - 1) crcnt
    nextCrvc := x.nextCrvc % 5 + 1
    slotAt := wall + 1 }

/-- Number a new sequenced flit, keep it in the replay buffer and send it. -/
def Port.sendNew (x : Port) (f : TxFlit) (wall : Nat) : Port :=
  let f := { f with domain := x.domain }
  let s := x.nextSeq
  let o : Outst := { seq := s, flit := f }
  let x := { x with replayBuf := x.replayBuf ++ [o], nextSeq := (s + 1) % 4096
                    ackSince := if x.replayBuf.isEmpty then wall else x.ackSince }
  x.transmit f (some s) wall

/-- Spend one credit of a VC, taking in the reports that are usable. -/
def Port.spend (x : Port) (vc wall : Nat) : Port :=
  let (ready, later) := x.crPending.partition (fun c => c.2.2 ≤ wall)
  let add (i : Nat) : Nat := ((ready.filter (fun c => c.1 == i + 1)).map (·.2.1)).foldl (· + ·) 0
  let cs := x.credits.mapIdx (fun i c => c + add i)
  { x with credits := cs.set! (vc - 1) (cs[vc - 1]! - 1), crPending := later, lastVc := vc }

/-- Send what a slot carries. -/
def Port.sendUse (x : Port) (u : SlotUse) (wall : Nat) : Port :=
  match u with
  | .hold f => ({ x with txHold := x.txHold.drop 1 } : Port).sendNew f wall
  | .replay s =>
    match x.replayBuf.find? (fun o => o.seq == s) with
    | some o => ({ x with replayQ := removeFirst (fun r => r.1 == s && r.2.1 ≤ wall) x.replayQ } : Port).transmit o.flit (some s) wall
    | none => x
  | .planned f => x.sendNew f wall
  | .displaced f => ({ x with displacedQ := x.displacedQ.drop 1 } : Port).sendNew f wall
  | .lctl f =>
    let code := leAt f.payload 0 1
    let rest := removeFirst (· == f) x.txLctl
    let ka := if code == 2 || code == 3 then some wall else x.kaSent
    let y : Port := { x with txLctl := rest, initSent := x.initSent || code == 1, kaSent := ka }
    y.sendNew f wall
  | .pv f => ({ x with txPv := x.txPv.drop 1 } : Port).sendNew f wall
  | .data vc f =>
    let l := (x.txVc[vc - 1]!).drop 1
    (({ x with txVc := x.txVc.set! (vc - 1) l } : Port).spend vc wall).sendNew f wall
  | .idle => x.transmit ({ idleFlit with domain := x.domain } : TxFlit) none wall

def cDisplacedFull : Nat := 0x0024

/-- A planned flit enters the displaced queue, or finds it full (R251). -/
def displace (p : Part) (q : PortId) (f : TxFlit) (m : Mod) : Mod :=
  if (m.port q).displacedQ.length ≥ 256 then failNode p cDisplacedFull 0 q.val m
  else m.updPort q (fun x =>
    { x with displacedQ := x.displacedQ ++ [f], counts := { x.counts with displaced := x.counts.displaced.add 1 } })

/-- A COMMIT carries as STAMP its sender's plan counter at the first symbol of its flit; the counter of a root
starts at 0 with its first COMMIT (R301, R304). -/
def stampCommit (q : PortId) (u : SlotUse) (m : Mod) : SlotUse × Mod :=
  match u with
  | .data vc f =>
    if vc == vcMg && f.sop && leAt f.payload 16 1 == 3 then
      match m.partOfPort q with
      | none => (u, m)
      | some p =>
        let m := if (m.part p).ctrOn then m
          else recordEpoch p (m.updPart p (fun x => { x with ctrOn := true, ctr := 0 }))
        let pl := f.payload.take 24 ++ leBytes 8 (m.part p).ctr ++ f.payload.drop 32
        (.data vc { f with payload := pl }, m)
    else (u, m)
  | _ => (u, m)

/-- Rods that a slot of a stalled transmitter stands for (R254): the second slot of a rod adds none, and a slot of one lane
spans two. -/
def stalledRods (lanes off : Nat) : Nat := if lanes ≥ 4 then (if off % 5 = 0 then 1 else 0) else if lanes ≥ 2 then 1 else 2

/-- A port enters KEEPALIVE (R268): an included link leaves ACTIVE (R300). -/
def portKeepalive (q : PortId) (m : Mod) : Mod :=
  let m := match m.partOfPort q with
    | some p => linkLost p q 4 m
    | none => m
  m.updPort q (fun x => x.fresh.goto .keepalive m.wall)

/-- The planned flit that waits for the present slot of a port. -/
def Mod.slotFlit (m : Mod) (q : PortId) : Option PlannedFlit :=
  match m.planSlot q with
  | some (_, f, sl) => (m.port q).planned.find? (fun e => e.furlong == f && e.slot == sl)
  | none => none

/-- The slot tables assign the present slot of a port to a flit. -/
def Mod.slotAssigned (m : Mod) (q : PortId) : Bool :=
  match m.planSlot q with
  | some (p, f, sl) => m.assigned p q f sl
  | none => false

/-- A port as its present slot begins: its frame goes on, the planned flit of the slot leaves its place, and the rods of a
stalled transmitter count. -/
def Mod.slotPort (m : Mod) (q : PortId) : Port :=
  let x := m.frameNow q m.wall
  let rods := if x.replayBuf.length ≥ 1008 then stalledRods (activeLanes x.txLanes).length (m.wall - x.txFrameAt) else 0
  { x with
    planned := match m.slotFlit q with
      | some e => x.planned.filter (fun k => !(k.furlong == e.furlong && k.slot == e.slot))
      | none => x.planned
    counts := { x.counts with stallRods := x.counts.stallRods.add rods } }

/-- The planned flit of a slot that another flit has taken is displaced (R251). -/
def displaceUnsent (q : PortId) (p : Option Part) (mine : Option PlannedFlit) (u : SlotUse) (m : Mod) : Mod :=
  match mine, p, u with
  | some _, some _, .planned _ => m
  | some e, some p, _ => displace p q e.flit m
  | _, _, _ => m

/-- The slot of a port in the present cycle. -/
def slotNow (q : PortId) (m : Mod) : Mod :=
  let mine := m.slotFlit q
  let p := (m.planSlot q).map (·.1)
  let x := m.slotPort q
  let (u, n) := stampCommit q ((m.port q).pick m.wall (m.slotAssigned q) (mine.map (·.flit))) m
  tryActivate q (displaceUnsent q p mine u (n.setPort q (x.sendUse u m.wall)))

/-- Both ends have sent and received a KA_REQ or KA_ACK and this end is drained: the port leaves at the next frame boundary
(R268). -/
def Port.kaDue (x : Port) : Bool := x.st == .active && x.kaRcvd && x.kaSent.isSome && x.drained

/-- LINK_SLOT: the next slot of the port. At a frame boundary a port that is due enters KEEPALIVE in its place. -/
def execLinkSlot (q : PortId) (s : State) : Host.Outcome State Fault Refusal :=
  let st := (s.m.port q).st
  if st != .active && st != .narrow && st != .calibrate then .next s
  else
    let m := advanceWall (s.m.nextSlot q (max (s.m.port q).slotAt s.m.wall)) s.m
    if (m.port q).st != st then .next { s with m := m }
    else if (m.port q).kaDue && m.nextFrame q m.wall == m.wall then .next { s with m := portKeepalive q m }
    else .next { s with m := slotNow q m }

end Sys2Proof.Machine
end

