-- ==== Sys2Proof/Machine/LinkRx.lean ====
section
/-!
DEFINITION. The receiver of a port (R244, R248, R255 to R262, R273, R284 to R286) and the rows of the link layer.
-/
namespace Sys2Proof.Machine

/-! ### Packets (Tables FAB-3, FAB-4, FAB-5) -/

def pkDnode (h : BitVec 128) : BitVec 24 := BitVec.ofNat 24 (fld h 23 0)
def pkDbay (h : BitVec 128) : Nat := fld h 26 24
def pkKind (h : BitVec 128) : Nat := fld h 30 27
def pkOffset (h : BitVec 128) : Nat := fld h 71 32
def pkSnode (h : BitVec 128) : BitVec 24 := BitVec.ofNat 24 (fld h 95 72)
def pkSbay (h : BitVec 128) : Nat := fld h 98 96
def pkLines (h : BitVec 128) : Nat := fld h 110 99
def pkTag (h : BitVec 128) : Nat := fld h 122 111
def pkMcdir (h : BitVec 128) : Nat := fld h 124 123

/-- Kinds of Table FAB-5. -/
def kPwrite : Nat := 1
def kWrite : Nat := 2
def kRead : Nat := 3
def kRdata : Nat := 4
def kStatus : Nat := 5
def kChain : Nat := 6
def kMcast : Nat := 7

/-- The VCs that a kind may use. -/
def kindVcs (k : Nat) : List Nat :=
  match k with
  | 1 => [0] | 2 => [1, 4] | 3 => [1, 4] | 4 => [2] | 5 => [2] | 6 => [3, 4] | 7 => [3] | 8 => [5] | _ => []

/-- A packet breaks R286: reserved KIND or bit, or a VC that its KIND does not allow. -/
def packetBad (h : BitVec 128) (vc : Nat) : Bool :=
  !(kindVcs (pkKind h)).contains vc || h.getLsbD 31 || fld h 127 125 != 0

/-- A reserved byte or bit of the body of a READ is not zero (Table FAB-5). -/
def readBodyBad (h : BitVec 128) (body : Bytes) : Bool :=
  pkKind h == kRead && (decide (leAt body 5 1 ≥ 8) || !allZero (sliceB body 6 58))

/-- A start-protocol packet (R284): MG carrying PREPARE, VOTE, COMMIT or ABANDON. -/
def isStart (h : BitVec 128) (vc : Nat) (body : Bytes) : Bool :=
  vc == 5 && pkKind h == kindMgmt && 1 ≤ leAt body 0 1 && leAt body 0 1 ≤ 4

/-- Table FAB-3. -/
def Mod.fenceAccepts (m : Mod) (q : PortId) (domain : BitVec 16) (start : Bool) (bodyDomain : Nat) : Bool :=
  let id := (m.port q).domain
  if id == 0 then start
  else
    match m.partOfPort q with
    | none => false
    | some p =>
      if !m.isDomainPort p q then false
      else if domain == id then true
      else start && bodyDomain == id.toNat

/-- A packet is dropped and logged (R284). -/
def fenceDrop (q : PortId) (h : BitVec 128) (domain : BitVec 16) (vc : Nat) (m : Mod) : Mod :=
  let m := m.updPort q (fun x => { x with fenceLog := last16 (x.fenceLog ++ [{ header := h, domain, vc }]) })
  match m.partOfPort q with
  | some p => m.updPart p (fun x => { x with tel := { x.tel with fenceDrop := x.tel.fenceDrop.add 1 } })
  | none => m

/-- Places of a VC buffer are freed (R262). -/
def freePlaces (q : PortId) (vc n : Nat) (m : Mod) : Mod :=
  if vc = 0 then m else m.updPort q (fun x => { x with freed := x.freed.set! (vc - 1) (x.freed[vc - 1]! + n) })

/-- A packet is whole (R284 to R286): it joins its receive queue or is dropped, as is one with a reserved MTYPE
(Table FAB-10). -/
def packetWhole (q : PortId) (vc : Nat) (b : Partial) (m : Mod) : Mod :=
  let h := BitVec.ofNat 128 (leAt b.payload 0 16)
  let lines := if (pkKind h == kStatus) then 0 else if pkKind h == kRead then 1 else pkLines h + 1
  let body := sliceB b.payload 16 (64 * lines)
  if packetBad h vc || readBodyBad h body || (vc == 5 && (leAt body 0 1 == 0 || leAt body 0 1 > 8)) || !m.fenceAccepts q b.domain (isStart h vc body) (leAt body 2 2) then
    freePlaces q vc b.flits (fenceDrop q h b.domain vc m)
  else
    let pk : Packet := { vc, header := h, body, flits := b.flits, since := m.wall, first := b.first, domain := b.domain }
    m.updPort q (fun x => { x with pkts := x.pkts.set! vc (x.pkts[vc]! ++ [pk]) })

/-- The first slot of a planned transfer of furlong f has begun, so that its flits may be under way. -/
def SendPlan.underWay (e : SendPlan) (x : Partition) (f : Nat) : Bool :=
  decide (x.furStart f + slotCycle (e.slots.headD 0) ≤ x.ctr)

/-- The furlong and the schedule entry of a planned packet in transit or at its end, by its source, destination and offset:
the latest furlong that has such an entry whose first slot has begun. A packet of an earlier furlong is late (R47). The
header names no furlong, so that a packet two or more furlongs late whose successor is under way too is taken for the
successor (DEDUCED, log 127). -/
def Mod.planOf (m : Mod) (p : Part) (h : BitVec 128) : Option (Nat × SendPlan) :=
  let x := m.part p
  match x.member.desc with
  | none => none
  | some d =>
    match d.memberOf (pkSnode h), d.memberOf (pkDnode h) with
    | some a, some b =>
      (List.range (min (x.furlong + 1) (2 * x.member.sched.furlongs.length + 2))).findSome? (fun k =>
        let f := x.furlong - k
        ((x.member.sched.sends f).find? (fun e =>
          e.member == a && e.dst == b && e.dbay == pkDbay h && e.offsetIn f == pkOffset h && e.underWay x f)).map
            (fun e => (f, e)))
    | _, _ => none

/-- A planned flit in transit leaves on its next hop 2 rods after it arrives, in its slot, or is displaced where
that slot has begun (R251, R290). A flit that no slot table knows, or that meets a stopped plan, is discarded
(R298). -/
def forwardPlanned (p : Part) (h : BitVec 128) (i : Nat) (f : TxFlit) (m : Mod) : Mod :=
  match m.memberIndex p, m.planOf p h with
  | some me, some (g, e) =>
    match e.hops.find? (fun k => k.1 == me) with
    | none => m
    | some (_, q, off) =>
      let x := m.part p
      let slot := e.slots.getD i 0 + off
      let start := x.furStart g + slotCycle slot
      let base := x.furStart g / 5
      let back := (e.hops.findIdx (fun k => k.1 == me))
      let passed := off / 2
      let f := { f with planned := true, deadline := base + e.slots.getD i 0 / 2 + x.member.params.d
                        rem := e.rem - min e.rem (if back = 0 then 0 else passed) }
      if !x.running then m
      else if start < x.ctr || (start == x.ctr && x.standing.isNone && (m.port (toFin 16 q)).slotAt > m.wall)
      then displace p (toFin 16 q) f m
      else m.updPort (toFin 16 q) (fun y => { y with planned := y.planned ++ [{ slot, furlong := g, flit := f }] })
  | _, _ => m

/-- Deliver a DATA flit to its VC (R261): framing, then the packet it belongs to. -/
def deliverData (q : PortId) (h : BitVec 64) (payload : Bytes) (seq : Nat) (m : Mod) : Mod :=
  let vc := hVc h
  let x := m.port q
  let opened := x.partials[vc]!
  if (hSop h && opened.isSome) || (!hSop h && opened.isNone) then
    freePlaces q vc 1 (violation q 6 h seq m)
  else
    let old := opened.getD { payload := [], flits := 0, domain := hDomain h, first := m.wall }
    let b : Partial := { old with payload := old.payload ++ payload, flits := old.flits + 1 }
    let hdr := BitVec.ofNat 128 (leAt b.payload 0 16)
    let keep (v : Option Partial) (m : Mod) : Mod := m.updPort q (fun x => { x with partials := x.partials.set! vc v })
    let transit := vc == 0 && pkDnode hdr != m.node && !packetBad hdr 0
    let m := match m.partOfPort q with
      | some p =>
        if transit && m.isDomainPort p q && b.domain == x.domain then
          forwardPlanned p hdr old.flits
            { type := 1, vc := 0, sop := hSop h, eop := hEop h, domain := hDomain h, payload } m
        else m
      | none => m
    if hEop h then
      let m := keep none m
      if transit && m.fenceAccepts q b.domain false 0 then m else packetWhole q vc b m
    else keep (some b) m

/-- Use the content of a delivered flit. -/
def deliver (q : PortId) (seq : Nat) (h : BitVec 64) (payload : Bytes) (m : Mod) : Mod :=
  match hType h with
  | 1 => if hVc h ≤ 5 then deliverData q h payload seq m else m
  | 3 => m.updPort q (fun x => { x with rxLctl := x.rxLctl ++ [(payload, h, seq)] })
  | 4 => m.updPort q (fun x => { x with rxPv := x.rxPv ++ [payload] })
  | _ => m

/-! ### Sequencing (R255, R257) -/

/-- Holes within the reorder buffer: a new one is NAKed from one rod on (R257). A NAK that waits for a number received
meanwhile is dropped; R257 does not say whether it still goes out (DESIGN CHOICE, log 132). -/
def Port.holesNow (x : Port) (wall : Nat) : Port :=
  let d := min 64 (seqDist x.next x.ack)
  let ss := ((List.range d).map (fun i => (x.ack + i) % 4096)).filter (fun s => !x.held.any (fun h => h.1 == s))
  let fresh := ss.filter (fun s => !x.holes.any (fun h => h.seq == s))
  { x with
    holes := (x.holes.filter (fun h => ss.contains h.seq)) ++ fresh.map (fun s => { seq := s, lastNak := none })
    nakQ := (x.nakQ.filter (fun n => ss.contains n.1 || n.1 == x.next))
      ++ (fresh.filter (fun s => !x.nakQ.any (fun n => n.1 == s))).map (fun s => (s, wall + 5)) }

/-- Deliver held flits from ACK upward (R255); at most n of them. -/
def deliverHeld (q : PortId) : Nat → Mod → Mod
  | 0, m => m
  | n + 1, m =>
    let x := m.port q
    match x.held.find? (fun h => h.1 == x.ack) with
    | none => m
    | some (s, h, pl) =>
      let m := m.setPort q { x with held := x.held.filter (fun k => k.1 != s), ack := (x.ack + 1) % 4096 }
      deliverHeld q n (deliver q s h pl m)

/-- A DATA flit on VC 1 to 5 goes beyond the credits announced and reported (NO_CREDIT). -/
def Port.noCredit (x : Port) (h : BitVec 64) : Bool :=
  hType h == 1 && 1 ≤ hVc h && hVc h ≤ 5 && decide (vcBuffers.getD (hVc h - 1) 0 + x.reported[hVc h - 1]! ≤ x.used[hVc h - 1]!)

/-- Content that breaks a rule of its own (Table LNK-10): violation code. -/
def contentFault (x : Port) (h : BitVec 64) (payload : Bytes) : Option Nat :=
  let t := hType h
  if t ≥ 5 || (t == 1 && hVc h ≥ 6) || (t != 1 && hVc h != 0) then some 1
  else if t == 0 && !allZero payload then some 1
  else if t == 3 && (leAt payload 0 1 == 0 || leAt payload 0 1 > 4 || !allZero (payload.drop 18)) then some 1
  else if t == 4 && (leAt payload 1 1 != 0 || !allZero (payload.drop 12)) then some 1
  else if x.st == .narrow && (t == 2 || (t == 1 && hVc h == 0)) then some 8
  else if x.noCredit h then some 2
  else none

/-- A good sequenced flit (R255): duplicate, held, or beyond the reorder buffer. The content of one that breaks a rule is
discarded; its number still fills its place (R273). A header field that broke one has been answered already. -/
def sequenced (q : PortId) (s : Nat) (h : BitVec 64) (payload : Bytes) (hdrBad : Bool) (m : Mod) : Mod :=
  let x := m.port q
  let d := seqDist s x.ack
  let dup := d ≥ 3072 || x.held.any (fun k => k.1 == s)
  if dup then
    m.setPort q { x with counts := { x.counts with duplicates := x.counts.duplicates.add 1 } }
  else
    let next := if seqDist ((s + 1) % 4096) x.ack > seqDist x.next x.ack then (s + 1) % 4096 else x.next
    if d ≥ 64 then
      m.setPort q (({ x with next, counts := { x.counts with beyond := x.counts.beyond.add 1 } } : Port).holesNow m.wall)
    else
      let bad := if hdrBad then none else contentFault x h payload
      let gone := hdrBad || bad.isSome
      let vc := hVc h
      let use := hType h == 1 && 1 ≤ vc && vc ≤ 5
      let used := if use then x.used.set! (vc - 1) (x.used[vc - 1]! + 1) else x.used
      let h' := if gone then h &&& ~~~(0xF#64) else h
      let m := m.setPort q { x with next, used, held := x.held ++ [(s, h', if gone then [] else payload)] }
      let m := if gone && use then freePlaces q vc 1 m else m
      let m := match bad with
        | some c => violation q c h s m
        | none =>
          if hType h == 2 && !gone then m.updPort q (fun x => { x with rxHold := x.rxHold ++ [(payload, h, s)] }) else m
      if (m.port q).st == .isolated then m
      else
        let m := deliverHeld q 64 m
        m.updPort q (fun x => x.holesNow m.wall)

/-! ### Header fields (R256 to R258, R262, R274) -/

/-- The ACK of a header lies outside the range of R256. -/
def Port.ackBad (x : Port) (h : BitVec 64) : Bool := decide (seqDist x.nextSeq x.ackTaken < seqDist (hAck h) x.ackTaken)

/-- The NAKSEQ of a NAK lies below the ACK of its header (R257). -/
def Port.nakBad (_x : Port) (h : BitVec 64) : Bool := hNakK h = 1 && decide (seqDist (hNakSeq h) (hAck h) ≥ 2048)

/-- Credits that a report frees: CRCNT less the last one taken for its VC, modulo 1,024 (R262). -/
def Port.creditGain (x : Port) (h : BitVec 64) : Nat := (hCrcnt h + 1024 - x.crTaken[hCrvc h - 1]! % 1024) % 1024

/-- A credit report that names no VC of 1 to 5 or frees more than is outstanding (R262, R263). -/
def Port.creditBad (x : Port) (h : BitVec 64) : Bool :=
  let vc := hCrvc h
  let pend := ((x.crPending.filter (fun c => c.1 == vc)).map (·.2.1)).foldl (· + ·) 0
  vc = 0 || vc > 5
    || decide (x.creditGain h > (x.initRcvd.getD []).getD (vc - 1) 0 - x.credits[vc - 1]! - pend)

/-- The violation of a header field (R256, R257, R262, R273), in the order of the codes of Table LNK-10: reserved NAKK, ACK,
NAK and credit report. A flit that breaks several rules is one violation, of the first of them (DEDUCED, log 133). -/
def headerFault (x : Port) (h : BitVec 64) : Option Nat :=
  if hNakK h ≥ 2 then some 1
  else if x.ackBad h then some 3
  else if x.nakBad h then some 4
  else if x.creditBad h then some 5
  else none

/-- Take the ACK of a header that is in range. -/
def takeAck (q : PortId) (h : BitVec 64) (m : Mod) : Mod :=
  let x := m.port q
  let a := hAck h
  let adv := seqDist a x.ackTaken
  if adv = 0 || x.ackBad h then m
  else
    let buf := x.replayBuf.filter (fun o => adv ≤ seqDist o.seq x.ackTaken)
    m.setPort q { x with
      ackTaken := a, replayBuf := buf, ackSince := m.wall, goBackRun := 0
      replayQ := x.replayQ.filter (fun r => buf.any (fun o => o.seq == r.1)) }

/-- Take the NAK of a header that is in range: one replay of an outstanding flit (R258), beside one that a go-back replay has
queued (R277). -/
def takeNak (q : PortId) (h : BitVec 64) (m : Mod) : Mod :=
  let x := m.port q
  let n := hNakSeq h
  if hNakK h = 1 && !x.nakBad h && x.replayBuf.any (fun o => o.seq == n) && !x.replayQ.any (fun r => r.1 == n && !r.2.2) then
    m.setPort q { x with
      replayQ := x.replayQ ++ [(n, m.wall + 5, false)]
      counts := { x.counts with selReplays := x.counts.selReplays.add 1 } }
  else m

/-- Take the credit report of a header that is in range (R262). -/
def takeCredit (q : PortId) (h : BitVec 64) (m : Mod) : Mod :=
  let x := m.port q
  let vc := hCrvc h
  if x.creditBad h || x.creditGain h = 0 then m
  else m.setPort q { x with
    crTaken := x.crTaken.set! (vc - 1) (hCrcnt h), crPending := x.crPending ++ [(vc, x.creditGain h, m.wall + 5)] }

/-! ### Lanes that go bad (R270 to R272) -/

/-- A receive lane is marked DEGRADED or FAILED: a swap is asked for, and a spare so marked is no longer a spare. An ACTIVE
port goes NARROW where no spare is left or a swap of the direction is pending (R272, R277), and one in NARROW takes its
lanes anew. In CALIBRATE and KEEPALIVE the mark waits for the entry to ACTIVE. -/
def laneBad (q : PortId) (lane : Nat) (failed : Bool) (m : Mod) : Mod :=
  let x := m.port q
  let l := x.rxLanes[lane]!
  if l.failed || (l.degraded && !failed) then m
  else
    let pending := badLanes x.rxLanes
    let y := { x with rxLanes := x.rxLanes.set! lane { l with degraded := true, failed := l.failed || failed } }
    let m := m.setPort q y
    if !l.active then refreshReplace m
    else if pending.contains lane || !(x.carries || x.st == .calibrate) then m
    else
      let m := sendSwapReq q lane m
      if x.st == .narrow || (x.st == .active && (!pending.isEmpty || (spareLane y.rxLanes).isNone)) then portNarrow q m else m

/-- The receive mapping of a port agrees with the positions that the markers carry (R271). -/
def mapAgrees (v : Vector Lane 5) (ps : List Nat) : Bool :=
  ((activeLanes v).mapIdx (fun pos lane => ps.getD lane 0xFF == pos)).all id

/-- The markers of a frame are read (R271): where they disagree with the mapping in force, a mapping in which the spare has
taken a bad lane is applied if they agree with that one, and the frame is discarded otherwise. -/
def readMarkers (q : PortId) (ps : List Nat) (m : Mod) : Mod :=
  let x := m.port q
  if mapAgrees x.rxLanes ps then m
  else
    match ((badLanes x.rxLanes).map (swapRoles x.rxLanes)).find? (fun v => mapAgrees v ps) with
    | some v => refreshReplace (m.setPort q { x with rxLanes := v })
    | none => m.setPort q { x with rxDiscard := true }

/-- The codewords that hold a byte of the slot that arrives next, with the symbol errors of each by lane: the one that the
slot before it ended in, and the one that begins in it. -/
def Port.slotErrors (x : Port) (fec : FecReport) : List (List Nat) :=
  let k := x.rxSlots % 34
  (if k = 0 then [] else [x.fecOpen])
    ++ (if wordBegins (activeLanes x.rxLanes).length k then [fec.errors] else [])

/-- The symbol errors of a codeword, over its lanes. -/
def symbolErrors (e : List Nat) : Nat := (e.take 5).foldl (· + ·) 0

/-- What the receiver finds beside a slot (R243, R244, R269 to R271): the markers at the start of a frame, and the codewords
that hold a byte of the slot. A codeword of more than 15 symbol errors is uncorrectable, and is counted, as are the
symbols corrected of another, in the slot in which its last symbol arrives. True where the slot is corrupt: a codeword
that holds a byte of it is uncorrectable, or its frame is discarded. -/
def fecReport (q : PortId) (fec : FecReport) (m : Mod) : Bool × Mod :=
  let lanes := (activeLanes (m.port q).rxLanes).length
  let k := (m.port q).rxSlots % 34
  let m := if k = 0 then
      let m := m.updPort q (fun x => { x with rxDiscard := false })
      match fec.markers with
      | some ps => readMarkers q ps m
      | none => m
    else m
  let x := m.port q
  let words := x.slotErrors fec
  let first := (slotWords lanes k).1
  let ended := (words.zipIdx.filter (fun w => wordEnds lanes k (first + w.2))).map (·.1)
  let fixed := ended.filter (fun e => symbolErrors e ≤ 15)
  let sym (i : Nat) : Nat := (fixed.map (fun e => e.getD i 0)).foldl (· + ·) 0
  let lost := (ended.filter (fun e => symbolErrors e > 15)).length
  let m := m.setPort q { x with
    rxSlots := x.rxSlots + 1, fecOpen := words.getLastD []
    winSymbols := if x.carries then x.winSymbols.mapIdx (fun i n => n + sym i) else x.winSymbols
    counts := { x.counts with
      symbols := x.counts.symbols.mapIdx (fun i c => c.add (sym i)), uncorrectable := x.counts.uncorrectable.add lost } }
  let m := (List.range 5).foldl (fun m i =>
    if sym i > 0 && (m.port q).winSymbols[i]! > 131072 then laneBad q i false m else m) m
  (x.rxDiscard || words.any (fun e => symbolErrors e > 15), m)

/-- A corrupt flit (R248, R257, R270); a window counts it in ACTIVE and NARROW alone (R269). -/
def corruptFlit (q : PortId) (m : Mod) : Mod :=
  let m := m.updPort q (fun x =>
    { x with winCorrupt := if x.carries then x.winCorrupt + 1 else x.winCorrupt
             counts := { x.counts with corrupt := x.counts.corrupt.add 1 }
             nakQ := if x.nakQ.any (fun n => n.1 == x.next) then x.nakQ else x.nakQ ++ [(x.next, m.wall + 5)] })
  if (m.port q).winCorrupt > 4096 then portDown q m else m

/-- Count a received slot; a window of 2^20 slots that ends starts the counts again. Slots count in ACTIVE and NARROW
(R269). -/
def countSlot (x : Port) : Port :=
  if x.st == .calibrate then x
  else if x.slots % 2 ^ 20 = 0 then
    { x with slots := x.slots + 1, winCorrupt := 0, winSymbols := Vector.replicate 5 0, winViol := 0 }
  else { x with slots := x.slots + 1 }

/-- A good flit: its header fields that break no rule are taken, then it takes its place in the sequence (R273). A port that
a violation isolates takes nothing more of it (R275). -/
def goodFlit (q : PortId) (w : Option Nat) (h : BitVec 64) (payload : Bytes) (m : Mod) : Mod :=
  let seq := w.getD 0xFFFF
  let m := m.updPort q (fun x => { x with rxDomain := hDomain h })
  let bad := headerFault (m.port q) h
  let m := takeCredit q h (takeNak q h (takeAck q h m))
  let bad := if bad.isSome then bad else if w.isNone then contentFault (m.port q) h payload else none
  let m := match bad with
    | some c => violation q c h seq m
    | none => m
  match w with
  | some s => if (m.port q).st == .isolated then m else sequenced q s h payload bad.isSome m
  | none => m

/-- A flit arrives whole. -/
def receiveFlit (q : PortId) (bytes : Bytes) (fec : FecReport) (m : Mod) : Mod :=
  let (spoiled, m) := fecReport q fec (m.updPort q countSlot)
  let x := m.port q
  if !x.carries && x.st != .calibrate then m
  else
    let h := BitVec.ofNat 64 (leAt bytes 0 8)
    match spoiled, windowHits x (sliceB bytes 0 248) (BitVec.ofNat 64 (leAt bytes 248 8)) with
    | false, [w] => if (hType h == 0) != w.isNone then corruptFlit q m else goodFlit q w h (sliceB bytes 8 240) m
    | _, _ => corruptFlit q m

/-- FLIT_RECEIVE: the last symbol of a flit arrives in the present cycle. A port in another state than CALIBRATE,
ACTIVE or NARROW discards it. -/
def execFlitReceive (q : PortId) (flit : BitVec 2048) (fec : FecReport) (s : State) : Host.Outcome State Fault Refusal :=
  let x := s.m.port q
  if !x.carries && x.st != .calibrate then .next s
  else .next { s with m := receiveFlit q (leBytes 256 flit.toNat) fec s.m }

/-! ### Rows that act on delivered flits -/

/-- HOLD_NOTICE (R52 to R54): the oldest HOLD accepted on the port. A hold recorded at the present plan cycle that has not
begun yet still takes extensions. -/
def holdNotice (q : PortId) (m : Mod) : Mod :=
  match (m.port q).rxHold with
  | [] => m
  | (b, h, seq) :: rest =>
    let m := m.updPort q (fun x => { x with rxHold := rest })
    if !noticeGood b (m.port q).domain then violation q 7 h seq m
    else
      match m.partOfPort q with
      | none => m
      | some p =>
        let x := m.part p
        let n := Notice.parse b
        if x.member.st != .committed && x.member.st != .running then m
        else if (match x.standing with | some st => st.target == n.target | none => false) || x.ctr < n.target
            || (x.ctr == n.target && (x.hold n.target).isSome) then
          match x.hold n.target with
          | some e => if n.ext ≤ e.ext then m else spread p n b m
          | none => spread p n b m
        else failNode p cHoldLate 0 q.val m
where
  /-- Record a notice and forward it on every other port of the domain. -/
  spread (p : Part) (n : Notice) (b : Bytes) (m : Mod) : Mod :=
    let m := m.updPart p (recordHold n)
    ((m.domainPorts p).filter (· != q)).foldl (queueHold b) m

def execHoldNotice (q : PortId) (s : State) : Host.Outcome State Fault Refusal := .next { s with m := holdNotice q s.m }

/-- Take the oldest LCTL of a port where it carries the code. -/
def frontLctl (q : PortId) (code : Nat) (m : Mod) : Option (Bytes × BitVec 64 × Nat) :=
  match (m.port q).rxLctl with
  | e :: _ => if leAt e.1 0 1 == code then some e else none
  | [] => none

/-- Remove the oldest LCTL of a port. -/
def dropLctl (q : PortId) (m : Mod) : Mod := m.updPort q (fun x => { x with rxLctl := x.rxLctl.drop 1 })

/-- INIT (R266). -/
def linkInit (q : PortId) (m : Mod) : Mod :=
  match frontLctl q 1 m with
  | none => m
  | some (b, h, seq) =>
    let m := dropLctl q m
    let bufs := (List.range 5).map (fun i => leAt b (5 + 2 * i) 2)
    if (bufs.zip vcBuffers).any (fun e => e.1 > e.2) then violation q 9 h seq m
    else if (m.port q).st != .calibrate then m
    else
      let m := m.updPort q (fun x =>
        { x with initRcvd := some bufs, partner := some (BitVec.ofNat 24 (leAt b 1 3), leAt b 4 1) })
      tryActivate q m

def execInit (q : PortId) (s : State) : Host.Outcome State Fault Refusal := .next { s with m := linkInit q s.m }

/-- KA_REQ (R268): answered once this end's direction is drained; from both ends, each takes the partner's as its
answer. -/
def kaReq (q : PortId) (m : Mod) : Mod :=
  match frontLctl q 2 m with
  | none => m
  | some _ =>
    let x := m.port q
    if !x.drained then m
    else
      (dropLctl q m).updPort q (fun y => { y with
        kaRcvd := true, txLctl := if x.kaSent.isSome then y.txLctl else y.txLctl ++ [lctlFlit 3 []] })

def execKaReq (q : PortId) (s : State) : Host.Outcome State Fault Refusal := .next { s with m := kaReq q s.m }

/-- KA_ACK (R268): the port has sent a KA_REQ and now holds its answer. It leaves at its next frame boundary. -/
def kaAck (q : PortId) (m : Mod) : Mod :=
  match frontLctl q 3 m with
  | none => m
  | some _ => (dropLctl q m).updPort q (fun x => { x with kaRcvd := x.kaRcvd || x.kaSent.isSome })

def execKaAck (q : PortId) (s : State) : Host.Outcome State Fault Refusal := .next { s with m := kaAck q s.m }

/-- KA_REQ_RETRY (R268): 400 rods after an unanswered KA_REQ. -/
def execKaReqRetry (q : PortId) (s : State) : Host.Outcome State Fault Refusal :=
  match (s.m.port q).kaSent with
  | none => .next s
  | some t =>
    if (s.m.port q).st != .active || (s.m.port q).kaRcvd then .next s
    else
      let m := advanceWall (t + 2000) s.m
      .next { s with m := m.updPort q (fun x =>
        if x.st == .active && x.kaSent == some t then
          { x with kaSent := some m.wall, txLctl := x.txLctl ++ [lctlFlit 2 []] }
        else x) }

/-- Mark transmit lanes failed. -/
def Port.failTx (x : Port) (ls : List Nat) : Port :=
  { x with txLanes := x.txLanes.mapIdx (fun i l => if ls.contains i then { l with failed := true } else l) }

/-- SWAP_REQ (R271, R272): a swap of this end's transmit direction is scheduled, with a hold where planned traffic of a
running plan uses the port: that of the notice, or one in progress with at least 85 rods left. Without a spare, or with
a swap pending, the lanes concerned are failed and an ACTIVE port goes NARROW. -/
def swapReq (q : PortId) (m : Mod) : Mod :=
  match frontLctl q 4 m with
  | none => m
  | some (b, _, _) =>
    let m := dropLctl q m
    let lane := leAt b 17 1
    let x := m.port q
    if lane > 4 || !(x.txLanes[lane]!).active || x.swapLane == some lane then m
    else if x.st == .narrow || (spareLane x.txLanes).isNone || x.swapLane.isSome then
      let m := m.setPort q { x.failTx (lane :: x.swapLane.toList) with swapLane := none, swapTarget := none }
      if x.carries then portNarrow q m else m
    else
      let at_ (target : Option Nat) (m : Mod) : Mod :=
        m.updPort q (fun x => { x with swapLane := some lane, swapTarget := target })
      match m.partOfPort q with
      | none => at_ none m
      | some p =>
        let y := m.part p
        if y.running && m.planUses p q then
          match y.standing.filter (fun st => decide (m.wall + 5 * 85 ≤ y.holdEndsAt st)) with
          | some st => at_ (some st.target) m
          | none => issueNow p rLaneSwap q.val (at_ (some (5 * gridAhead y.rod y.member.params.g)) m)
        else at_ none m

def execSwapReq (q : PortId) (s : State) : Host.Outcome State Fault Refusal := .next { s with m := swapReq q s.m }

/-- A swap that awaits a hold may take place: the plan has stopped, or its counter stands in that hold or a later one. -/
def swapMay (q : PortId) (m : Mod) : Bool :=
  match (m.port q).swapTarget, m.partOfPort q with
  | some t, some p =>
    let y := m.part p
    !y.running || y.standing.any (fun st => decide (t ≤ st.target) && decide (m.wall < y.holdEndsAt st))
  | _, _ => true

/-- LANE_SWAP (R271): at a frame boundary the spare takes over the named transmit lane, inside a hold where planned
traffic uses the port; with no swap of this end waiting, the receiver takes the partner's new mapping of a lane
it has marked. -/
def laneSwap (q : PortId) (m : Mod) : Mod :=
  match (m.port q).swapLane with
  | some lane =>
    if !swapMay q m then m
    else
      let m := advanceWall (m.nextFrame q m.wall) m
      let x := m.port q
      if !swapMay q m || x.swapLane != some lane then m
      else refreshReplace (m.setPort q { x with txLanes := swapRoles x.txLanes lane, swapLane := none, swapTarget := none })
  | none =>
    let x := m.port q
    match (badLanes x.rxLanes).head? with
    | some lane => refreshReplace (m.setPort q { x with rxLanes := swapRoles x.rxLanes lane })
    | none => m

def execLaneSwap (q : PortId) (s : State) : Host.Outcome State Fault Refusal := .next { s with m := laneSwap q s.m }

/-- PV (R273): counted, and nothing else in it is acted on. -/
def execPv (q : PortId) (s : State) : Host.Outcome State Fault Refusal :=
  match (s.m.port q).rxPv with
  | [] => .next s
  | _ :: rest => .next { s with m := s.m.updPort q (fun x =>
      { x with rxPv := rest, counts := { x.counts with pvReceived := x.counts.pvReceived.add 1 } }) }

/-- Hop latency of a port in rods. -/
def Port.hop (x : Port) : Nat := hopRods (x.latency.getD 0)

/-- NAK_RESEND (R257): the hole whose last NAK is oldest, 2h + 6 rods after it; its NAK leaves at least 1 rod later. -/
def execNakResend (q : PortId) (s : State) : Host.Outcome State Fault Refusal :=
  let x := s.m.port q
  let due := x.holes.filterMap (fun h => h.lastNak.map (fun t => (h.seq, t)))
  match sortBy (fun (e : Nat × Nat) => e.2) due with
  | [] => .next s
  | (seq, t) :: _ =>
    let m := advanceWall (t + 5 * (2 * x.hop + 6)) s.m
    .next { s with m := m.updPort q (fun y =>
      if y.holes.any (fun h => h.seq == seq && h.lastNak == some t) && !y.nakQ.any (fun n => n.1 == seq) then
        { y with nakQ := y.nakQ ++ [(seq, m.wall + 5)] }
      else y) }

/-- The last cycle of the rod of a port that holds wall time w. -/
def Mod.rodEnd (m : Mod) (q : PortId) (w : Nat) : Nat := w + (4 - (w + m.rodPhase q) % 5)

/-- GO_BACK_REPLAY (R259): the ACK has not advanced for 400 rods, nor in the rest of the rod in which they end; every
outstanding flit is replayed, one that a NAK names beside its own replay (R277). After 4 such replays in a row the port
enters DOWN. -/
def execGoBackReplay (q : PortId) (s : State) : Host.Outcome State Fault Refusal :=
  let x := s.m.port q
  if x.replayBuf.isEmpty || !x.carries then .next s
  else
    let due := max (x.ackSince + 2000) s.m.wall
    let m := advanceWall (s.m.rodEnd q due) s.m
    let y := m.port q
    if !y.carries || y.ackSince != x.ackSince then .next { s with m := m }
    else if y.goBackRun ≥ 4 then .next { s with m := portDown q m }
    else
      let more := (y.replayBuf.filter (fun o => !y.replayQ.any (fun r => r.1 == o.seq && r.2.2))).map
        (fun o => (o.seq, m.wall, true))
      .next { s with m := m.setPort q { y with
        replayQ := y.replayQ ++ more, ackSince := m.wall, goBackRun := y.goBackRun + 1
        counts := { y.counts with goBacks := y.counts.goBacks.add 1 } } }

/-- The receiver of a port keeps symbol lock on its lanes (R265). -/
def Port.locked (x : Port) : Bool :=
  x.carries || x.st == .calibrate || x.st == .keepalive || x.st == .isolated

/-- LOSS_OF_SYMBOL_LOCK (R270): 1 us without lock on a receive lane. -/
def execLossOfSymbolLock (q : PortId) (lane : Fin 5) (s : State) : Host.Outcome State Fault Refusal :=
  if (s.m.port q).locked then .next { s with m := laneBad q lane.val true s.m } else .next s

/-- PRBS31_CHECK (R269, R270): the errors of a window on a spare lane, or on a lane of a port in KEEPALIVE. -/
def execPrbs31Check (q : PortId) (lane : Fin 5) (errors : Nat) (s : State) : Host.Outcome State Fault Refusal :=
  let x := s.m.port q
  let l := x.rxLanes[lane.val]!
  if errors ≤ 131072 || l.failed || !((x.carries && !l.active) || x.st == .keepalive) then .next s
  else .next { s with m := refreshReplace (s.m.setPort q { x with
      rxLanes := x.rxLanes.set! lane.val { l with degraded := true } }) }

/-- ALIGN_LOST (R36): the port carries unplanned traffic only until it retrains, and a domain whose slot tables
use it fails. -/
def execAlignLost (q : PortId) (s : State) : Host.Outcome State Fault Refusal :=
  if (s.m.port q).st != .active then .next s
  else
    let m := match s.m.partOfPort q with
      | some p => if s.m.planUses p q then failNode p cAlignLost 0 q.val s.m else s.m
      | none => s.m
    .next { s with m := m.updPort q (fun x => { x with alignLost := true, planned := [], displacedQ := [], txHold := [] }) }

/-! ### Training (R36, R242, R260, R265, R459) -/

/-- A port enters TRAIN; it is not told of a new calibration until it ends. -/
def portTrain (q : PortId) (m : Mod) : Mod :=
  m.updPort q (fun x => { x.fresh.goto .train m.wall with stored := x.latency.isSome, trainReport := 0 })

/-- TRAIN_START (R265): the partner starts training. No port leaves DOWN before NODE_ADDR is written (R279), nor
while the fast clock is stopped. -/
def execTrainStart (q : PortId) (s : State) : Host.Outcome State Fault Refusal :=
  if (s.m.port q).st != .down || !s.m.regs.nodeWritten || s.hub.clock == .off then .next s
  else .next { s with m := portTrain q s.m }

/-- TRAIN_COMPLETE (R265, R36): the lanes that trained take their roles; the latency is half the round trip,
rounded up to a whole cycle; beyond 198 rods the port leaves CALIBRATE for DOWN (R260). -/
def trainComplete (q : PortId) (rx tx : BitVec 5) (roundTrip : Nat) (m : Mod) : Mod :=
  let x := m.port q
  let lat := ceilDiv roundTrip 2
  let vr := trainedRoles x.rxLanes rx
  let vt := trainedRoles x.txLanes tx
  let y := { x with
    rxLanes := vr, txLanes := vt, alignLost := false
    narrowBuild := decide ((activeLanes vr).length < 4) || decide ((activeLanes vt).length < 4) }
  let m := portCalibrate q (refreshReplace (m.setPort q y))
  if hopRods lat > 198 then
    (portDown q m).updPort q (fun x => { x with trainReport := 3 })
  else
    let m := m.updPort q (fun x => { x with latency := some lat })
    let init := m.initFlit q
    m.updPort q (fun x => { x with txLctl := init :: x.txLctl.drop 1 })

def execTrainComplete (q : PortId) (rx tx : BitVec 5) (roundTrip : Nat) (s : State) : Host.Outcome State Fault Refusal :=
  let x := s.m.port q
  if x.st != .train || (activeLanes (trainedRoles x.rxLanes rx)).isEmpty || (activeLanes (trainedRoles x.txLanes tx)).isEmpty
  then .next s
  else .next { s with m := trainComplete q rx tx roundTrip s.m }

/-- TRAIN_FAILED (R265, R459): three attempts of at most 2 ms with stored calibration, or 100 ms without; a lane
wired to another lane number fails the training at once. -/
def execTrainFailed (q : PortId) (laneOrder : Bool) (s : State) : Host.Outcome State Fault Refusal :=
  let x := s.m.port q
  if x.st != .train then .next s
  else
    let m := if laneOrder then s.m else advanceWall (x.enteredAt + 3 * (if x.stored then ms 2 else ms 100)) s.m
    if (m.port q).st != .train then .next { s with m := m }
    else .next { s with m := (portDown q m).updPort q (fun x => { x with trainReport := if laneOrder then 2 else 1 }) }

/-- CALIBRATE_TIMEOUT (R265): CALIBRATE has lasted 100 us. -/
def execCalibrateTimeout (q : PortId) (s : State) : Host.Outcome State Fault Refusal :=
  let x := s.m.port q
  if x.st != .calibrate then .next s
  else
    let m := advanceWall (x.enteredAt + us 100) s.m
    if (m.port q).st != .calibrate then .next { s with m := m } else .next { s with m := portDown q m }

/-- The hub begins its wake from STANDBY: the fast clock acquires its reference (R60, Table TIM-1). -/
def Hub.beginWake (h : Hub) (source wall : Nat) : Hub :=
  if h.power.st != .standby || h.power.waking then h
  else { h with power := { h.power with waking := true, lastWake := source }, clock := .acquiring, clockSince := wall }

/-- KEEPALIVE_EXIT (R265, R418): either end leaves STANDBY, and the stored latency is used. A module in STANDBY is woken
by the partner that leaves it. -/
def execKeepaliveExit (q : PortId) (s : State) : Host.Outcome State Fault Refusal :=
  if (s.m.port q).st != .keepalive then .next s
  else .next { s with m := portCalibrate q s.m, hub := s.hub.beginWake 5 s.m.wall }

end Sys2Proof.Machine
end

