-- ==== Sys2Proof/Machine/Requests.lean ====
section
/-!
DEFINITION. The requests that the serving firmware holds (R328 to R330): page-table entries, the write bound, the end
of a step in the firmware's records, and the release of requests and firkins.
-/
namespace Sys2Proof.Machine

/-! ### Page tables (R235, R328) -/

/-- Entries of a page table. -/
def ServingDesc.entries (v : ServingDesc) : Nat := 8 * v.ptlines

/-- Byte address of entry j of the table of slot q for partition-relative tile t, in a partition of n tiles. -/
def ServingDesc.entryAt (v : ServingDesc) (n q t j : Nat) : Nat := 64 * (v.ptline + (q * n + t) * v.ptlines) + 8 * j

/-- The entry of a firkin in HBM, at the place the firmware gave it (Table MEM-5). -/
def hbmEntry (bays place : Nat) : Nat := 1 + place % max 1 bays * 4 + place / 8 % 2 ^ 30 * 2 ^ 8

/-- The entry of a firkin in the CXL tier. -/
def tierEntry (page : Nat) : Nat := 3 + page % 2 ^ 30 * 2 ^ 8

/-- Write the entries of firkins js of a page-table slot for every tile: entry of tile t and firkin j. -/
def putEntries (p : Part) (q : Nat) (js : List Nat) (entry : Nat → Nat → Nat) (m : Mod) : Mod :=
  let x := m.part p
  match x.serving.desc, x.bayAt 0 with
  | some v, some b =>
    let n := 8 * x.bays.length
    let ws := (List.range n).flatMap (fun t => (js.filter (· < v.entries)).map (fun j =>
      (v.entryAt n q t j, leBytes 8 (entry t j))))
    writeHbm (toFin 8 b) ws m
  | _, _ => m

/-- Lines of a firkin of the running plan (R236). -/
def Partition.firkinSize (x : Partition) : Nat := 1 + Config.firkinLines ((x.member.desc.map (·.plan)).getD 0) % 65535

/-- The first window page that the firmware gives a firkin. -/
def tierPage (es : List (Nat × Nat × Nat)) (size h j t : Nat) : Nat :=
  Config.firkinPlace true h j t % max 1 (extentPages es + 1 - ceilDiv size 64)

/-- Write every entry of a request anew, as its firkins lie. -/
def restoreEntries (p : Part) (m : Mod) (q : Request) : Mod :=
  let x := m.part p
  let h := q.handle.toNat
  let es := (x.extents).getD []
  putEntries p q.pts q.firkins (fun t j =>
    if q.tierFirkins.contains j then tierEntry (tierPage es x.firkinSize h j t)
    else hbmEntry x.bays.length (Config.firkinPlace false h j t)) m

/-! ### Steps and the requests they name -/

/-- Positions that a step may write for a record (R329): the depth limit and one more for decode, else the run. -/
def NameRec.reach (r : NameRec) : Nat := if r.kind = 3 then r.depth + 1 else r.run

/-- Uncommitted names of a request: of the accepted commit, of the step in progress where it runs, and of the run steps
that ended. -/
def Serving.names (v : Serving) : List NameRec :=
  (v.commit.map (·.names)).getD []
    ++ (match v.current with | some c => if c.ran then c.names else [] | none => [])
    ++ v.steps.flatMap (·.names)

/-- The write bound W of a request (R329). -/
def Serving.bound (v : Serving) (q : Request) : Nat :=
  ((v.names.filter (·.id == q.id)).map NameRec.reach).foldl (· + ·) q.k

/-- Firkins that cover the positions below a bound. -/
def firkinsBelow (w : Nat) : List Nat := List.range (ceilDiv w 64)

/-- A step whose table is committed has not ended. -/
def stepBusy (x : Partition) (v : ServingDesc) (s : Nat) : Bool :=
  (x.serving.commit.isSome && decide (x.serving.nextStep ≤ s)) || (x.stepNow v).any (fun c => c.step ≤ s)

/-- The last step whose table is committed: what a freed firkin waits for (R329). -/
def Serving.lastTable (v : Serving) : Option Nat :=
  if v.commit.isSome then some v.nextStep else v.current.map (·.step)

/-- A step that ran names a request. -/
def StepRec.has (r : StepRec) (k : Nat) : Bool := r.names.any (·.id == k)

/-- The release point of a request has not passed: a step whose table names it has not ended (R330). -/
def Request.held (q : Request) (x : Partition) (v : ServingDesc) : Bool :=
  x.serving.commit.any (fun c => c.names.any (·.id == q.id)) || (x.stepNow v).any (·.has q.id)

/-- The step in progress ends in the firmware's records once its furlongs have passed. -/
def Partition.closeStep (x : Partition) (v : ServingDesc) : Partition :=
  match x.serving.current with
  | none => x
  | some c =>
    if (x.stepNow v).isSome then x
    else
      let sv := { x.serving with current := none }
      { x with serving := if c.ran then { sv with steps := sv.steps ++ [c], lastRun := some (c.step, c.out) } else sv }

def closeStep (p : Part) (m : Mod) : Mod :=
  m.updPart p (fun x => match x.serving.desc with
    | some v => x.closeStep v
    | none => x)

/-! ### Ends of requests (R327, R330) -/

/-- STEP of a record outside a step. -/
def noStep : Nat := 2 ^ 64 - 1

/-- The record of a request's end outside a step. -/
def Request.endRecord (q : Request) (code : Nat) : ResultRec :=
  { handle := q.handle, k := q.k, step := noStep, ntok := 0, endCode := code, total := q.total, tokens := [] }

/-- Change one request. -/
def updRequest (p : Part) (k : Nat) (f : Request → Request) (m : Mod) : Mod :=
  m.updPart p (fun x => { x with serving := { x.serving with
    requests := x.serving.requests.map (fun q => if q.id == k then f q else q) } })

/-- The request that firmware holds under a number. -/
def Serving.numbered (v : Serving) (k : Nat) : Option Request := v.requests.find? (fun q => q.id == k)

/-- The request that a handle names; one that is ENDED is no more. -/
def Serving.live (v : Serving) (h : BitVec 32) : Option Request :=
  v.requests.find? (fun q => q.handle == h && q.st != .ended)

/-- A request is ENDED: its firkins are freed and its record with END is posted where no commit did so. The firmware keeps it
until the run steps that named it are committed, for their records (R327), and holds it no more then. -/
def endRequest (p : Part) (q : Request) (m : Mod) : Mod :=
  let m := putEntries p q.pts (q.firkins ++ q.freeAfter.map (·.1)) (fun _ _ => 0) m
  m.updPart p (fun x =>
    let ended : Request := { q with st := .ended, endPosted := true, firkins := [], tierFirkins := [], freeAfter := []
                                    expiry := none }
    let others := x.serving.requests.filter (fun r => r.id != q.id)
    { x with serving := { x.serving with
        requests := if x.serving.steps.any (·.has q.id) then others ++ [ended] else others
        records := if q.endPosted then x.serving.records else x.serving.records ++ [q.endRecord q.endCode] } })

/-- Settle one request: freed firkins whose steps have ended lose their entries (R329); one in ENDING whose release
point has passed is ENDED. -/
def settleRequest (p : Part) (v : ServingDesc) (m : Mod) (k : Nat) : Mod :=
  let x := m.part p
  match x.serving.numbered k with
  | none => m
  | some q =>
    let due := q.freeAfter.filter (fun e => !stepBusy x v e.2)
    let m := if due.isEmpty then m else
      updRequest p k (fun q => { q with
        freeAfter := q.freeAfter.filter (fun e => stepBusy x v e.2)
        tierFirkins := q.tierFirkins.filter (fun j => !due.any (·.1 == j)) })
        (putEntries p q.pts (due.map (·.1)) (fun _ _ => 0) m)
    let q := { q with freeAfter := q.freeAfter.filter (fun e => stepBusy x v e.2) }
    if q.st == .ending && !q.held x v && q.freeAfter.isEmpty then endRequest p q m else m

/-- Settle every request of a partition. -/
def settleRequests (p : Part) (m : Mod) : Mod :=
  let x := m.part p
  match x.serving.desc with
  | none => m
  | some v =>
    let m := (x.serving.requests.map (·.id)).foldl (settleRequest p v) m
    m.updPart p (fun x => { x with serving := { x.serving with
      requests := x.serving.requests.filter (fun q => q.st != .ended || x.serving.steps.any (·.has q.id)) } })

/-! ### The clean array (R324, R325) -/

/-- Every entry of the clean array of the lead exceeds s, and can be read. -/
def Mod.allClean (m : Mod) (p : Part) (s : Nat) : Bool :=
  match m.servingWindow p with
  | none => false
  | some (v, n, b) =>
    (List.range (ceilDiv n 8)).all (fun i => !m.lineBad (.hbm (toFin 8 b) (v.clean + i)))
      && (List.range n).all (fun i => decide (s < leNat ((m.hbm.get (toFin 8 b)).read (64 * v.clean + 8 * i) 8)))

/-- Write the clean entry of member k of the lead, which only rises. -/
def raiseClean (b : Fin 8) (v : ServingDesc) (k val : Nat) (m : Mod) : Mod :=
  let a := 64 * v.clean + 8 * k
  writeHbm b [(a, leBytes 8 (max val (leNat ((m.hbm.get b).read a 8))))] m

/-- A run of bytes written into the clean array by other members: each entry takes the larger value. -/
def raiseEntries (b : Fin 8) (a : Nat) (bs : Bytes) (m : Mod) : Mod :=
  let old := (m.hbm.get b).read a bs.length
  writeHbm b [(a, (List.range (bs.length / 8)).flatMap (fun i => leBytes 8 (max (leAt bs (8 * i) 8) (leAt old (8 * i) 8))))] m

/-! ### The end of a job -/

/-- What the serving firmware keeps as its member enters IDLE (R325, R326): a run step that has met every condition of
its commit can still be committed; every other has failed. -/
def settleJob (p : Part) (m : Mod) : Mod :=
  let m := closeStep p m
  let m := m.updPart p (fun x => { x with serving := { x.serving with
    steps := x.serving.steps.filter (fun s => s.step < x.serving.ended && m.allClean p s.step), commit := none } })
  settleRequests p m

/-- A new job of the partition begins at step 0, with every buffer free and the clean array of the lead at zero. -/
def newServingJob (p : Part) (m : Mod) : Mod :=
  let m := match m.servingWindow p with
    | some (v, n, b) => writeHbm (toFin 8 b) [(64 * v.clean, List.replicate (64 * ceilDiv n 8) 0)] m
    | none => m
  settleRequests p (m.updPart p (fun x => { x with serving := { x.serving with
    nextStep := 0, commit := none, outBusy := [], toRelease := [], releasedAt := [], freshLines := [], nextOut := 0, lastRun := none
    current := none, steps := [], ended := 0
    records := x.serving.records.map (fun r => { r with out := none }) } }))

end Sys2Proof.Machine
end

