-- ==== Sys2Proof/Machine/Packets.lean ====
section
/-!
DEFINITION. Fabric packets at a member (R285 to R296): where a bay offset lies, the rows that sink each kind of
packet, the routing of unplanned packets, and the requests a member has originated.
-/
namespace Sys2Proof.Machine

/-! ### Bay offsets (Table MEM-7) -/

/-- What a bay offset names. -/
inductive BayPlace where
  | hbm (addr : Nat)
  | store (tile addr : Nat)
  deriving DecidableEq, Repr, Inhabited

/-- The place of n bytes at a bay offset, where they lie in one space. -/
def bayPlace (off n : Nat) : Option BayPlace :=
  if off % 64 != 0 then none
  else if off + n ≤ 64 * hbmLines then some (.hbm off)
  else if lsWindow ≤ off && off < lsWindow + 8 * lsBytes then
    let i := (off - lsWindow) / lsBytes
    let a := (off - lsWindow) % lsBytes
    if a + n ≤ lsBytes then some (.store i a) else none
  else none

/-- Lines of n bytes at an address. -/
def linesOf (a n : Nat) : List Nat := if n = 0 then [] else span (a / 64) ((a + n - 1) / 64)

/-- Write bytes of a partition at a place of a bay. The mesh ingress of the bay checks the partition tag (R386). -/
def writeBay (p : Part) (b : Nat) (w : BayPlace) (bs : Bytes) (m : Mod) : Mod :=
  if !(m.part p).bayMask.getLsbD b then meshFenced m
  else
  match w with
  | .hbm a =>
    let b := toFin 8 b
    clearLineErr ((linesOf a bs.length).map (LineRef.hbm b ·)) (writeHbm b [(a, bs)] m)
  | .store i a =>
    let t : TileId := toFin 64 (8 * b + i)
    clearLineErr ((linesOf a bs.length).map (LineRef.localStore (m.physOf t) ·)) (writeStore t [(a, bs)] m)

/-- Read bytes at a place of a bay; nothing where a line has an uncorrectable error (R227). -/
def readBay (m : Mod) (b : Nat) (w : BayPlace) (n : Nat) : Option Bytes :=
  match w with
  | .hbm a =>
    let b := toFin 8 b
    if (linesOf a n).any (fun l => m.lineBad (.hbm b l)) then none else some ((m.hbm.get b).read a n)
  | .store i a =>
    let t : TileId := toFin 64 (8 * b + i)
    if (linesOf a n).any (fun l => m.lineBad (.localStore (m.physOf t) l)) then none
    else some ((m.store t).read a n)

/-- The correctable lines that a read of n bytes at a place meets are counted and queued for their rewrite (R226). -/
def noteRead (p : Part) (b : Nat) (w : BayPlace) (n : Nat) (m : Mod) : Mod :=
  match w with
  | .hbm a => countSoft p 2 ((linesOf a n).map (LineRef.hbm (toFin 8 b) ·)) m
  | .store i a => countSoft p 0 ((linesOf a n).map (LineRef.localStore (m.physOf (toFin 64 (8 * b + i))) ·)) m

/-! ### The reserved share (R238) -/

/-- A user of the reserved share, in the order of Table MEM-6. -/
inductive ShareUser where
  | inbound | phyCalibration | rewrite | digest | telemetry | scrub
  deriving DecidableEq, Repr, Inhabited

/-- The order in which the first, or the second, slot of a pair serves the users. -/
def serveOrder (second : Bool) : List ShareUser :=
  if second then [.scrub, .phyCalibration, .rewrite, .digest, .telemetry, .inbound]
  else [.inbound, .phyCalibration, .rewrite, .digest, .telemetry, .scrub]

/-- The user that a slot serves, by the work that the users have. -/
def serveNext (second : Bool) (work : ShareUser → Bool) : Option ShareUser := (serveOrder second).find? work

/-- The bay of a line. -/
def lineBay (l : LineRef) : Nat :=
  match l with
  | .localStore q _ => q.val / 9
  | .hbm b _ => b.val

/-- The work in a bay's reserved slots while one user takes its turn: what waits in State is a rewrite, and unplanned
inbound data. -/
def Mod.shareWork (m : Mod) (b : Nat) (u v : ShareUser) : Bool :=
  v == u || (v == .rewrite && m.rewrites.any (fun l => lineBay l == b))
    || (v == .inbound && (match m.partOfBay b with
        | some p => (m.part p).ports.any (fun q => (span 1 5).any (fun v => !((m.port q).pkts[v]!).isEmpty))
        | none => false))

/-- A user takes the first reserved slot of a bay that its turn allows: the present one, or else the other of its pair,
the present one having served a user ahead of it. -/
def takeShare (u : ShareUser) (b : Nat) (m : Mod) : Mod :=
  if serveNext (m.secondSlot.getLsbD b) (m.shareWork b u) == some u then { m with secondSlot := m.secondSlot ^^^ (1#8 <<< b) } else m

/-! ### Queues of packets -/

/-- Status codes of Table FAB-6. -/
def stOk : Nat := 0
def stWindow : Nat := 1
def stNotMember : Nat := 2
def stMemUe : Nat := 3
def stTimeout : Nat := 4

/-- The packet at the head of a receive queue. -/
def headPacket (q : PortId) (vc : Nat) (m : Mod) : Option Packet := ((m.port q).pkts[vc]!).head?

/-- Take the packet at the head of a receive queue: its places are freed, and the next one's wait begins. -/
def popPacket (q : PortId) (vc : Nat) (m : Mod) : Mod :=
  match (m.port q).pkts[vc]! with
  | [] => m
  | pk :: rest =>
    let rest := match rest with
      | [] => []
      | r :: more => { r with since := max r.since m.wall } :: more
    freePlaces q vc pk.flits (m.updPort q (fun x => { x with pkts := x.pkts.set! vc rest }))

/-- The first of some VCs whose head packet is of a kind and has reached its destination; an MCAST reaches every
member of its line. -/
def arrived (q : PortId) (kind : Nat) (vcs : List Nat) (m : Mod) : Option (Nat × Packet) :=
  vcs.findSome? (fun vc =>
    match headPacket q vc m with
    | some pk => if pkKind pk.header == kind && (kind == kMcast || pkDnode pk.header == m.node) then some (vc, pk) else none
    | none => none)

/-- The target of a packet at its destination (R287): its place, or a status code. -/
def packetTarget (x : Partition) (bay off n : Nat) : Except Nat BayPlace :=
  if !x.hasBay bay then .error stNotMember
  else match bayPlace off n with
    | some w => .ok w
    | none => .error stWindow

/-- Queue an answer on VC RS toward member k of the domain. -/
def sendAnswer (p : Part) (k : Nat) (hdr : BitVec 128) (body : Bytes) (m : Mod) : Mod :=
  match m.escapePort p k with
  | some q => queueVc (toFin 16 q) 2 (packetFlits 2 (m.domainId p) hdr body) m
  | none => m

/-- The escape port toward a member holds an RS credit (R296). -/
def answerCredit (p : Part) (k : Nat) (m : Mod) : Bool :=
  match m.escapePort p k with
  | some q => decide ((m.port (toFin 16 q)).creditOf 2 m.wall > 0)
  | none => false

/-- The member a packet comes from. -/
def Mod.sourceOf (m : Mod) (p : Part) (pk : Packet) : Option Nat :=
  match (m.part p).member.desc with
  | some d => d.memberOf (pkSnode pk.header)
  | none => none

/-- The header of a STATUS that answers a packet. -/
def statusHeader (m : Mod) (h : BitVec 128) (code : Nat) : BitVec 128 :=
  packetHeader (pkSnode h) (pkSbay h) kStatus code m.node (pkDbay h) 0 (pkTag h) 0

/-! ### PWRITE (R47, R287) -/

def cLateFlit : Nat := 0x0021
def cPlTarget : Nat := 0x0025

/-- Lines [l, l + n) lie wholly in the receiving half of a declared bin of a tile in furlong f. -/
def inReceiving (x : Tile) (f l n : Nat) : Bool :=
  (List.range 64).any (fun j =>
    match x.bin j with
    | some (base, half) =>
      let lo := base + f % 2 * half
      decide (lo ≤ l) && decide (l + n ≤ lo + half)
    | none => false)

/-- The bank that a slot serves at a position of the wheel, which is the plan counter (R81). -/
def wheelBank (slot pos : Nat) : Nat := (slot + pos) % 64

/-- The position of the wheel of a partition: the plan counter, and in a hold one more in each wall cycle from TARGET
(R81). -/
def Partition.wheel (x : Partition) (wall : Nat) : Nat :=
  match x.standing with
  | some s => s.target + (wall - s.since)
  | none => x.ctr

/-- The first slot of the mesh-in class, 31 to 46, free of the given writes, that serves the bank of a line from a position
of the wheel on, and in how many cycles. -/
def firstMeshIn (taken : List BinWrite) (pos wall line : Nat) : Option (Nat × Nat) :=
  (List.range 64).findSome? (fun d =>
    ((List.range 16).map (· + 31)).findSome? (fun j =>
      if wheelBank j (pos + d) == line % 64 && !taken.any (fun w => w.cycle == wall + d && w.slot == j) then some (j, d)
      else none))

/-- The mesh-in slots of the lines of a bin write that arrives during a hold (R81). -/
def holdSlots (pos wall l n : Nat) (taken : List BinWrite) : List BinWrite :=
  (List.range n).foldl (fun a k =>
    match firstMeshIn a pos wall (l + k) with
    | some (slot, d) => a ++ [{ line := l + k, slot, cycle := wall + d }]
    | none => a) (taken.filter (fun w => wall ≤ w.cycle))

/-- A planned packet is written into its bin. During a hold its lines take slots of the mesh-in class (R81). -/
def binWrite (p : Part) (t : TileId) (bay : Nat) (w : BayPlace) (a : Nat) (body : Bytes) (m : Mod) : Mod :=
  let x := m.part p
  let m := writeBay p bay w body m
  if x.standing.isNone then m
  else m.updTile t (fun y =>
    { y with holdWrites := holdSlots (x.wheel m.wall) m.wall (a / 64) (body.length / 64) y.holdWrites })

/-- A planned packet at its destination: written where its furlong still runs, discarded with LATE_FLIT after that
(R47). -/
def pwriteAt (p : Part) (q : PortId) (pk : Packet) (m : Mod) : Mod :=
  let x := m.part p
  let h := pk.header
  if !x.running then m
  else
    match packetTarget x (pkDbay h) (pkOffset h) pk.body.length with
    | .error _ => failNode p cPlTarget 0 q.val (fenceDrop q h pk.domain 0 m)
    | .ok w =>
      match w with
      | .hbm _ => failNode p cPlTarget 0 q.val m
      | .store i a =>
        let t : TileId := toFin 64 (8 * pkDbay h + i)
        let late := match m.planOf p h with
          | some (f, _) => decide (f < x.furlong)
          | none => false
        if late then failNode p cLateFlit 0 q.val m
        else if inReceiving (m.tile t) x.furlong (a / 64) (pk.body.length / 64) then
          binWrite p t (pkDbay h) w a pk.body m
        else failNode p cPlTarget 0 q.val m

/-- PWRITE: the oldest planned packet of the port. A stopped plan discards it without fault (R298). -/
def execPwrite (q : PortId) (s : State) : Host.Outcome State Fault Refusal :=
  match s.m.partOfPort q, arrived q kPwrite [0] s.m with
  | some p, some (_, pk) => .next { s with m := pwriteAt p q pk (popPacket q 0 s.m) }
  | _, _ => .next s

/-! ### WRITE, READ and their answers (R286 to R288) -/

/-- Write the body of a WRITE at its place. Within the clean array of the lead, each entry takes the larger value
(R324). -/
def writeBody (p : Part) (bay : Nat) (w : BayPlace) (bs : Bytes) (m : Mod) : Mod :=
  let m := takeShare .inbound bay m
  match w, m.servingWindow p with
  | .hbm a, some (v, n, b) =>
    if b = bay && 64 * v.clean ≤ a && a + bs.length ≤ 64 * (v.clean + ceilDiv n 8) then raiseEntries (toFin 8 b) a bs m
    else writeBay p bay w bs m
  | _, _ => writeBay p bay w bs m

/-- Serve a WRITE. -/
def serveWrite (p : Part) (q : PortId) (vc : Nat) (pk : Packet) (src : Nat) (m : Mod) : Mod :=
  let h := pk.header
  let m := popPacket q vc m
  match packetTarget (m.part p) (pkDbay h) (pkOffset h) pk.body.length with
  | .ok w => sendAnswer p src (statusHeader m h stOk) [] (writeBody p (pkDbay h) w pk.body m)
  | .error c => sendAnswer p src (statusHeader m h c) [] (fenceDrop q h pk.domain vc m)

/-- Serve a READ: the answer goes to the return bay and offset of its body. -/
def serveRead (p : Part) (q : PortId) (vc : Nat) (pk : Packet) (src : Nat) (m : Mod) : Mod :=
  let h := pk.header
  let n := 64 * (pkLines h + 1)
  let m := popPacket q vc m
  match packetTarget (m.part p) (pkDbay h) (pkOffset h) n with
  | .error c => sendAnswer p src (statusHeader m h c) [] (fenceDrop q h pk.domain vc m)
  | .ok w =>
    let m := noteRead p (pkDbay h) w n m
    match readBay m (pkDbay h) w n with
    | none => sendAnswer p src (statusHeader m h stMemUe) [] m
    | some bs =>
      let hdr := packetHeader (pkSnode h) (leAt pk.body 5 1 % 8) kRdata (leAt pk.body 0 5) m.node (pkDbay h)
        (pkLines h) (pkTag h) 0
      sendAnswer p src hdr bs m

/-- Serve the oldest request of a kind that has arrived, once its answer holds RS credit (R296). A request whose
source is no member cannot be answered and is dropped. -/
def request (q : PortId) (kind : Nat) (serve : Part → PortId → Nat → Packet → Nat → Mod → Mod) (m : Mod) : Mod :=
  match m.partOfPort q, arrived q kind [1, 4] m with
  | some p, some (vc, pk) =>
    match m.sourceOf p pk with
    | none => fenceDrop q pk.header pk.domain vc (popPacket q vc m)
    | some k => if answerCredit p k m then serve p q vc pk k m else m
  | _, _ => m

def execRead (q : PortId) (s : State) : Host.Outcome State Fault Refusal :=
  .next { s with m := request q kRead serveRead s.m }

/-- Complete the oldest request with a tag that awaits its answer: true where there is one. -/
def completeRequest (p : Part) (tag : BitVec 12) (code : Nat) (m : Mod) : Bool × Mod :=
  let rs := (m.part p).member.requests
  match rs.findIdx? (fun r => r.tag == tag && r.done.isNone) with
  | none => (false, m)
  | some i =>
    let rs := rs.mapIdx (fun j r => if j = i then { r with done := some code } else r)
    (true, m.updPart p (fun x => { x with member := { x.member with requests := rs } }))

/-- An answer that no request awaits is dropped and counted (R288). -/
def lateAnswer (p : Part) (m : Mod) : Mod :=
  m.updPart p (fun x => { x with tel := { x.tel with lateAnswer := x.tel.lateAnswer.add 1 } })

/-- RDATA: the data is written at the return offset and the request completes. -/
def rdataAt (p : Part) (q : PortId) (pk : Packet) (m : Mod) : Mod :=
  let h := pk.header
  let (hit, m') := completeRequest p (BitVec.ofNat 12 (pkTag h)) stOk m
  if !hit then lateAnswer p m
  else
    match packetTarget (m'.part p) (pkDbay h) (pkOffset h) pk.body.length with
    | .ok w => writeBay p (pkDbay h) w pk.body (takeShare .inbound (pkDbay h) m')
    | .error _ => fenceDrop q h pk.domain 2 m

def execRdata (q : PortId) (s : State) : Host.Outcome State Fault Refusal :=
  match s.m.partOfPort q, arrived q kRdata [2] s.m with
  | some p, some (_, pk) => .next { s with m := rdataAt p q pk (popPacket q 2 s.m) }
  | _, _ => .next s

/-- STATUS: the request completes with its code. -/
def statusAt (p : Part) (pk : Packet) (m : Mod) : Mod :=
  let (hit, m') := completeRequest p (BitVec.ofNat 12 (pkTag pk.header)) (pkOffset pk.header % 256) m
  if hit then m' else lateAnswer p m

def execStatus (q : PortId) (s : State) : Host.Outcome State Fault Refusal :=
  match s.m.partOfPort q, arrived q kStatus [2] s.m with
  | some p, some (_, pk) => .next { s with m := statusAt p pk (popPacket q 2 s.m) }
  | _, _ => .next s

/-- A request waits in the origination queue still, and has not been sent. -/
def Member.unsent (mb : Member) (tag : BitVec 12) : Bool :=
  mb.originQ.any (fun k => pkTag k.header == tag.toNat && (pkKind k.header == kWrite || pkKind k.header == kRead))

/-- REQUEST_TIMEOUT (R288): 10 ms after it was sent, an unanswered request completes with TIMEOUT. -/
def execRequestTimeout (p : Part) (tag : BitVec 12) (s : State) : Host.Outcome State Fault Refusal :=
  match (s.m.part p).member.requests.find? (fun r => r.tag == tag && r.done.isNone
      && !(s.m.part p).member.unsent tag) with
  | none => .next s
  | some r => .next { s with m := (completeRequest p tag stTimeout (advanceWall (r.sentAt + ms 10) s.m)).2 }

/-! ### Originating packets (R286, R288) -/

/-- Put a packet into the origination queue of a partition's member. One to a node that is no member is refused, and completes
at once with NOT_MEMBER. -/
def originate (p : Part) (dnode : BitVec 24) (dbay kind vc offset lines mcdir : Nat) (sbay : Nat) (body : Bytes)
    (m : Mod) : Mod :=
  let mb := (m.part p).member
  let tag := mb.nextTag % 4096
  let known := match mb.desc with
    | some d => (d.memberOf dnode).isSome
    | none => false
  let asks := kind == kWrite || kind == kRead
  let hdr := packetHeader dnode dbay kind offset m.node sbay lines tag mcdir
  let flits := (packetFlits vc 0 hdr body).length
  let pk : Packet := { vc, header := hdr, body, flits, since := m.wall, domain := m.domainId p }
  let r : PendReq := { tag := BitVec.ofNat 12 tag, kind, sentAt := m.wall
                       done := if known then none else some stNotMember }
  m.updPart p (fun x => { x with member := { x.member with
    nextTag := (tag + 1) % 4096
    requests := if asks || !known then x.member.requests ++ [r] else x.member.requests
    originQ := if known then x.member.originQ ++ [pk] else x.member.originQ } })

/-! ### MCAST (R295) -/

/-- The neighbour of member k in a direction of MCDIR; none beyond the edge of the grid. -/
def mcNext (d : DomainDesc) (k dir : Nat) : Option Nat :=
  let x := k % d.xw
  let y := k / d.xw
  match dir with
  | 0 => if x + 1 < d.xw then some (k + 1) else none
  | 1 => if 0 < x then some (k - 1) else none
  | 2 => if y + 1 < d.yw then some (k + d.xw) else none
  | _ => if 0 < y then some (k - d.xw) else none

/-- The line from member k in a direction reaches member t. -/
def mcReaches (d : DomainDesc) (k t dir : Nat) : Bool :=
  match dir with
  | 0 => k / d.xw == t / d.xw && k % d.xw < t % d.xw
  | 1 => k / d.xw == t / d.xw && t % d.xw < k % d.xw
  | 2 => k % d.xw == t % d.xw && k / d.xw < t / d.xw
  | _ => k % d.xw == t % d.xw && t / d.xw < k / d.xw

/-- MCAST at a member: the body is written at the bay index and offset, and, where the line goes on, read back and
sent as a new packet. A member at which the write fails, or from which the line runs past the grid, drops it. -/
def mcastAt (p : Part) (q : PortId) (pk : Packet) (m : Mod) : Mod :=
  let h := pk.header
  let x := m.part p
  match x.bayAt (pkDbay h) with
  | none => fenceDrop q h pk.domain 3 m
  | some b =>
    match packetTarget x b (pkOffset h) pk.body.length with
    | .error _ => fenceDrop q h pk.domain 3 m
    | .ok w =>
      let m := writeBay p b w pk.body (takeShare .inbound b m)
      if pkDnode h == m.node then m
      else
        match x.member.desc, m.memberIndex p with
        | some d, some me =>
          match d.memberOf (pkDnode h), readBay m b w pk.body.length with
          | some t, some bs =>
            if mcReaches d me t (pkMcdir h) then
              originate p (pkDnode h) (pkDbay h) kMcast 3 (pkOffset h) (pkLines h) (pkMcdir h) b bs m
            else fenceDrop q h pk.domain 3 m
          | _, _ => fenceDrop q h pk.domain 3 m
        | _, _ => m

def execMcast (q : PortId) (s : State) : Host.Outcome State Fault Refusal :=
  match s.m.partOfPort q, arrived q kMcast [3] s.m with
  | some p, some (_, pk) => .next { s with m := mcastAt p q pk (popPacket q 3 s.m) }
  | _, _ => .next s

/-! ### Routing (R293) -/

/-- What `route_unplanned` answers. -/
inductive Routing where
  | deliver
  | go (port vc : Nat)
  | wait
  deriving DecidableEq, Repr, Inhabited

/-- Flits queued for sending on VCs 1 to 5. -/
def Port.queued (x : Port) : Nat := (x.txVc.toList.map (·.length)).foldl (· + ·) 0

/-- A port holds a credit on a VC. -/
def Mod.hasCredit (m : Mod) (vc q : Nat) : Bool := decide ((m.port (toFin 16 q)).creditOf vc m.wall > 0)

/-- `route_unplanned` of R293 for a packet to member t that has waited a number of rods at the head. A port that a FREEZE is
about is no candidate (R300). -/
def routeUnplanned (m : Mod) (p : Part) (t vc wait : Nat) : Routing :=
  if some t == m.memberIndex p then .deliver
  else
    let esc := m.escapePort p t
    if vc == 2 || vc == 4 then
      match esc with
      | some q => if m.hasCredit vc q then .go q vc else .wait
      | none => .wait
    else
      let gone := (m.part p).member.dropPending
      let cands := (m.minimalPorts p t).filter (fun q => (m.port (toFin 16 q)).carries && m.hasCredit vc q
        && !(m.domainLink p (toFin 16 q)).any (fun l => gone.contains l.1))
      match sortBy (fun q => (m.port (toFin 16 q)).queued) cands with
      | q :: _ => .go q vc
      | [] =>
        match esc with
        | some q => if wait ≥ 64 && m.hasCredit 4 q then .go q 4 else .wait
        | none => .wait

/-- The port of an MCAST that this member sends on (R292, R295): the lowest carrying grid link to the next member. -/
def mcastPort (m : Mod) (p : Part) (dir : Nat) : Option Nat :=
  let mb := (m.part p).member
  match mb.desc, m.memberIndex p with
  | some d, some me =>
    match mcNext d me dir with
    | none => none
    | some nx => minL (((edgesAt (mb.edges []) me).filter (fun e => e.b == nx && (m.port (toFin 16 e.pa)).carries)).map (·.pa))
  | _, _ => none

/-- Where a packet at the head of a queue goes. -/
def routeOf (m : Mod) (p : Part) (pk : Packet) (origin : Bool) : Option Routing :=
  let h := pk.header
  if pkKind h == kMcast then
    if !origin then some .deliver
    else match mcastPort m p (pkMcdir h) with
      | some q => some (if m.hasCredit 3 q then .go q 3 else .wait)
      | none => some .wait
  else
    match (m.part p).member.desc with
    | none => none
    | some d =>
      match d.memberOf (pkDnode h) with
      | none => none
      | some t => some (routeUnplanned m p t pk.vc ((m.wall - pk.since) / 5))

/-- Route the packet at the head of a receive queue. A packet to no member of the domain is dropped. -/
def routeRx (p : Part) (q : PortId) (vc : Nat) (pk : Packet) (m : Mod) : Mod :=
  match routeOf m p pk false with
  | none => fenceDrop q pk.header pk.domain vc (popPacket q vc m)
  | some .deliver => m
  | some .wait => m
  | some (.go k v) => queueVc (toFin 16 k) v (packetFlits v pk.domain pk.header pk.body) (popPacket q vc m)

/-- A packet is the clean entry of a step that ended with the plan: it was originated ahead of TEARDOWN (R299, R324). -/
def Mod.lastWord (m : Mod) (p : Part) (pk : Packet) : Bool :=
  let mb := (m.part p).member
  mb.st == .teardown && mb.failed.isNone && pkKind pk.header == kWrite && (m.servingAs p).any (fun e =>
    64 * e.1.clean ≤ pkOffset pk.header
      && decide (pkOffset pk.header < 64 * e.1.windowEnd ((mb.desc.map (·.members.length)).getD 0)))

/-- Route the packet at the head of the origination queue, where the member originates packets (R299, R300). The 10 ms of a
request run from here (R288). -/
def routeOrigin (p : Part) (m : Mod) : Mod :=
  let mb := (m.part p).member
  match mb.originQ with
  | [] => m
  | pk :: rest =>
    if mb.frozen || (mb.st != .running && !m.lastWord p pk) then m
    else
      let rest := match rest with
        | [] => []
        | r :: more => { r with since := max r.since m.wall } :: more
      let asked := pkKind pk.header == kWrite || pkKind pk.header == kRead
      let sent (r : PendReq) : PendReq :=
        if asked && r.tag.toNat == pkTag pk.header && r.done.isNone then { r with sentAt := m.wall } else r
      let drop (m : Mod) : Mod := m.updPart p (fun x => { x with member := { x.member with
        originQ := rest, requests := x.member.requests.map sent } })
      match routeOf m p pk true with
      | none => drop m
      | some .deliver => drop m
      | some .wait => m
      | some (.go k v) => queueVc (toFin 16 k) v (packetFlits v pk.domain pk.header pk.body) (drop m)

/-- PACKET_ROUTE: planned and management packets are not routed (R290, R294). -/
def execPacketRoute (src : PacketSource) (s : State) : Host.Outcome State Fault Refusal :=
  match src with
  | .origin p => .next { s with m := routeOrigin p s.m }
  | .rx q vc =>
    if vc.val = 0 || vc.val = 5 then .next s
    else
      match s.m.partOfPort q, headPacket q vc.val s.m with
      | some p, some pk => .next { s with m := routeRx p q vc.val pk s.m }
      | _, _ => .next s

end Sys2Proof.Machine
end

