-- ==== Sys2Proof/Machine/Rings.lean ====
section
/-!
DEFINITION. Ring pairs (R362 to R378): geometry, fetching and the groups that a ring holds, the checks of a
descriptor, and how a descriptor or a group completes.
-/
namespace Sys2Proof.Machine

/-! ### Geometry (Table HST-2) -/

def Func.pair (x : Func) (n : PairId) : RingPair := x.pairs.get n

/-- Change a ring pair. -/
def updPair (f : Fn) (n : PairId) (g : RingPair → RingPair) (m : Mod) : Mod :=
  m.updFunc f (fun x => { x with pairs := x.pairs.set n.val (g (x.pairs.get n)) n.isLt })

/-- Fields of the active SQn_CTRL. -/
def RingPair.logsz (r : RingPair) : Nat := fld r.ctrl.active 5 1
def RingPair.size (r : RingPair) : Nat := 2 ^ r.logsz
def RingPair.vec (r : RingPair) : Nat := fld r.ctrl.active 11 6
def RingPair.coalCnt (r : RingPair) : Nat := fld r.ctrl.active 19 12
def RingPair.coalUs (r : RingPair) : Nat := fld r.ctrl.active 29 20
def RingPair.sqBase (r : RingPair) : Nat := r.sqLo.active.toNat + 2 ^ 32 * r.sqHi.active.toNat
def RingPair.cqBase (r : RingPair) : Nat := r.cqLo.active.toNat + 2 ^ 32 * r.cqHi.active.toNat

/-- Submission entries visible and not fetched. -/
def RingPair.visible (r : RingPair) : Nat := (r.tail + r.size - r.head) % r.size

/-- Ring pairs of a function (Table HST-1). -/
def fnPairs (f : Fn) : Nat := if f = pf0 then 4 else 16

/-- A function's partition is admitted; PF0 always counts as admitted (R359). -/
def Mod.fnLive (m : Mod) (f : Fn) : Bool :=
  match partOfFn f with
  | none => true
  | some p => (m.part p).admitted

/-- Put a ring pair into ERROR after a PCIe error: it fetches nothing further and its completions not posted are lost. What
it has taken goes on, a group with all its members (R364, R373). -/
def ringError (f : Fn) (n : PairId) (m : Mod) : Mod :=
  postAt f evRingError (updPair f n (fun r =>
    { r with st := .error, held := [], busy := r.busy.map (fun b => { b with lost := true }), post := [] }) m)

/-! ### Descriptors (Table HST-4) -/

def dOpcode (b : Bytes) : Nat := leAt b 0 1
def dGrp (b : Bytes) : Nat := leAt b 1 1 % 4
def dIrq (b : Bytes) : Bool := bitN (leAt b 1 1) 2
def dTag (b : Bytes) : BitVec 32 := BitVec.ofNat 32 (leAt b 4 4)

/-- Opcodes of PF0 and of a VF (Table HST-5). -/
def opKnown (f : Fn) (op : Nat) : Bool :=
  op == 0x01 || (if f = pf0 then decide (0x20 ≤ op) && decide (op ≤ 0x27)
    else [0x02, 0x03, 0x04, 0x05, 0x06, 0x07, 0x10, 0x11, 0x12, 0x13, 0x14, 0x15, 0x18, 0x19, 0x1A, 0x1B].contains op)

/-- Status codes of Table HST-7 of the checks of a descriptor. -/
def hOk : Nat := 0x0000
def hOpcode : Nat := 0x0001
def hReserved : Nat := 0x0002
def hField : Nat := 0x0003
def hDma : Nat := 0x0004
def hGroupBroken : Nat := 0x0010
def hGroupAborted : Nat := 0x0011
def hGroupLong : Nat := 0x0012
def hGroupOpcode : Nat := 0x0013

/-- The completion of a descriptor. -/
def complOf (r : RingPair) (index : Nat) (b : Bytes) (status detail result : Nat) : Compl :=
  { tag := dTag b, index := index, head := r.head, status, detail, result, irq := dIrq b }

/-- The descriptor at the head of a ring; nothing where its DMA fails. -/
def Mod.headDesc (m : Mod) (f : Fn) (n : PairId) : Option Bytes :=
  let r := (m.func f).pair n
  let a := r.sqBase + 64 * r.head
  if m.dmaFails a 64 then none else some (m.hostMem.read a 64)

/-- HEAD past one more descriptor. -/
def RingPair.advance (r : RingPair) : RingPair :=
  let h := (r.head + 1) % r.size
  { r with head := h, shown := r.shown.filter (fun e => e.1 != h) }

/-- The time at which the descriptor at HEAD became visible. -/
def RingPair.headAt (r : RingPair) : Nat := (r.shown.head?.map (·.2)).getD 0

/-- The ring can take a descriptor or a group: RUNNING, nothing in progress or unposted, a completion place free
(R368, R376). -/
def RingPair.free (r : RingPair) : Bool :=
  r.st == .running && r.busy.isNone && r.post.isEmpty && decide (r.cqUsed < r.size)

/-- The held group is whole: its last member is its CLOSE. -/
def RingPair.whole (r : RingPair) : Bool :=
  match r.held.getLast? with
  | some (_, b) => dGrp b == 3
  | none => false

/-- Every held member completes with one status (R375). -/
def dropGroup (status : Nat) (r : RingPair) : RingPair :=
  { r with held := [], post := r.held.map (fun h => complOf r h.1 h.2 status 0 0) }

/-- Fetch the descriptor at the head without a group open: OPEN begins one; a CONTINUE or CLOSE, or an unknown opcode,
completes alone. -/
def intakeFirst (f : Fn) (b : Bytes) (r : RingPair) : RingPair :=
  let i := r.head
  if dGrp b = 1 then { r.advance with held := [(i, b)] }
  else
    let r := r.advance
    { r with post := [complOf r i b (if opKnown f (dOpcode b) then hGroupBroken else hOpcode) 0 0] }

/-- Fetch it with a group open: a SINGLE or OPEN ends the open group and starts afresh; the 64th member, or the
(size - 1)-th, that is not the CLOSE ends it with GROUP_LONG. -/
def intakeNext (b : Bytes) (r : RingPair) : RingPair :=
  if dGrp b = 0 || dGrp b = 1 then dropGroup hGroupBroken r
  else
    let i := r.head
    let r := { r.advance with held := r.held ++ [(i, b)], wholeAt := r.headAt }
    if dGrp b = 2 && (r.held.length ≥ 64 || r.held.length + 1 ≥ r.size) then dropGroup hGroupLong r else r

/-- Fetch visible descriptors while they are members of a group, or complete at their fetch; a SINGLE of a known
opcode waits for its own row. -/
def intake (f : Fn) (n : PairId) : Nat → Mod → Mod
  | 0, m => m
  | k + 1, m =>
    let r := (m.func f).pair n
    if !r.free || r.visible = 0 || r.whole then m
    else
      match m.headDesc f n with
      | none => ringError f n m
      | some b =>
        if r.held.isEmpty then
          if dGrp b = 0 && opKnown f (dOpcode b) then m
          else intake f n k (updPair f n (intakeFirst f b) m)
        else intake f n k (updPair f n (intakeNext b) m)

/-- All that can be fetched. -/
def intakeAll (f : Fn) (n : PairId) (m : Mod) : Mod := intake f n 65 m

/-! ### Completion -/

/-- The page count of a tier slot as it was; its write count never goes back. -/
def restorePages (now old : Option TierSlot) : Option TierSlot :=
  match now, old with
  | some a, some b => some { a with pages := b.pages }
  | a, _ => a

/-- A record of the end of a request that a group has cancelled: END 0x03, posted by none before the group. -/
def byGroup (old : List ResultRec) (r : ResultRec) : Bool := r.endCode == 3 && !old.contains r

/-- A request as a failed group leaves it: one that the group cancelled, paused or resumed has its earlier state again, with
what steps have committed meanwhile. -/
def restoreRequest (gone : Bool) (o : Request) (q : Option Request) : Option Request :=
  match q with
  | none => if gone then some o else none
  | some q =>
    if gone then some { o with k := q.k, total := q.total, lastTok := q.lastTok, drafts := q.drafts }
    else if (q.st == .ending && q.endCode == 3 && o.st != .ending) || (q.st == .endingPause && o.st == .decode)
        || (q.st == .paused && o.st == .decode) || (q.st == .decode && o.st == .paused) then
      some { q with st := o.st, endCode := o.endCode, ttl := o.ttl, expiry := o.expiry, pauseRing := o.pauseRing }
    else some q

/-- Requests as they were: those submitted since are withdrawn, and those changed since are restored. -/
def restoreRequests (gone : List (BitVec 32)) (now old : List Request) : List Request :=
  old.filterMap (fun o => restoreRequest (gone.contains o.handle) o (now.find? (fun q => q.id == o.id)))

/-- Restore what a group changed in a partition (R372): its images, windows, descriptors, manifests and admission; the
requests it submitted are withdrawn, and those it cancelled are back, with their entries and without their end records. -/
def undoPart (m : Mod) (u : Nat × Partition) : Mod :=
  let p : Part := toFin 8 u.1
  let old := u.2
  let gone := ((m.part p).serving.records.filter (byGroup old.serving.records)).map (·.handle)
  let m := m.updPart p (fun x =>
    if !old.admitted then old
    else { x with
      gen := old.gen, plans := old.plans, exwin := old.exwin, ns := old.ns, wrapped := old.wrapped, window := old.window
      manifests := old.manifests, maxMver := old.maxMver
      keys := { x.keys with
        flashKey := old.keys.flashKey
        tier := x.keys.tier.mapIdx (fun i k => restorePages k ((old.keys.tier[i]?).getD none)) }
      member := { x.member with desc := old.member.desc, retained := old.member.retained }
      serving := { x.serving with
        desc := old.serving.desc
        records := x.serving.records.filter (fun r => !byGroup old.serving.records r)
        requests := restoreRequests gone x.serving.requests old.serving.requests } })
  (old.serving.requests.filter (fun q => gone.contains q.handle)).foldl (restoreEntries p) m

/-- Restore the CXL lines that a group changed: port, first byte, bytes, and the cells that stood there. -/
def undoCxl (m : Mod) (u : Nat × Nat × Nat × Mem) : Mod :=
  { m with cxl := m.cxl.mapIdx (fun i d =>
      if i = u.1 then
        { d with data := d.data.takeWhile (fun c => c.1 < u.2.1) ++ u.2.2.2
                          ++ d.data.dropWhile (fun c => c.1 < u.2.1 + u.2.2.1) }
      else d) }

/-- Undo every member of a group that has acted, in reverse order. -/
def undoAll (b : Busy) (m : Mod) : Mod := b.undoCxl.reverse.foldl undoCxl (b.undo.reverse.foldl undoPart m)

/-- The completions of a failed group: the failing member with its own status, every other with GROUP_ABORTED. -/
def abortGroup (r : RingPair) (b : Busy) (own : Compl) : List Compl :=
  (b.before.map (fun c => { c with status := hGroupAborted, detail := 0, result := 0 })) ++ [own]
    ++ b.todo.map (fun e => complOf r e.1 e.2 hGroupAborted 0 0)

/-- The operation that a ring has in progress ends with a status. Within a group, a failure undoes the members that
have acted; after a success the rest of the group still has to act. A ring that no longer holds the operation posts
nothing (R360). -/
def finishOp (f : Fn) (n : PairId) (status detail result : Nat) (m : Mod) : Mod :=
  match ((m.func f).pair n).busy with
  | none => m
  | some b =>
    let r := (m.func f).pair n
    let own : Compl := { tag := b.tag, index := b.index, head := r.head, status, detail, result, irq := b.irq }
    let post (cs : List Compl) : List Compl := if b.lost then [] else cs
    if !b.group then updPair f n (fun r => { r with busy := none, post := post [own] }) m
    else if status ≠ hOk then
      let m := undoAll b m
      updPair f n (fun r => { r with busy := none, post := post (abortGroup r b own) }) m
    else if b.todo.isEmpty then updPair f n (fun r => { r with busy := none, post := post (b.before ++ [own]) }) m
    else updPair f n (fun r => { r with busy := some { b with fin := some (status, detail, result) } }) m

/-- The record under which the operation that a ring has in progress waits: function, and ring with the operation's
number above bit 3. -/
def ringKey (f : Fn) (n : PairId) (m : Mod) : Nat × Nat := (f.val, n.val + 16 * ((m.func f).pair n).taken)

/-- The same for an operation that waits under a record, where its ring still holds it. -/
def finishAt (w : Option (Nat × Nat)) (status detail result : Nat) (m : Mod) : Mod :=
  match w with
  | some (f, k) =>
    let n : PairId := toFin 16 k
    if (((m.func (toFin 9 f)).pair n).busy).any (fun b => b.no == k / 16) then
      finishOp (toFin 9 f) n status detail result m
    else m
  | none => m

/-! ### One opcode -/

/-- How an opcode acts: at once, with its status, DETAIL and RESULT; or as an operation that ends later. -/
inductive OpResult where
  | done (status detail result : Nat) (m : Mod)
  | long (m : Mod)
  deriving Inhabited

/-- An opcode of Table HST-5: number, the place it may take in a group (0 SINGLE only, 1 any, 2 final only), its body
fields (byte, length; the rest is reserved), reserved bits inside them, the first field out of range, the host memory
it reads, the checks of its own rules, what it does, and what it leaves when it succeeds, as a later member of its
group sees it. -/
structure HostOp where
  op : Nat
  place : Nat := 0
  fields : List (Nat × Nat) := []
  extra : Mod → Bytes → Option Nat := fun _ _ => none
  range : Mod → Bytes → Option Nat := fun _ _ => none
  reads : Mod → Bytes → List (Nat × Nat) := fun _ _ => []
  after : Mod → Bytes → Option (Nat × Nat) := fun _ _ => none
  check : Fn → Bytes → Mod → Option (Nat × Nat) := fun _ _ _ => none
  /-- It is not taken yet (R368, R373). -/
  waits : Fn → Bytes → Mod → Bool := fun _ _ _ => false
  act : Fn → PairId → Bytes → Mod → OpResult
  leaves : Fn → Bytes → Mod → Mod := fun _ _ m => m
  /-- RESULT of a refusal, by its status (R377). -/
  refusalResult : Nat → Fn → Bytes → Mod → Nat := fun _ _ _ _ => 0

/-- The partition a descriptor concerns: that of the VF, or the PART of a PF0 opcode. -/
def descPart (f : Fn) (b : Bytes) : Option Part :=
  match partOfFn f with
  | some p => some p
  | none => if leAt b 16 1 < 8 then some (toFin 8 (leAt b 16 1)) else none

/-- First non-zero reserved byte of a descriptor: header, then body. -/
def reservedAt (fields : List (Nat × Nat)) (b : Bytes) : Option Nat :=
  if leAt b 1 1 ≥ 8 then some 1
  else ([2, 3] ++ span 8 63).find? (fun i =>
    leAt b i 1 != 0 && (i < 16 || !fields.any (fun r => r.1 ≤ i && i < r.1 + r.2)))

/-- The opcode fits its place in a group (R371). -/
def placeFits (place grp : Nat) : Bool := grp = 0 || place = 1 || (place = 2 && grp = 3)

/-- The checks of R374 on a descriptor whose opcode is known, in order: status and DETAIL of the first failure. -/
def HostOp.checks (d : HostOp) (f : Fn) (b : Bytes) (m : Mod) : Option (Nat × Nat) :=
  if !placeFits d.place (dGrp b) then some (hGroupOpcode, 0)
  else
    match (reservedAt d.fields b).or (d.extra m b) with
    | some o => some (hReserved, o)
    | none =>
      match d.range m b with
      | some o => some (hField, o)
      | none =>
        if (d.reads m b).any (fun r => r.2 != 0 && m.dmaFails r.1 r.2) then some (hDma, 0)
        else
          match d.after m b with
          | some e => some e
          | none => d.check f b m

/-- The groups that other rings are acting on. -/
def Mod.otherGroups (m : Mod) (f : Fn) (n : PairId) : List Busy :=
  allFns.flatMap (fun g => allPairs.filterMap (fun k =>
    match ((m.func g).pair k).busy with
    | some b => if (g != f || k != n) && b.group then some b else none
    | none => none))

/-- Another ring acts on a group that concerns a partition: what touches its state comes after (R373). -/
def Mod.groupHolds (m : Mod) (f : Fn) (n : PairId) (p : Part) : Bool :=
  (m.otherGroups f n).any (fun b => b.undo.any (fun u => u.1 == p.val))

/-- Opcodes whose checks read every partition: PART_ADMIT, NS_CREATE and CXL_WINDOW_SET. -/
def readsAll (op : Nat) : Bool := op == 0x20 || op == 0x22 || op == 0x24

/-- A descriptor waits for the groups that other rings are acting on. A STONE_LOAD beside the load of a group does not: it
completes with LOAD_BUSY (Table HST-8). -/
def Mod.waitsGroup (m : Mod) (f : Fn) (n : PairId) (b : Bytes) : Bool :=
  (readsAll (dOpcode b) && !(m.otherGroups f n).isEmpty)
    || (match descPart f b with
        | some p => m.groupHolds f n p && !(dOpcode b == 0x14 && (m.part p).load.isSome)
        | none => false)

/-- What a ring could take now: the time at which its group, or its SINGLE at HEAD, became whole, and the partitions it
concerns. An opcode that waits by its own rule (Table HST-8) comes later. -/
def Mod.whole (m : Mod) (f : Fn) (n : PairId) : Option (Nat × List Part) :=
  let r := (m.func f).pair n
  if !(m.hostUp && m.fnLive f && decide (n.val < fnPairs f) && r.free) then none
  else if r.whole then some (r.wholeAt, r.held.filterMap (fun e => descPart f e.2))
  else if r.visible = 0 || !r.held.isEmpty then none
  else
    match m.headDesc f n with
    | none => none
    | some b => if dGrp b ≠ 0 || [0x13, 0x21, 0x23].contains (dOpcode b) then none else some (r.headAt, (descPart f b).toList)

/-- Something of one of these partitions became whole on another ring earlier, or in the same cycle at a lower function or
ring (R373). -/
def Mod.outrun (m : Mod) (f : Fn) (n : PairId) (w : Nat) (ps : List Part) : Bool :=
  allFns.any (fun g => allPairs.any (fun k =>
    match m.whole g k with
    | none => false
    | some (t, qs) => (g != f || k != n) && qs.any ps.contains
        && (decide (t < w) || (t == w && (decide (g.val < f.val) || (g == f && decide (k.val < n.val)))))))

/-- The single descriptor of an opcode at the head of a ring that can take it. -/
def Mod.takes (m : Mod) (f : Fn) (n : PairId) (op : Nat) : Bool :=
  let r := (m.func f).pair n
  m.hostUp && m.fnLive f && decide (n.val < fnPairs f) && r.free && r.visible > 0 && r.held.isEmpty && opKnown f op

/-- Run the single descriptor at the head of a ring: fetched, checked under R374, acted on. Nothing happens where the
ring cannot take it or its opcode is another. -/
def runOp (d : HostOp) (f : Fn) (n : PairId) (m : Mod) : Mod :=
  if !m.takes f n d.op then m
  else
    match m.headDesc f n with
    | none => ringError f n m
    | some b =>
      let late := m.outrun f n ((m.func f).pair n).headAt (descPart f b).toList
      if dOpcode b ≠ d.op || dGrp b ≠ 0 || m.waitsGroup f n b || late || d.waits f b m then m
      else
        let i := ((m.func f).pair n).head
        let m := updPair f n (fun r =>
          let no := r.taken + 1
          let op : Busy := { no, opcode := d.op, tag := dTag b, index := i, irq := dIrq b, body := b }
          { r.advance with taken := no, busy := some op }) m
        match d.checks f b m with
        | some (s, e) => finishOp f n s e (d.refusalResult s f b m) m
        | none =>
          match d.act f n b m with
          | .done s e r m => finishOp f n s e r m
          | .long m => m

/-- Answer a row of a ring: rings are served in READY (R415). -/
def onRing (d : HostOp) (f : Fn) (n : PairId) (s : State) : Host.Outcome State Fault Refusal :=
  if s.hub.power.st != .ready then .next s else .next { s with m := runOp d f n s.m }

end Sys2Proof.Machine
end

