-- ==== Sys2Proof/Machine/Start.lean ====
section
/-!
DEFINITION. Starting, committing, abandoning, failing and ending a job domain (R297 to R310), and the change of
routes (R300): the rows of the domain messages.
-/
namespace Sys2Proof.Machine

/-! ### Taking a management message -/

/-- A management message taken from a port, or from the partition's own messages: its line, its body with the line
of every packet but the first left out, and the wall cycle at which its first flit was delivered. -/
structure MgIn where
  line : MgLine
  body : Bytes
  first : Nat := 0
  deriving DecidableEq, Repr, Inhabited

/-- Packets up to the one that carries LAST. -/
def mgLength : List Packet → Option Nat
  | [] => none
  | pk :: rest => if (MgLine.parse pk.body).last then some 1 else (mgLength rest).map (· + 1)

/-- A management message of a type at the head of a port's queue, taken whole. -/
def takeMgPort (q : PortId) (mtype : Nat) (m : Mod) : Option (MgIn × Mod) :=
  let l := (m.port q).pkts[5]!
  match l, mgLength l with
  | pk :: _, some n =>
    if (MgLine.parse pk.body).mtype ≠ mtype then none
    else
      let body := pk.body ++ ((l.take n).drop 1).flatMap (fun (k : Packet) => k.body.drop 64)
      let m := (List.range n).foldl (fun m _ => popPacket q 5 m) m
      some ({ line := MgLine.parse pk.body, body, first := pk.first }, m)
  | _, _ => none

/-- The oldest message of a type that the partition has sent to itself. -/
def takeMgSelf (p : Part) (mtype : Nat) (m : Mod) : Option (MgIn × Mod) :=
  let l := (m.part p).member.inbox
  match l.findIdx? (fun b => (MgLine.parse b).mtype == mtype) with
  | none => none
  | some i =>
    let b := l.getD i []
    let rest := l.take i ++ l.drop (i + 1)
    some ({ line := MgLine.parse b, body := b, first := m.wall },
      m.updPart p (fun x => { x with member := { x.member with inbox := rest } }))

/-- A message for partition p from a source: the port must lie in its bays, or in those of no admitted partition. -/
def takeMg (p : Part) (src : Option PortId) (mtype : Nat) (m : Mod) : Option (MgIn × Mod) :=
  match src with
  | none => takeMgSelf p mtype m
  | some q =>
    match m.partOfPort q with
    | some k => if k = p then takeMgPort q mtype m else none
    | none => if (m.part p).admitted then none else takeMgPort q mtype m

/-- The second line of PREPARE and COMMIT: digest or zeros, and seal. -/
def secondLine (digest sealDigest : BitVec 256) : Bytes := leBytes 32 digest.toNat ++ leBytes 32 sealDigest.toNat

/-- A body filled to whole lines. The indices of PREPARE are filled with a number that no link has. -/
def fillLines (b : Byte) (bs : Bytes) : Bytes := bs ++ List.replicate (64 * ceilDiv bs.length 64 - bs.length) b

/-! ### Start causes (Table FAB-11) -/

def suOk : Nat := 0
def suDesc : Nat := 1
def suBusy : Nat := 2
def suPlan : Nat := 3
def suNotReady : Nat := 4
def suConflict : Nat := 5
def suSeal : Nat := 6
def suTreeLink : Nat := 7
def suBay : Nat := 8
def suVoteTimeout : Nat := 0x10
def suGrid : Nat := 0x11
def suParams : Nat := 0x12
def suLoad : Nat := 0x13
def suAttempts : Nat := 0x14

/-- Causes marked Reissue. -/
def reissues (c : Nat) : Bool := c == suBusy || c == suNotReady || c == suSeal || c == suTreeLink || c == suVoteTimeout

def cSealMismatch : Nat := 0x0030
def cLockLost : Nat := 0x0020
def cRouteDrain : Nat := 0x0031
def cHostAbort : Nat := 0x0033
def hStartFailed : Nat := 0x0063

/-- Change the member of a partition. -/
def updMember (p : Part) (f : Member → Member) (m : Mod) : Mod :=
  m.updPart p (fun x => { x with member := f x.member })

/-- Set the domain ID of every port of a partition (R283). -/
def setDomain (p : Part) (d : BitVec 16) (m : Mod) : Mod :=
  (m.part p).ports.foldl (fun m q => m.updPort q (fun x => { x with domain := d })) m

/-! ### The job start (R97, R98, R473) -/

/-- Retire the physical tiles of a partition's bays that fail the self-test. -/
def retireFailed (p : Part) (test : SelfTest) (m : Mod) : Mod :=
  let bad := (List.range 72).filter (fun i =>
    test.fails.getLsbD i && (m.part p).bayMask.getLsbD (i / 9) && !m.cal.retired.any (fun r => r.1 == i))
  { m with cal := { m.cal with retired := m.cal.retired ++ bad.map (fun i => (i, RetireBy.selfTest)) } }

/-- Map the logical tiles of a partition's bays onto usable physical tiles (R97). -/
def mapTiles (p : Part) (m : Mod) : Mod :=
  { m with tileMap := (m.part p).tiles.foldl (fun v t =>
      v.set! t.val ((m.usable (t.val / 8)).getD (t.val % 8) 0xFF)) m.tileMap }

/-- The job start of a partition, which is its receipt of a PREPARE (R97): its tiles are mapped, its fault log is empty again
(R445), and a check block in parity mismatch takes its reset values (R473). -/
def jobStart (p : Part) (test : SelfTest) (m : Mod) : Mod :=
  let m := (refreshReplace (mapTiles p (retireFailed p test m))).updPart p (fun x => { x with faultLog := [] })
  if (m.part p).chkReset then
    m.updPart p (fun x => { x with chkReset := false }) |>.updFunc (vfOf p) (fun f => { f with chk := {} })
  else m

/-! ### The causes that a member raises -/

/-- A row of a stack has a line in a UE log. -/
def Mod.rowLogged (m : Mod) (b pc row : Nat) : Bool :=
  m.parts.toList.any (fun x => x.tel.ueLog.any (fun e =>
    match e.ref with
    | .hbm k l => k.val == b && l % 32 == pc && Config.hbmRow l == row
    | .localStore _ _ => false))

/-- A load, a chain install or a copy of a partition is outstanding. -/
def Mod.moving (m : Mod) (p : Part) : Bool :=
  (m.part p).load.isSome || (m.part p).chain.isSome
    || ((m.func (vfOf p)).pairs.toList.any (fun r => match r.busy with
        | some b => b.opcode == 0x06 || b.opcode == 0x07
        | none => false))

/-- A due row of a bay can be repaired now (R433), the module being READY. -/
def Mod.repairable (m : Mod) (b pc row : Nat) : Bool :=
  m.cal.due.contains (b, pc, row) && !m.rowLogged b pc row && decide (m.rowsUsed b pc < 32)
    && (match m.partOfBay b with
        | none => true
        | some p => (m.part p).member.st == .idle && !m.moving p)

/-- The plan slot that holds a plan image with a digest (R281). -/
def Partition.slotOf (x : Partition) (digest : BitVec 256) : Option Nat :=
  x.plans.toList.findIdx? (fun i => match i with
    | some b => Config.sha3d256 b == digest
    | none => false)

/-- A serving descriptor breaks a rule of Table SRV-1 for a domain of n members, in a partition of t logical tiles,
whose page-table region R328 lays out. -/
def servingBad (v : ServingDesc) (n t : Nat) : Bool :=
  let pts := v.npt * t * v.ptlines
  v.sf == 0 || v.sf > 4096 || v.f0 > 4095 || v.sd > 4096 || v.sd % 64 != 0 || v.sp > 32768 || v.sp % 64 != 0 || v.slots == 0
  || v.nreq == 0 || v.nreq > 4096 || v.lead ≥ n || v.wline % 32 != 0 || v.windowEnd n > hbmLines
  || v.ptline % 32 != 0 || v.ptline + pts > hbmLines
  || (v.ptline < v.windowEnd n && v.wline < v.ptline + pts)
  || v.npt == 0 || v.npt > 16384 || v.ptlines == 0 || v.ptlines > 32768

/-- The PLAN check: image, generation, BAYS, FEXP, and a serving descriptor that does not fit (R311). -/
def planBad (x : Partition) (d : DomainDesc) (me : Nat) : Bool :=
  match x.slotOf d.plan with
  | none => true
  | some k =>
    let img := ((x.plans[k]?).join).getD []
    let mask : BitVec 8 := ((d.members[me]?).map (fun (r : BitVec 24 × BitVec 8) => r.2)).getD 0
    x.gen != some (imgGen img) || imgFexp img != d.fexp
      || imgBays img != ((List.range 8).filter mask.getLsbD).length || mask != x.bayMask
      || (match x.serving.desc with
          | none => false
          | some v => servingBad v d.members.length (8 * x.bays.length) || v.f0 + v.sf > imgFurlongs img)

/-- The first cause of Table FAB-11 that an admitted IDLE member raises; d is its descriptor where it matches. -/
def memberCause (hub : Hub) (p : Part) (line : MgLine) (sealDigest : BitVec 256) (d : Option DomainDesc) (m : Mod) : Nat :=
  let x := m.part p
  match d with
  | none => suDesc
  | some d =>
    match d.memberOf m.node with
    | none => suDesc
    | some me =>
      let bays := x.bays
      let outside := x.ports.filter (fun q => (d.linkAt m.node q.val).isNone)
      if planBad x d me then suPlan
      else if hub.power.st != .ready || hub.power.entering || hub.power.leaving.isSome || hub.clock != .locked
          || (hub.resync && !m.timingRoot) || !x.corrupt.isEmpty
          || m.cal.due.any (fun r => bays.contains r.1 && m.repairable r.1 r.2.1 r.2.2) then suNotReady
      else if outside.any (fun q => (m.port q).carries && (m.port q).rxDomain == d.domain) then suConflict
      else if line.sealed && !(match x.member.retained with
          | some r => r.valid && r.sealDigest == sealDigest
          | none => false) then suSeal
      else if bays.any (fun b => (m.usable b).length < 8) then suBay
      else suOk

/-! ### Voting (R303) -/

/-- What a VOTE says of a subtree, gathered. -/
structure Ballot where
  count : Nat
  cause : Nat
  origin : BitVec 24
  latency : List (Nat × Nat × Bool)
  stepping : List (Nat × Nat)
  deriving DecidableEq, Repr, Inhabited

/-- A tree child whose edge is not ACTIVE is not waited for. -/
def Mod.edgeDead (m : Mod) (c : Nat × Nat) : Bool := (m.port (toFin 16 c.2)).st != .active

/-- The VOTE of every tree child is in, or its edge is not ACTIVE. -/
def StartRec.complete (r : StartRec) (m : Mod) : Bool :=
  r.children.all (fun c => r.votes.any (fun v => v.child == c.1) || m.edgeDead c)

/-- The latency record of the link at a port; one that carries unplanned traffic only is DOWN for it, as one in NARROW is (R36;
DEDUCED, log 134). -/
def Mod.latencyRec (m : Mod) (d : DomainDesc) (q : Nat) : Option (Nat × Nat × Bool) :=
  (d.linkAt m.node q).map (fun (l : Nat × BitVec 24 × Nat) =>
    let x := m.port (toFin 16 q)
    (l.1, x.latency.getD 0, x.st != .active || x.alignLost))

/-- The ballot of this member and its subtree. The refusal of the lowest member index governs. -/
def ballot (p : Part) (r : StartRec) (m : Mod) : Ballot :=
  let mb := (m.part p).member
  let d := mb.desc
  let me := (m.memberIndex p).getD 0x3FFF
  let idx (n : BitVec 24) : Nat := match d with
    | some d => (d.memberOf n).getD 0x3FFF
    | none => 0x3FFF
  let dead := r.children.filter (fun c => m.edgeDead c && !r.votes.any (fun v => v.child == c.1))
  let own := if r.cause ≠ suOk then [(me, r.cause, m.node)]
    else if dead.isEmpty then [] else [(me, suTreeLink, m.node)]
  let theirs := (r.votes.filter (fun v => v.cause != suOk)).map (fun (v : VoteRec) => (idx v.origin, v.cause, v.origin))
  let worst := (sortBy (fun (e : Nat × Nat × BitVec 24) => e.1) (own ++ theirs)).head?
  let mine : List (Nat × Nat × Bool) := match d with
    | some d => if r.children.isEmpty && r.cause == suDesc then [] else
        (d.links.filter (fun l => l.nodeA == m.node)).filterMap (fun l => m.latencyRec d l.portA)
          ++ (d.links.filter (fun l => l.nodeB == m.node && dead.any (fun c => (d.members[c.1]?).map (·.1) == some l.nodeA))).filterMap
            (fun l => m.latencyRec d l.portB)
    | none => []
  { count := (r.votes.map (·.count)).foldl (· + ·) 1
    cause := (worst.map (fun e => e.2.1)).getD suOk
    origin := (worst.map (fun e => e.2.2)).getD 0
    latency := if r.sealed then [] else r.votes.flatMap (·.latency) ++ mine
    stepping := r.votes.flatMap (·.stepping) ++ [(me, m.stepping)] }

/-- The body of a VOTE. -/
def voteBody (r : StartRec) (b : Ballot) : Bytes :=
  let line : MgLine := { mtype := 2, attempt := r.attempt, domain := r.domain, sealed := r.sealed, cause := b.cause
                         origin := b.origin, count := b.count, nlat := b.latency.length }
  let lat := b.latency.flatMap (fun (l : Nat × Nat × Bool) =>
    leBytes 4 (l.1 % 2 ^ 17 + l.2.1 % 1024 * 2 ^ 17 + (if l.2.2 then 2 ^ 27 else 0)))
  let st := b.stepping.flatMap (fun (e : Nat × Nat) => leBytes 4 (e.1 % 2 ^ 14 + e.2 % 256 * 2 ^ 14))
  fillLines 0 (line.bytes ++ lat ++ st)

/-- Read a VOTE from tree child c. -/
def VoteRec.parse (c : Nat) (line : MgLine) (body : Bytes) : VoteRec :=
  { child := c, count := line.count, cause := line.cause, origin := line.origin
    latency := (List.range line.nlat).map (fun i =>
      let w := leAt body (64 + 4 * i) 4
      (w % 2 ^ 17, w / 2 ^ 17 % 1024, bitN w 27))
    stepping := (List.range line.count).map (fun i =>
      let w := leAt body (64 + 4 * line.nlat + 4 * i) 4
      (w % 2 ^ 14, w / 2 ^ 14 % 256)) }

/-- Links that a ballot reports DOWN. -/
def Ballot.down (b : Ballot) : List Nat := (b.latency.filter (fun l => l.2.2)).map (·.1)

/-! ### Leaving an attempt -/

/-- The member returns to IDLE from PREPARED; a JOB_ABORT that waited ends with OK (R370). -/
def toIdle (p : Part) (m : Mod) : Mod :=
  let mb := (m.part p).member
  let m := updMember p (fun y => { y with start := none }) m
  if mb.st != .prepared then m
  else
    let m := setDomain p 0 m
    let m := updMember p (fun y => { y with
      st := .idle, children := [], parentPort := none, excl := [], abortHeld := none, aborts := [], since := m.wall }) m
    finishAt mb.abortHeld hOk 0 0 m

/-- Send a body on the tree edges of a held PREPARE. -/
def sendDown (cs : List (Nat × Nat)) (body : Bytes) (m : Mod) : Mod :=
  cs.foldl (fun m c => if (m.port (toFin 16 c.2)).carries then sendMg (toFin 16 c.2) body m else m) m

/-- The root sends PREPARE for its present attempt, to itself first (R303, R306). -/
def sendPrepare (p : Part) (m : Mod) : Mod :=
  let mb := (m.part p).member
  match mb.desc with
  | none => m
  | some d =>
    let line : MgLine := { mtype := 1, attempt := mb.rootAttempt, domain := d.domain, sealed := mb.rootSealed }
    let zero := match mb.retained with
      | some r => (List.range d.links.length).filter (fun j => r.latency.getD j 0 == 0)
      | none => []
    let excl := if mb.rootSealed then zero else mb.rootExcl
    let sl : BitVec 256 := if mb.rootSealed then d.sealDigest else 0
    let body := line.bytes ++ secondLine (Config.sha3d256 d.raw) sl ++ fillLines 0xFF (excl.flatMap (leBytes 4 ·))
    updMember p (fun y => { y with preparedAt := some m.wall, reissueAt := none }) (selfMg p body m)

/-- The root refuses its attempt with a cause (R306). -/
def refuse (p : Part) (cause : Nat) (down : List Nat) (m : Mod) : Mod :=
  let mb := (m.part p).member
  let line : MgLine := { mtype := 4, attempt := mb.rootAttempt, domain := m.domainId p, cause }
  let m := match mb.start with
    | some r => sendDown r.children line.bytes m
    | none => m
  let m := toIdle p m
  if reissues cause && mb.rootAttempt < 8 then
    let still := mb.rootSealed && cause != suSeal
    updMember p (fun y => { y with
      rootExcl := (mb.rootExcl ++ down).eraseDups, rootSealed := still, preparedAt := none
      reissueAt := some (m.wall + ms 16) }) m
  else
    let m := updMember p (fun y => { y with rootAttempt := 0, preparedAt := none, startRing := none }) m
    finishAt mb.startRing hStartFailed (if reissues cause then suAttempts else cause) 0 m

/-! ### Committing (R304, R305, R307) -/

/-- The planned routes of a domain: those of the transfer-table entries of its plan (R289). -/
def planRoutes (d : DomainDesc) (es : List Edge) (img : Bytes) : List (List Edge) :=
  let n := d.xw * d.yw
  let xy := ((List.range (8 * imgBays img)).flatMap (fun k =>
    (imgTile img k).xfers.map (fun e => (xfX e, xfY e)))).eraseDups
  (List.range n).flatMap (fun a => xy.filterMap (fun e =>
    let b := d.dest a e.1 e.2
    if b = a then none else some (plannedRoute es n a b)))

/-- The image of the plan that a descriptor names. -/
def Partition.imageOf (x : Partition) (d : DomainDesc) : Bytes :=
  match x.slotOf d.plan with
  | some k => ((x.plans[k]?).join).getD []
  | none => []

/-- The first multiple of a furlong at or after the bound of R304. -/
def firstT0 (fexp depth hmax : Nat) (sealed : Bool) : Nat :=
  roundUp (5 * depth * (hmax + 4096) + (if sealed then 50000 else 2000000)) (5 * 2 ^ fexp)

/-- What a member runs with: parameters, latency table, slot tables. -/
structure SetUp where
  params : Params
  latency : List Nat
  sched : Schedule
  deriving DecidableEq, Repr, Inhabited

/-- The set-up that the root fixes from a full ballot, or the cause that ends the start. -/
def rootSetUp (p : Part) (d : DomainDesc) (b : Ballot) (m : Mod) : Except Nat SetUp :=
  let mb := (m.part p).member
  let n := d.xw * d.yw
  let excl := (mb.rootExcl ++ b.down).eraseDups
  let table := (List.range d.links.length).map (fun j =>
    if excl.contains j then 0 else ((b.latency.find? (fun l => l.1 == j)).map (fun l => l.2.1)).getD 0)
  let es := d.edges excl table
  let left := d.links.zipIdx.filterMap (fun r => if excl.contains r.2 then none else some r.1)
  if !d.gridLinked left || !connected es n d.root then .error suGrid
  else
    let img := (m.part p).imageOf d
    match timing d (measure es n (planRoutes d es img)) with
    | none => .error suParams
    | some k =>
      let steps := (List.range n).map (fun i => ((b.stepping.find? (fun e => e.1 == i)).map (·.2)).getD 0xB0)
      let r := (domainNet d es img steps k).check
      if r.fail.isSome then .error suLoad else .ok { params := k, latency := table, sched := r.sched }

/-- The set-up that a sealed start takes over (R308). -/
def retainedSetUp (mb : Member) : Except Nat SetUp :=
  match mb.retained with
  | some r => .ok { params := r.params, latency := r.latency, sched := r.sched }
  | none => .error suSeal

/-- A member enters COMMITTED with a set-up. -/
def enterCommitted (p : Part) (u : SetUp) (t0 : Nat) (sealed : Bool) (sl : BitVec 256) (m : Mod) : Mod :=
  let excl := (List.range u.latency.length).filter (fun j => u.latency.getD j 0 == 0)
  updMember p (fun y => { y with
    st := .committed, params := u.params, t0 := t0, latency := u.latency, sched := u.sched, excl := excl
    ready := true, sealed := sealed, sealDigest := sl, start := none, rootAttempt := 0, preparedAt := none }) m

/-- What follows a commit at a member: it fails where a JOB_ABORT was held, which then completes (R370), where it
has lost lock since its PREPARE, so that it takes no part in this job (R61), and where it has reached T0 already
(R297). -/
def afterCommit (p : Part) (m : Mod) : Mod :=
  let x := m.part p
  match x.member.abortHeld with
  | some w =>
    finishAt (some w) hOk 0 0 (failOwn p cHostAbort (updMember p (fun y => { y with abortHeld := none }) m))
  | none =>
    if x.member.unlocked then failOwn p cLockLost m
    else if x.ctrOn && x.member.t0 < x.ctr then failOwn p cT0Unready m else m

/-- The body of a COMMIT; its STAMP is set as its flit leaves. -/
def commitBody (line : MgLine) (sealed : Bool) (sl : BitVec 256) (table : List Nat) : Bytes :=
  fillLines 0 (line.bytes ++ secondLine 0 sl ++ (if sealed then [] else table.flatMap (leBytes 2 ·)))

/-- The root commits: the first COMMIT flit starts its plan counter at 0 (R304); a root without tree children starts
it now. -/
def rootCommit (p : Part) (d : DomainDesc) (r : StartRec) (u : SetUp) (m : Mod) : Mod :=
  let mb := (m.part p).member
  let es := d.edges r.excl []
  let depth := treeDepth (distTo es (d.xw * d.yw) d.root)
  let hmax := maxL 0 (u.latency.map hopRods)
  let t0 := firstT0 d.fexp depth hmax r.sealed
  let line : MgLine := { mtype := 3, attempt := r.attempt, domain := d.domain, fexp := d.fexp, sealed := r.sealed
                         t0, g := u.params.g, h := u.params.h, s := u.params.s, d := u.params.d }
  let sl := sealOf d line u.latency
  let m := enterCommitted p u t0 r.sealed sl m
  let m := sendDown r.children (commitBody line r.sealed sl u.latency) m
  let m := if r.children.isEmpty then recordEpoch p (m.updPart p (fun x => { x with ctrOn := true, ctr := 0 })) else m
  let m := updMember p (fun y => { y with startRing := none }) m
  afterCommit p (finishAt mb.startRing hOk 0 t0 m)

/-- The root decides on the VOTEs of the whole tree (R304, R306). A COUNT that is short waits for VOTE_TIMEOUT. -/
def decideStart (p : Part) (r : StartRec) (b : Ballot) (m : Mod) : Mod :=
  match (m.part p).member.desc with
  | none => refuse p suDesc [] m
  | some d =>
    if b.cause ≠ suOk then refuse p b.cause b.down m
    else if b.count ≠ d.xw * d.yw then m
    else
      match (if r.sealed then retainedSetUp (m.part p).member else rootSetUp p d b m) with
      | .error c => refuse p c b.down m
      | .ok u => rootCommit p d r u m

/-- A member votes once every tree child has (R303). -/
def tryVote (p : Part) (m : Mod) : Mod :=
  match (m.part p).member.start with
  | none => m
  | some r =>
    if r.voted || !r.complete m then m
    else
      let b := ballot p r m
      let m := updMember p (fun y => { y with start := some { r with voted := true } }) m
      match r.parentPort with
      | some q => sendMg (toFin 16 q) (voteBody r b) m
      | none => decideStart p r b m

/-! ### PREPARE -/

/-- The member enters PREPARED: it takes the domain ID on its ports, and everything of an earlier job that a start
does away with goes. -/
def accept (p : Part) (r : StartRec) (slot : Nat) (m : Mod) : Mod :=
  let m := updMember p (fun y => { y with
    st := .prepared, attempt := r.attempt, since := m.wall, excl := r.excl, children := r.children
    parentPort := r.parentPort, ready := false, unlocked := false, failed := none, aborts := [], freezeGen := 0, frozen := false
    drained := [], drainedSent := false, freezeAt := none, dropped := [], dropPending := [] }) m
  let m := m.updPart p (fun x => { x with
    slot := slot, holds := [], serial := 0, standing := none, ctrOn := false, ctr := 0
    thermPrev := none, thermNext := none })
  newServingJob p (setDomain p r.domain m)

/-- The place of member me in the start tree: children, and the port to the parent. -/
def treePlace (d : DomainDesc) (excl : List Nat) (me : Nat) : List (Nat × Nat) × Option Nat :=
  let n := d.xw * d.yw
  let es := d.edges excl []
  let ds := distTo es n d.root
  (treeChildren es ds n me, (treeEdge es ds me).map (·.pa))

/-- The PREPARE held is as new as a received one, and not yet past the 200 ms of Table FAB-8. -/
def StartRec.holds (r : StartRec) (line : MgLine) (wall : Nat) : Bool :=
  r.domain == line.domain && r.attempt ≥ line.attempt && wall < r.since + ms 200

/-- The descriptor that a member holds, where its digest is the one named and the module is a member of it. -/
def Member.descFor (mb : Member) (node : BitVec 24) (digest : BitVec 256) : Option DomainDesc :=
  match mb.desc with
  | some d => if Config.sha3d256 d.raw == digest && (d.memberOf node).isSome then some d else none
  | none => none

/-- The digest and the seal that a PREPARE or COMMIT names, and the links that a PREPARE excludes, of nlink. -/
def MgIn.digest (i : MgIn) : BitVec 256 := BitVec.ofNat 256 (leAt i.body 64 32)
def MgIn.sealWord (i : MgIn) : BitVec 256 := BitVec.ofNat 256 (leAt i.body 96 32)
def MgIn.excl (i : MgIn) (nlink : Nat) : List Nat :=
  ((List.range ((i.body.length - 128) / 4)).map (fun k => leAt i.body (128 + 4 * k) 4)).filter (· < nlink)

/-- A PREPARE taken by partition p from a port, or by the root from itself. One of another domain that is refused leaves the
PREPARE held as it was. -/
def prepareAt (hub : Hub) (p : Part) (src : Option PortId) (test : SelfTest) (i : MgIn) (m : Mod) : Mod :=
  let mb := (m.part p).member
  if (match mb.start with | some r => r.holds i.line m.wall | none => false) then m
  else
    let sl := i.sealWord
    let d := mb.descFor m.node i.digest
    let excl := i.excl ((d.map (·.links.length)).getD 0)
    let again := mb.st == .prepared && (match mb.start with
      | some r => r.domain == i.line.domain && decide (r.attempt < i.line.attempt)
      | none => false)
    let free := (m.part p).admitted && ((mb.st == .idle && mb.since ≤ m.wall) || again)
    let m := if again then toIdle p m else m
    let m := if free then jobStart p test m else m
    let cause := if free then memberCause hub p i.line sl d m else suBusy
    let place := match d with
      | some d => treePlace d excl ((d.memberOf m.node).getD 0)
      | none => ([], none)
    let r : StartRec := { domain := i.line.domain, attempt := i.line.attempt, since := m.wall, excl, sealed := i.line.sealed
                          sealDigest := sl, children := place.1
                          parentPort := if d.isSome then place.2 else src.map (·.val), cause }
    let m := updMember p (fun y => { y with start := some r }) m
    let slot := match d with
      | some d => ((m.part p).slotOf d.plan).getD 0
      | none => 0
    let m := if cause = suOk then accept p r slot m else m
    let m := tryVote p (sendDown r.children i.body m)
    match mb.start with
    | some old =>
      if cause ≠ suOk && old.domain != i.line.domain && (mb.st == .prepared || !old.voted) then
        updMember p (fun y => { y with start := some old }) m
      else m
    | none => m

/-- Ports below a port at whose head a message of a type stands that became whole in the same cycle as that port's. -/
def rivalPorts (q : PortId) (mtype : Nat) (m : Mod) : List PortId :=
  let since (k : PortId) : Option Nat := ((m.port k).pkts[5]!).head?.map (·.since)
  allPorts.filter (fun k => decide (k.val < q.val) && since k == since q && (takeMgPort k mtype m).isSome)

/-- Take the PREPARE at a port, where one stands. -/
def takePrepare (hub : Hub) (p : Part) (test : SelfTest) (m : Mod) (q : PortId) : Mod :=
  match takeMg p (some q) 1 m with
  | some (i, m) => prepareAt hub p (some q) test i m
  | none => m

/-- PREPARE (R303). Of two that reach the member in one cycle that of the lower-numbered port is taken first (Table
FAB-12). -/
def execPrepare (p : Part) (src : Option PortId) (test : SelfTest) (s : State) : Host.Outcome State Fault Refusal :=
  match src with
  | some q => .next { s with m := (rivalPorts q 1 s.m ++ [q]).foldl (takePrepare s.hub p test) s.m }
  | none =>
    match takeMg p none 1 s.m with
    | none => .next s
    | some (i, m) => .next { s with m := prepareAt s.hub p none test i m }

/-! ### VOTE -/

/-- A VOTE from the tree child at port q: of the attempt held, and the first from it. -/
def voteAt (p : Part) (q : PortId) (i : MgIn) (m : Mod) : Mod :=
  match (m.part p).member.start with
  | none => m
  | some r =>
    match r.children.find? (fun c => c.2 == q.val) with
    | none => m
    | some c =>
      if r.voted || i.line.attempt ≠ r.attempt || i.line.domain != r.domain || r.votes.any (fun v => v.child == c.1) then m
      else
        let v := VoteRec.parse c.1 i.line i.body
        tryVote p (updMember p (fun y => { y with start := some { r with votes := r.votes ++ [v] } }) m)

/-- VOTE (R303): from a child, or, without a source, of a member whose last awaited tree edge has left ACTIVE. -/
def execVote (p : Part) (src : Option PortId) (s : State) : Host.Outcome State Fault Refusal :=
  match src with
  | none => .next { s with m := tryVote p s.m }
  | some q =>
    match takeMg p src 2 s.m with
    | none => .next s
    | some (i, m) => .next { s with m := voteAt p q i m }

/-! ### COMMIT -/

/-- The COMMIT line of a received message with the fields that enter the seal, and a set-up built from it. -/
def memberSetUp (d : DomainDesc) (img : Bytes) (i : MgIn) : SetUp :=
  let n := d.xw * d.yw
  let table := (List.range d.links.length).map (fun j => leAt i.body (128 + 2 * j) 2)
  let excl := (List.range d.links.length).filter (fun j => table.getD j 0 == 0)
  let es := d.edges excl table
  let k : Params := { n := i.line.fexp, g := i.line.g, h := i.line.h, s := i.line.s, d := i.line.d
                      pathLat := (measure es n (planRoutes d es img)).path }
  { params := k, latency := table, sched := ((domainNet d es img (List.replicate n 0xC0) k).tables slotRule).sched }

/-- A COMMIT received at port q: the counter takes STAMP + λ of the cycle of delivery (R305). One that follows an
ABORT, or whose T0 breaks R38, is ignored. -/
def commitAt (p : Part) (q : PortId) (i : MgIn) (m : Mod) : Mod :=
  let x := m.part p
  let mb := x.member
  match mb.desc with
  | none => m
  | some d =>
    if mb.st != .prepared || mb.attempt ≠ i.line.attempt || i.line.domain != d.domain || !mb.aborts.isEmpty
        || i.line.t0 % (5 * 2 ^ i.line.fexp) ≠ 0 || i.line.t0 ≥ 2 ^ 63 then m
    else
      match (if i.line.sealed then retainedSetUp mb else .ok (memberSetUp d (x.imageOf d) i)) with
      | .error _ => m
      | .ok u =>
        let ctr := i.line.stamp + (m.port q).latency.getD 0 + (m.wall - i.first)
        let sl := sealOf d i.line u.latency
        let kids := mb.children
        let m := enterCommitted p u i.line.t0 i.line.sealed sl m
        let m := recordEpoch p (m.updPart p (fun x => { x with ctrOn := true, ctr := ctr }))
        let m := sendDown kids i.body m
        if sl != i.sealWord then
          let held := mb.abortHeld
          finishAt held hOk 0 0 (failOwn p cSealMismatch (updMember p (fun y => { y with abortHeld := none }) m))
        else afterCommit p m

/-- COMMIT (R305): the root commits as it decides, so a COMMIT always comes from a port. -/
def execCommit (p : Part) (src : Option PortId) (s : State) : Host.Outcome State Fault Refusal :=
  match src, takeMg p src 3 s.m with
  | some q, some (i, m) => .next { s with m := commitAt p q i m }
  | _, _ => .next s

/-! ### ABANDON and the timeouts -/

/-- ABANDON of the attempt held, forwarded down the tree. -/
def abandonAt (p : Part) (i : MgIn) (m : Mod) : Mod :=
  match (m.part p).member.start with
  | none => m
  | some r =>
    if r.attempt ≠ i.line.attempt || r.domain != i.line.domain then m
    else toIdle p (sendDown r.children i.body m)

/-- ABANDON (R306). -/
def execAbandon (p : Part) (src : Option PortId) (s : State) : Host.Outcome State Fault Refusal :=
  match takeMg p src 4 s.m with
  | none => .next s
  | some (i, m) => .next { s with m := abandonAt p i m }

/-- PREPARE_TIMEOUT (Table FAB-8): 200 ms after it accepted the PREPARE. -/
def execPrepareTimeout (p : Part) (s : State) : Host.Outcome State Fault Refusal :=
  let mb := (s.m.part p).member
  if mb.st != .prepared then .next s
  else
    let m := advanceWall (mb.since + ms 200) s.m
    .next { s with m := if (m.part p).member.st == .prepared then toIdle p m else m }

/-- Take the VOTEs that stand at the ports of the tree children. -/
def takeVotes (p : Part) (m : Mod) : Mod :=
  (((m.part p).member.start.map (·.children)).getD []).foldl (fun m c =>
    match takeMg p (some (toFin 16 c.2)) 2 m with
    | some (i, m) => voteAt p (toFin 16 c.2) i m
    | none => m) m

/-- VOTE_TIMEOUT (Table FAB-11): 100 ms after the root's PREPARE. A VOTE that has arrived by then is taken first (Table
FAB-12). -/
def execVoteTimeout (p : Part) (s : State) : Host.Outcome State Fault Refusal :=
  match (s.m.part p).member.preparedAt with
  | none => .next s
  | some w =>
    let m := takeVotes p (advanceWall (w + ms 100) s.m)
    if (m.part p).member.preparedAt ≠ some w then .next { s with m := m }
    else
      let down := match (m.part p).member.start with
        | some r => (ballot p r m).down
        | none => []
      .next { s with m := refuse p suVoteTimeout down m }

/-- REISSUE_DELAY (R306): the next attempt, 16 ms after the last was abandoned. -/
def execReissueDelay (p : Part) (s : State) : Host.Outcome State Fault Refusal :=
  match (s.m.part p).member.reissueAt with
  | none => .next s
  | some w =>
    let m := advanceWall w s.m
    let m := updMember p (fun y => { y with rootAttempt := y.rootAttempt + 1, reissueAt := none }) m
    .next { s with m := sendPrepare p m }

/-! ### ABORT (R298) -/

/-- An ABORT for the member's domain. A PREPARED member, which a COMMIT would commit, logs and forwards it, so that the
COMMIT after it is ignored (Table FAB-12). -/
def abortAt (p : Part) (src : Option PortId) (i : MgIn) (m : Mod) : Mod :=
  let mb := (m.part p).member
  let log (m : Mod) : Mod := updMember p (fun y =>
    if y.aborts.length < 16 then { y with aborts := y.aborts ++ [i.body.take 64] } else y) m
  if i.line.domain != m.domainId p then m
  else
    match mb.st with
    | .committed | .running => failMember p i.line.cause i.line.origin i.line.stamp src m
    | .prepared =>
      let m := if mb.aborts.isEmpty then
          ((m.domainPorts p).filter (fun q => some q != src)).foldl (fun m q => queueVcFirst q vcMg (m.mgFlits q i.body) m) m
        else m
      log m
    | .teardown => log m
    | .idle => m

def execAbort (p : Part) (src : Option PortId) (s : State) : Host.Outcome State Fault Refusal :=
  match takeMg p src 5 s.m with
  | none => .next s
  | some (i, m) => .next { s with m := abortAt p src i m }

/-! ### The change of routes (R300) -/

/-- Root of its domain. -/
def Mod.isRoot (m : Mod) (p : Part) : Bool :=
  match (m.part p).member.desc, m.memberIndex p with
  | some d, some me => me == d.root
  | _, _ => false

/-- The member may take part in a route change. -/
def Member.joined (mb : Member) : Bool := mb.st == .committed || mb.st == .running

/-- The queues of the member on VCs 1 to 4 are empty, and every request it has sent is answered or timed out. -/
def Mod.quiet (m : Mod) (p : Part) : Bool :=
  let mb := (m.part p).member
  (m.domainPorts p).all (fun q =>
    let x := m.port q
    (x.txVc.toList.take 4).all (·.isEmpty) && ((x.pkts.toList.drop 1).take 4).all (·.isEmpty)
      && ((x.partials.toList.drop 1).take 4).all (·.isNone))
  && mb.requests.all (fun r => r.done.isSome || mb.unsent r.tag)

/-- A message of a route change. DRAINED and SWITCH use no ORIGIN; FREEZE carries that of the node that raised it (R301). -/
def routeLine (m : Mod) (p : Part) (mtype gen : Nat) (origin : BitVec 24 := 0) : MgLine :=
  { mtype, attempt := (m.part p).member.attempt, domain := m.domainId p, origin, count := gen }

/-- The new route tables take effect: links that have left ACTIVE are no candidates, and origination resumes. -/
def switchRoutes (p : Part) (m : Mod) : Mod :=
  let kids := (m.part p).member.children
  let m := sendDown kids (routeLine m p 8 (m.part p).member.freezeGen).bytes m
  updMember p (fun y => { y with
    dropped := y.dropped ++ y.dropPending, dropPending := [], frozen := false, freezeAt := none, drained := []
    drainedSent := false }) m

/-- DRAINED goes up once the subtree is drained; at the root it is answered with SWITCH. -/
def tryDrained (p : Part) (m : Mod) : Mod :=
  let mb := (m.part p).member
  if !mb.frozen || mb.drainedSent || !mb.joined || !mb.children.all (fun c => mb.drained.contains c.1) || !m.quiet p then m
  else if m.isRoot p then switchRoutes p m
  else sendParent p (routeLine m p 7 mb.freezeGen).bytes (updMember p (fun y => { y with drainedSent := true }) m)

/-- FREEZE goes down: the member originates nothing new. -/
def freezeDown (p : Part) (gen : Nat) (origin : BitVec 24) (m : Mod) : Mod :=
  let m := updMember p (fun y => { y with freezeGen := gen, frozen := true, drained := [], drainedSent := false
                                          freezeAt := some m.wall }) m
  tryDrained p (sendDown (m.part p).member.children (routeLine m p 6 gen origin).bytes m)

/-- FREEZE on its way up the tree, or down. -/
def freezeAt (p : Part) (src : Option PortId) (i : MgIn) (m : Mod) : Mod :=
  let mb := (m.part p).member
  if !mb.joined || i.line.domain != m.domainId p || i.line.count ≤ mb.freezeGen then m
  else if m.isRoot p || (mb.parentPort.isSome && mb.parentPort == src.map (·.val)) then freezeDown p i.line.count i.line.origin m
  else sendParent p (i.body.take 64) m

def execFreeze (p : Part) (src : Option PortId) (s : State) : Host.Outcome State Fault Refusal :=
  match takeMg p src 6 s.m with
  | none => .next s
  | some (i, m) => .next { s with m := freezeAt p src i m }

/-- DRAINED from a tree child. -/
def drainedAt (p : Part) (q : PortId) (i : MgIn) (m : Mod) : Mod :=
  let mb := (m.part p).member
  match mb.children.find? (fun c => c.2 == q.val) with
  | none => m
  | some c =>
    if !mb.frozen || i.line.count ≠ mb.freezeGen || i.line.domain != m.domainId p then m
    else tryDrained p (updMember p (fun y => { y with drained := (y.drained ++ [c.1]).eraseDups }) m)

/-- DRAINED: from a child, or, without a source, of a member whose own queues have drained. -/
def execDrained (p : Part) (src : Option PortId) (s : State) : Host.Outcome State Fault Refusal :=
  match src with
  | none => .next { s with m := tryDrained p s.m }
  | some q =>
    match takeMg p src 7 s.m with
    | none => .next s
    | some (i, m) => .next { s with m := drainedAt p q i m }

/-- SWITCH from the parent. -/
def switchAt (p : Part) (i : MgIn) (m : Mod) : Mod :=
  let mb := (m.part p).member
  if !mb.frozen || i.line.count ≠ mb.freezeGen || i.line.domain != m.domainId p || !mb.joined then m else switchRoutes p m

def execSwitch (p : Part) (src : Option PortId) (s : State) : Host.Outcome State Fault Refusal :=
  match takeMg p src 8 s.m with
  | none => .next s
  | some (i, m) => .next { s with m := switchAt p i m }

/-- ROUTE_DRAIN: 20 ms after the root's FREEZE without SWITCH, the domain fails. -/
def execRouteDrain (p : Part) (s : State) : Host.Outcome State Fault Refusal :=
  match (s.m.part p).member.freezeAt with
  | none => .next s
  | some w =>
    if !s.m.isRoot p then .next s
    else
      let m := advanceWall (w + ms 20) s.m
      .next { s with m := if (m.part p).member.freezeAt == some w then failOwn p cRouteDrain m else m }

/-! ### Readers of a stone record (R340, R353, R355) -/

/-- A load or a chain install still reads the record at an offset. -/
def Mod.recordRead (m : Mod) (p : Part) (foff : Nat) : Bool :=
  let x := m.part p
  x.load.any (fun l => l.failed.isNone && (l.entries.drop l.pos).any (fun e => e.foff == foff))
    || x.chain.any (fun c => m.memberIndex p == some c.first && (c.foffs.drop c.sentRec).contains foff)

/-- The deletion of a record takes effect. -/
def deleteRecord (p : Part) (foff : Nat) (m : Mod) : Mod :=
  m.updPart p (fun x => { x with ns := x.ns.map (fun s => { s with dir := s.dir.filter (fun d => d.foff != foff) }) })

/-- Deletions that wait take effect once nothing reads their record. -/
def settleDeletes (p : Part) (m : Mod) : Mod :=
  ((((m.part p).ns.map (·.dir)).getD []).filter (fun d => d.deleting.isSome)).foldl (fun m d =>
    if m.recordRead p d.foff then m else finishAt d.deleting 0 0 0 (deleteRecord p d.foff m)) m

def hLoadAborted : Nat := 0x005A

/-- The job's end ends a chain install at its member. -/
def endChain (p : Part) (m : Mod) : Mod :=
  match (m.part p).chain with
  | none => m
  | some c => finishAt (some c.ring) hLoadAborted 0 0 (settleDeletes p (m.updPart p (fun x => { x with chain := none })))

/-! ### Teardown (R299) -/

/-- A DATA flit. -/
def TxFlit.isData (f : TxFlit) : Bool := f.type == 1

/-- No DATA flit of the domain is outstanding or queued at a port, in either direction. -/
def Port.empty (x : Port) : Bool :=
  !x.replayBuf.any (fun o => o.flit.isData) && x.displacedQ.isEmpty && x.planned.isEmpty
    && x.txVc.toList.all (·.isEmpty) && !x.held.any (fun h => hType h.2.1 == 1)
    && x.pkts.toList.all (·.isEmpty) && x.partials.toList.all (·.isNone)

/-- Steps 2 and 3 of R299 are complete. -/
def Mod.tornDown (m : Mod) (p : Part) : Bool :=
  let mb := (m.part p).member
  mb.requests.all (fun r => r.done.isSome
      || mb.originQ.any (fun k => pkTag k.header == r.tag.toNat && !m.lastWord p k))
    && (m.domainPorts p).all (fun q => (m.port q).st == .down || (m.port q).empty)

/-- The teardown of a member ends: it enters IDLE. A job that ended by itself is reported with DOMAIN_ENDED, and the end of a
failed one with a second DOMAIN_FAILED (DEDUCED, log 135). IDLE takes effect at the end of the cycle (Table FAB-12). -/
def endTeardown (p : Part) (m : Mod) : Mod :=
  let mb := (m.part p).member
  let id := m.domainId p
  let m := recordEpoch p (endChain p (setDomain p 0 (settleJob p m)))
  let m := m.updPart p (fun x => { x with
    ctrOn := false, holds := [], standing := none
    member := { x.member with
      st := .idle, since := m.wall + 1, children := [], parentPort := none, excl := [], aborts := []
      requests := [], originQ := [], frozen := false, freezeAt := none, inbox := [] } })
  if mb.failed.isSome then postFailed p ((mb.failed).getD 0) m
  else
    let info (k : Nat) : Reg := BitVec.ofNat 32 (id.toNat + k * 2 ^ 24)
    let m := m.updFunc (vfOf p) (fun f => { f with evtDomain := info 0 })
    let m := m.updFunc pf0 (fun f => { f with evtDomain := info p.val })
    postBoth p evDomainEnded m

/-- A domain port that has not drained 12 ms after entry to TEARDOWN is taken to DOWN. -/
def forceDrain (p : Part) (q : PortId) (m : Mod) : Mod :=
  let m := advanceWall ((m.part p).member.since + ms 12) m
  if (m.port q).empty then m else portDown q m

end Sys2Proof.Machine
end

