-- ==== Sys2Proof/Machine/Host.lean ====
section
/-!
DEFINITION. The host interface apart from its opcodes (R356 to R366, R376, R381, R382): doorbells, the posting of
completions, MSI-X coalescing, ring errors, resets of the link and of functions.
-/
namespace Sys2Proof.Machine

/-! ### Wake by a doorbell (R418) -/

/-- A doorbell that reaches a module in STANDBY, or on its way there, takes effect when READY is reached; it wakes the
module where WAKE_DB is set. -/
def Hub.holdDoorbell (h : Hub) (f : Fn) (w : Reg) (wall : Nat) : Hub :=
  let h := { h with power := { h.power with doorbells := h.power.doorbells ++ [(f.val, w)] } }
  if h.power.wakeDb then h.beginWake 2 wall else h

/-! ### Doorbells (R359, R365, R366) -/

def dbIndex (w : Reg) : Nat := fld w 15 0
def dbRing (w : Reg) : Nat := fld w 19 16
def dbKind (w : Reg) : Nat := fld w 31 30

/-- A doorbell write that is ignored and counted, RING_DB being posted at the function. -/
def doorbellInvalid (f : Fn) (m : Mod) : Mod :=
  postAt f evRingDb { m with regs := { m.regs with dbInvalid := m.regs.dbInvalid.add 1 } }

/-- The new submission tail is good. -/
def tailGood (r : RingPair) (i : Nat) : Bool :=
  r.st == .running && decide (i < r.size) && decide (r.visible ≤ (i + r.size - r.head) % r.size)

/-- The new completion head is good. -/
def headGood (r : RingPair) (i : Nat) : Bool :=
  (r.st == .running || r.st == .draining) && decide (i < r.size) && decide ((i + r.size - r.cqHead) % r.size ≤ r.cqUsed)

def ResultRing.size (r : ResultRing) : Nat := 2 ^ fld r.ctrl.active 5 1
def ResultRing.vec (r : ResultRing) : Nat := fld r.ctrl.active 11 6
def ResultRing.base (r : ResultRing) : Nat := r.lo.active.toNat + 2 ^ 32 * r.hi.active.toNat
def ResultRing.wb (r : ResultRing) : Nat := r.wbLo.active.toNat + 2 ^ 32 * r.wbHi.active.toNat

/-- The new result head is good. -/
def resultGood (r : ResultRing) (i : Nat) : Bool :=
  (r.st == .running || r.st == .draining) && decide (i < r.size) && decide ((i + r.size - r.head) % r.size ≤ r.used)

/-- A doorbell write at a function whose partition is admitted. -/
def doorbellAt (f : Fn) (w : Reg) (m : Mod) : Mod :=
  let x := m.func f
  let i := dbIndex w
  let n : PairId := toFin 16 (dbRing w)
  if fld w 29 20 ≠ 0 || dbKind w = 3 then doorbellInvalid f m
  else if dbKind w = 2 then
    if f = pf0 || !resultGood x.result i then doorbellInvalid f m
    else m.updFunc f (fun x => { x with result := { x.result with
      used := x.result.used - (i + x.result.size - x.result.head) % x.result.size, head := i } })
  else if dbRing w ≥ fnPairs f then doorbellInvalid f m
  else if dbKind w = 0 then
    if tailGood (x.pair n) i then
      intakeAll f n (updPair f n (fun r =>
        { r with tail := i, shown := if i = r.tail then r.shown else r.shown ++ [(i, m.wall)] }) m)
    else doorbellInvalid f m
  else
    if headGood (x.pair n) i then
      intakeAll f n
        (updPair f n (fun r => { r with cqUsed := r.cqUsed - (i + r.size - r.cqHead) % r.size, cqHead := i }) m)
    else doorbellInvalid f m

/-- A doorbell write: one at a VF whose partition is not admitted is dropped and counted (R359). -/
def doorbell (f : Fn) (w : Reg) (m : Mod) : Mod :=
  if !m.hostUp then m
  else if !m.fnLive f then { m with regs := { m.regs with dbDropped := m.regs.dbDropped.add 1 } }
  else doorbellAt f w m

/-- A doorbell row, of the kinds it takes. -/
def onDoorbell (f : Fn) (w : Reg) (s : State) : Host.Outcome State Fault Refusal :=
  match s.hub.power.st with
  | .standby => if s.m.hostUp then .next { s with hub := s.hub.holdDoorbell f w s.m.wall } else .next s
  | .ready =>
    if s.hub.power.entering then
      if s.m.hostUp then .next { s with hub := s.hub.holdDoorbell f w s.m.wall } else .next s
    else .next { s with m := doorbell f w s.m }
  | _ => .next s

/-- SQ_TAIL_DOORBELL: KIND 0b00, or the reserved KIND. -/
def execSqTailDoorbell (f : Fn) (w : Reg) (s : State) : Host.Outcome State Fault Refusal :=
  if dbKind w = 0 || dbKind w = 3 then onDoorbell f w s else .next s

/-- CQ_HEAD_DOORBELL: KIND 0b01. -/
def execCqHeadDoorbell (f : Fn) (w : Reg) (s : State) : Host.Outcome State Fault Refusal :=
  if dbKind w = 1 then onDoorbell f w s else .next s

/-- RESULT_HEAD_DOORBELL: KIND 0b10. -/
def execResultHeadDoorbell (f : Fn) (w : Reg) (s : State) : Host.Outcome State Fault Refusal :=
  if dbKind w = 2 then onDoorbell f w s else .next s

/-! ### Posting completions (R376, R382) -/

/-- The 32 bytes of a completion entry (Table HST-6). -/
def Compl.bytes (c : Compl) (phase : Bool) : Bytes :=
  leBytes 4 c.tag.toNat ++ leBytes 2 c.index ++ leBytes 2 c.head ++ leBytes 2 c.status ++ leBytes 2 c.detail
  ++ leBytes 8 c.result ++ leBytes 11 0 ++ leBytes 1 (if phase then 0x80 else 0)

/-- Post one entry into a free place; nothing where its write ends in a PCIe error. -/
def postEntry (f : Fn) (n : PairId) (c : Compl) (m : Mod) : Option Mod :=
  let r := (m.func f).pair n
  let a := r.cqBase + 32 * r.cqTail
  if m.dmaFails a 32 then none
  else
    let wrap := r.cqTail + 1 = r.size
    some (updPair f n (fun r => { r with
        cqTail := if wrap then 0 else r.cqTail + 1, phase := if wrap then !r.phase else r.phase, cqUsed := r.cqUsed + 1 })
      { m with hostMem := m.hostMem.write a (c.bytes r.phase) })

/-- Post entries in order, up to one whose write fails: true where all are written. -/
def postEntries (f : Fn) (n : PairId) : List Compl → Mod → Bool × Mod
  | [], m => (true, m)
  | c :: cs, m =>
    match postEntry f n c m with
    | none => (false, m)
    | some m => postEntries f n cs m

/-- Count posted completions toward the interrupt of a completion ring. -/
def countIrq (f : Fn) (n : PairId) (m : Mod) : Mod :=
  let r := (m.func f).pair n
  if r.coal + 1 ≥ max 1 r.coalCnt then
    let m := updPair f n (fun r => { r with coal := 0, coalAt := none }) m
    m.updFunc f (·.msix r.vec)
  else updPair f n (fun r => { r with coal := r.coal + 1, coalAt := r.coalAt.or (some m.wall) }) m

/-- Post what a ring has to post, all together, when every entry has a free place. -/
def postAllEntries (f : Fn) (n : PairId) (m : Mod) : Mod :=
  let r := (m.func f).pair n
  if r.post.isEmpty || !(r.st == .running || r.st == .draining) || r.cqUsed + r.post.length > r.size then m
  else
    match postEntries f n r.post m with
    | (false, m) => ringError f n m
    | (true, m) =>
      let m := updPair f n (fun r => { r with post := [] }) m
      let m := if r.post.any (·.irq) then countIrq f n m else m
      intakeAll f n m

/-- COMPLETION_POST (R376). -/
def execCompletionPost (f : Fn) (n : PairId) (s : State) : Host.Outcome State Fault Refusal :=
  .next { s with m := postAllEntries f n s.m }

/-- MSIX_COALESCE_TIMER (R382): COAL_US after the first counted completion. -/
def execMsixCoalesceTimer (f : Fn) (n : PairId) (s : State) : Host.Outcome State Fault Refusal :=
  match ((s.m.func f).pair n).coalAt with
  | none => .next s
  | some w =>
    let m := advanceWall (w + us ((s.m.func f).pair n).coalUs) s.m
    let r := (m.func f).pair n
    if r.coalAt ≠ some w then .next { s with m := m }
    else
      let m := updPair f n (fun r => { r with coal := 0, coalAt := none }) m
      .next { s with m := m.updFunc f (·.msix r.vec) }

/-! ### Draining, errors (R364) -/

/-- RING_DRAIN_COMPLETE: what a DRAINING pair had taken is done and posted. -/
def execRingDrainComplete (f : Fn) (n : PairId) (s : State) : Host.Outcome State Fault Refusal :=
  let r := (s.m.func f).pair n
  if r.st != .draining || r.busy.isSome || !r.post.isEmpty || r.whole then .next s
  else .next { s with m := updPair f n (fun r => { r with st := .disabled, held := [] }) s.m }

/-- A result-ring write ends in a PCIe error: the ring enters ERROR. -/
def resultError (f : Fn) (m : Mod) : Mod :=
  postAt f evRingError (m.updFunc f (fun x => { x with result := { x.result with st := .error } }))

/-- HOST_MEMORY_ERROR: a DMA of a ring that runs or drains ends in a PCIe error. -/
def execHostMemoryError (f : Fn) (ring : RingRef) (s : State) : Host.Outcome State Fault Refusal :=
  match ring with
  | .pair n =>
    let st := ((s.m.func f).pair n).st
    if n.val < fnPairs f && (st == .running || st == .draining) then .next { s with m := ringError f n s.m } else .next s
  | .result =>
    let st := (s.m.func f).result.st
    if f != pf0 && (st == .running || st == .draining) then .next { s with m := resultError f s.m } else .next s

/-! ### Resets (R360) -/

/-- A pair enters DISABLED and posts nothing more; a group that was acting is undone (Table HST-8). -/
def stopPair (f : Fn) (m : Mod) (n : PairId) : Mod :=
  let m := match ((m.func f).pair n).busy with
    | some b => if b.group then undoAll b m else m
    | none => m
  updPair f n (fun r => { r with st := .disabled, held := [], busy := none, post := [], coal := 0, coalAt := none }) m

/-- Every ring of a function enters DISABLED. -/
def stopRings (f : Fn) (m : Mod) : Mod :=
  (allPairs.foldl (stopPair f) m).updFunc f (fun x => { x with result := { x.result with st := .disabled } })

/-- Clear EN of a CTRL register, shadow and active value. -/
def clearEn (w : Rws) : Rws := { shadow := w.shadow &&& 0xFFFFFFFE, active := w.active &&& 0xFFFFFFFE }

/-- The loss of the host link at one function: EN is cleared everywhere, all else of the rings kept. -/
def loseRings (m : Mod) (f : Fn) : Mod :=
  (stopRings f m).updFunc f (fun x => { x with
    pairs := x.pairs.map (fun r => { r with ctrl := clearEn r.ctrl })
    result := { x.result with ctrl := clearEn x.result.ctrl } })

/-- HOT_RESET (R360): a hot reset, PERST_N, or link down. -/
def execHotReset (s : State) : Host.Outcome State Fault Refusal :=
  .next { s with m := { allFns.foldl loseRings s.m with hostUp := false, ringsLost := true } }

/-- RINGS_LOST (R480): the host link has returned. -/
def execRingsLost (s : State) : Host.Outcome State Fault Refusal :=
  if s.m.hostUp then .next s
  else .next { s with m := postAll evRingsLost { s.m with hostUp := true, ringsLost := false } }

/-- HOST_LINK_DEGRADED (R356): reported in PF0; every descriptor keeps its meaning. -/
def execHostLinkDegraded (s : State) : Host.Outcome State Fault Refusal :=
  .next { s with m := postEvent pf0 evHostLinkDegraded s.m }

def cHostReset : Nat := 0x0032

/-- A function after its reset (R473); the model's own operation numbers and the list of messages sent
go on. -/
def freshFunc (x : Func) : Func := { msixSent := x.msixSent, pairs := x.pairs.map (fun r => { taken := r.taken }) }

/-- VF_FLR (R360, R473): rings DISABLED, registers at their reset values, a running job fails. A shadow of the check
block that waited for the plan's end is discarded. -/
def execVfFlr (p : Part) (s : State) : Host.Outcome State Fault Refusal :=
  let m := stopRings (vfOf p) s.m
  let m := (m.updFunc (vfOf p) freshFunc).updPart p (fun x => { x with chkPending := false })
  .next { s with m := failOwn p cHostReset m }

end Sys2Proof.Machine
end

