-- ==== Sys2Proof/Machine/HostOps.lean ====
section
/-!
DEFINITION. The opcodes of Table HST-5 for plans, windows, copies, partitions and domains (R369, R370), and the rows
in which their long operations end.
-/
namespace Sys2Proof.Machine

/-! ### Status codes (Table HST-7) and field checks -/

def hPlanRefused : Nat := 0x0020
def hPlanGeneration : Nat := 0x0021
def hPlanRunning : Nat := 0x0022
def hPartExists : Nat := 0x0030
def hBayBusy : Nat := 0x0031
def hBayUnusable : Nat := 0x0032
def hPowerRefused : Nat := 0x0033
def hPartitionBusy : Nat := 0x0034
def hNsSpace : Nat := 0x0035
def hWindowRange : Nat := 0x0036
def hNsExists : Nat := 0x0037
def hAddrWindow : Nat := 0x0040
def hMemUe : Nat := 0x0041
def hDomainRefused : Nat := 0x0060
def hDomainBusy : Nat := 0x0061
def hNotRoot : Nat := 0x0062
def hServingRefused : Nat := 0x0070
def hTtlRefused : Nat := 0x0074

/-- The first byte offset whose condition holds. -/
def firstBad : List (Nat × Bool) → Option Nat
  | [] => none
  | (o, bad) :: r => if bad then some o else firstBad r

/-- Run an operation on the partition of a descriptor; a PART of none leaves all unchanged. -/
def withPart (f : Fn) (b : Bytes) (g : Part → OpResult) (m : Mod) : OpResult :=
  match descPart f b with
  | some p => g p
  | none => .done hOk 0 0 m

/-- A condition on the partition of a descriptor. -/
def partIs (f : Fn) (b : Bytes) (g : Part → Bool) : Bool := (descPart f b).any g

/-- What an operation at once leaves behind. -/
def OpResult.after (r : OpResult) (m : Mod) : Mod :=
  match r with
  | .done s _ _ m' => if s = hOk then m' else m
  | .long m' => m'

/-- PART names an admitted partition. -/
def partBad (m : Mod) (b : Bytes) : Bool :=
  decide (leAt b 16 1 ≥ 8) || !(m.part (toFin 8 (leAt b 16 1))).admitted

/-- A member not IDLE, or a load, install or stone write outstanding (R370). -/
def Mod.partBusy (m : Mod) (p : Part) : Bool :=
  let x := m.part p
  x.member.st != .idle || x.load.isSome || x.chain.isSome || !x.stoneWrites.isEmpty

/-! ### NOP -/

def nopDef : HostOp := { op := 0x01, place := 1, act := fun _ _ _ m => .done hOk 0 0 m }

def execNop (f : Fn) (n : PairId) (s : State) : Host.Outcome State Fault Refusal := onRing nopDef f n s

/-! ### Plan slots (R9, R168, R370) -/

def planSlotOf (b : Bytes) : Nat := leAt b 28 1

/-- A slot holds the plan that a domain not IDLE names. -/
def Partition.slotNamed (x : Partition) (k : Nat) : Bool :=
  x.member.st != .idle && (match (x.plans[k]?).join, x.member.desc with
    | some img, some d => Config.sha3d256 img == d.plan
    | _, _ => false)

/-- Make an image resident: the generation of the partition is that of its images, and a retained seal goes (R308). -/
def setPlan (k : Nat) (img : Bytes) (x : Partition) : Partition :=
  { x with plans := x.plans.set! k (some img), gen := some (imgGen img)
           member := { x.member with retained := x.member.retained.map (fun r => { r with valid := false }) } }

/-- The generation of the images that stay resident beside slot k. -/
def Partition.otherGen (x : Partition) (k : Nat) : Option Nat :=
  (x.plans.toList.zipIdx.findSome? (fun e => if e.2 = k then none else e.1)).map imgGen

/-- Refusal of an image: status and RESULT. The generation comes after MAGIC, and before the rest of the header. -/
def planVerdict (x : Partition) (k : Nat) (img : Bytes) (len stepping : Nat) : Option (Nat × Nat) :=
  let magic := leAt img 0 4 == 0x4C504A46
  let gen := imgGen img
  let foreign := match x.otherGen k with
    | some g => g != gen
    | none => false
  if magic && ((gen != 2 && gen != 3) || foreign) then some (hPlanGeneration, 0)
  else
    match imageRefusal img len x.bays.length with
    | some r => some (hPlanRefused, r.result)
    | none => (planNet img stepping).check.fail.map (fun (e : Nat × PlanRefusal) => (hPlanRefused, e.2.result))

/-- Load an image into a slot, checked (R5, R140, R438). -/
def loadPlan (p : Part) (b : Bytes) (m : Mod) : OpResult :=
  let len := leAt b 24 4
  let img := m.hostMem.read (leAt b 16 8) len
  match planVerdict (m.part p) (planSlotOf b) img len m.stepping with
  | some (s, r) => .done s 0 r m
  | none => .done hOk 0 0 (m.updPart p (setPlan (planSlotOf b) img))

def planLoadDef : HostOp :=
  { op := 0x02, place := 1, fields := [(16, 8), (24, 4), (28, 1)]
    range := fun _ b => firstBad [(28, planSlotOf b > 3)]
    reads := fun _ b => [(leAt b 16 8, leAt b 24 4)]
    check := fun f b m => if partIs f b (fun p => (m.part p).slotNamed (planSlotOf b)) then some (hPlanRunning, 0) else none
    act := fun f _ b m => withPart f b (fun p => loadPlan p b m) m
    leaves := fun f b m => match descPart f b with
      | some p => m.updPart p (setPlan (planSlotOf b) (m.hostMem.read (leAt b 16 8) (leAt b 24 4)))
      | none => m }

def execPlanLoad (f : Fn) (n : PairId) (s : State) : Host.Outcome State Fault Refusal := onRing planLoadDef f n s

/-- Empty a slot; the generation goes with the last image. -/
def dropPlan (p : Part) (k : Nat) (m : Mod) : Mod :=
  m.updPart p (fun x =>
    let ps := x.plans.set! k none
    { x with plans := ps, gen := if ps.toList.all (·.isNone) then none else x.gen })

def planDropDef : HostOp :=
  { op := 0x03, place := 1, fields := [(28, 1)]
    range := fun _ b => firstBad [(28, planSlotOf b > 3)]
    check := fun f b m => if partIs f b (fun p => (m.part p).slotNamed (planSlotOf b)) then some (hPlanRunning, 0) else none
    act := fun f _ b m => withPart f b (fun p => .done hOk 0 0 (dropPlan p (planSlotOf b) m)) m
    leaves := fun f b m => match descPart f b with
      | some p => dropPlan p (planSlotOf b) m
      | none => m }

def execPlanDrop (f : Fn) (n : PairId) (s : State) : Host.Outcome State Fault Refusal := onRing planDropDef f n s

/-! ### JOB_ABORT, EXWIN_SET -/

/-- JOB_ABORT by the state of the member (R370). -/
def abortJob (f : Fn) (n : PairId) (p : Part) (m : Mod) : OpResult :=
  match (m.part p).member.st with
  | .committed | .running => .done hOk 0 0 (failOwn p cHostAbort m)
  | .prepared => .long (updMember p (fun y => { y with abortHeld := some (ringKey f n m) }) m)
  | .teardown | .idle => .done hOk 0 0 m

def jobAbortDef : HostOp := { op := 0x04, act := fun f n b m => withPart f b (fun p => abortJob f n p m) m }

def execJobAbort (f : Fn) (n : PairId) (s : State) : Host.Outcome State Fault Refusal := onRing jobAbortDef f n s

/-- Set or remove the exchange window. -/
def setExwin (p : Part) (b : Bytes) (m : Mod) : Mod :=
  m.updPart p (fun x => { x with exwin := if leAt b 24 8 = 0 then none else some (leAt b 16 8, leAt b 24 8) })

def exwinSetDef : HostOp :=
  { op := 0x05, place := 1, fields := [(16, 8), (24, 8)]
    range := fun _ b => firstBad [(16, leAt b 16 8 % 4096 != 0), (24, leAt b 24 8 % 4096 != 0 || leAt b 24 8 > 2 ^ 36)]
    check := fun f b m => if partIs f b (fun p => (m.part p).running) then some (hPlanRunning, 0) else none
    act := fun f _ b m => withPart f b (fun p => .done hOk 0 0 (setExwin p b m)) m
    leaves := fun f b m => match descPart f b with
      | some p => setExwin p b m
      | none => m }

def execExwinSet (f : Fn) (n : PairId) (s : State) : Host.Outcome State Fault Refusal := onRing exwinSetDef f n s

/-! ### Copies -/

/-- The stack and byte address of a copy, where its lines lie in a bay of the partition (R107, Table MEM-7). -/
def copyPlace (x : Partition) (b : Bytes) : Option (Fin 8 × Nat) :=
  match x.bayAt (leAt b 28 1) with
  | some bay => if leAt b 32 8 + leAt b 24 4 ≤ hbmLines then some (toFin 8 bay, 64 * leAt b 32 8) else none
  | none => none

/-- Ranges of a copy: LINES from 1 to 2^20. -/
def copyRange (b : Bytes) : Option Nat := firstBad [(24, leAt b 24 4 = 0 || leAt b 24 4 > 2 ^ 20)]

def copyCheck (f : Fn) (b : Bytes) (m : Mod) : Option (Nat × Nat) :=
  if partIs f b (fun p => (copyPlace (m.part p) b).isNone) then some (hAddrWindow, 0) else none

def copyInDef : HostOp :=
  { op := 0x06, fields := [(16, 8), (24, 4), (28, 1), (32, 8)]
    range := fun _ b => copyRange b
    reads := fun _ b => [(leAt b 16 8, 64 * leAt b 24 4)]
    check := copyCheck, act := fun _ _ _ m => .long m }

def execCopyIn (f : Fn) (n : PairId) (s : State) : Host.Outcome State Fault Refusal := onRing copyInDef f n s

def copyOutDef : HostOp :=
  { op := 0x07, fields := [(16, 8), (24, 4), (28, 1), (32, 8)]
    range := fun _ b => copyRange b
    check := copyCheck, act := fun _ _ _ m => .long m }

def execCopyOut (f : Fn) (n : PairId) (s : State) : Host.Outcome State Fault Refusal := onRing copyOutDef f n s

/-- The lines of a COPY_IN reach HBM. -/
def finishCopyIn (f : Fn) (n : PairId) (p : Part) (b : Bytes) (w : Fin 8 × Nat) (m : Mod) : Mod :=
  let a := leAt b 16 8
  let k := 64 * leAt b 24 4
  if m.dmaFails a k then finishOp f n hDma 0 0 m
  else finishOp f n hOk 0 0 (writeBay p w.1.val (.hbm w.2) (m.hostMem.read a k) m)

/-- The lines of a COPY_OUT reach host memory, up to the first that is uncorrectable, which enters the UE log (R228); those
corrected on the way are counted and queued for their rewrite (R226). -/
def finishCopyOut (f : Fn) (n : PairId) (p : Part) (b : Bytes) (w : Fin 8 × Nat) (m : Mod) : Mod :=
  let a := leAt b 16 8
  let k := leAt b 24 4
  let first := w.2 / 64
  let bad := (List.range k).find? (fun i => m.lineBad (.hbm w.1 (first + i)))
  let good := bad.getD k
  if m.dmaFails a (64 * good) && good ≠ 0 then finishOp f n hDma 0 0 m
  else
    let m := countSoft p 2 ((List.range good).map (fun i => LineRef.hbm w.1 (first + i))) m
    let m := { m with hostMem := m.hostMem.write a ((m.hbm.get w.1).read w.2 (64 * good)) }
    match bad with
    | none => finishOp f n hOk 0 0 m
    | some i => finishOp f n hMemUe 0 i (logUe p (.hbm w.1 (first + i)) (m.part p).ctr 0 m)

/-- COPY_COMPLETE: the copy that a ring has in progress ends. -/
def execCopyComplete (f : Fn) (n : PairId) (s : State) : Host.Outcome State Fault Refusal :=
  match ((s.m.func f).pair n).busy, partOfFn f with
  | some k, some p =>
    match copyPlace (s.m.part p) k.body with
    | none => .next s
    | some w =>
      if k.opcode = 0x06 then .next { s with m := finishCopyIn f n p k.body w s.m }
      else if k.opcode = 0x07 then .next { s with m := finishCopyOut f n p k.body w s.m }
      else .next s
  | _, _ => .next s

/-! ### Admission and release (R20, R29, R99, R221, R370, R385, R387, R399, R405) -/

/-- The reservations and the shared figure with its conversion loss of 7.2 % stay within 2,400 W (R29). -/
def Mod.powerFits (m : Mod) (w : Nat) : Bool :=
  let sum := (allParts.map (fun p => if (m.part p).admitted then (m.part p).power else 0)).foldl (· + ·) w
  decide (1000 * sum + 90 * 1072 ≤ 2400000)

/-- A bay can serve in a partition: 8 usable tiles, and a stack that trained. -/
def Mod.bayUsable (m : Mod) (b : Nat) : Bool := decide (8 ≤ (m.usable b).length) && m.hbmGood.getLsbD b

/-- The checks of PART_ADMIT in their order. -/
def admitCheck (p : Part) (b : Bytes) (m : Mod) : Option (Nat × Nat) :=
  let x := m.part p
  let mask := BitVec.ofNat 8 (leAt b 17 1)
  let held := allParts.any (fun k => (m.part k).admitted && (m.part k).bayMask &&& mask != 0)
  let ttl := (allParts.map (fun k => if (m.part k).admitted then (m.part k).ttlShare else 0)).foldl (· + ·) (leAt b 20 2)
  if x.admitted || x.releasing.isSome then some (hPartExists, 0)
  else if held || m.zeroing &&& mask != 0 then some (hBayBusy, 0)
  else if (List.range 8).any (fun k => mask.getLsbD k && !m.bayUsable k) then some (hBayUnusable, 0)
  else if !m.powerFits (leAt b 18 2) then some (hPowerRefused, 0)
  else if ttl > 16384 then some (hTtlRefused, 0)
  else none

/-- The low 256 bits of a drawn random number. -/
def random256 (i : Nat) : BitVec 256 := (Config.random512 i).setWidth 256

/-- Keys of a partition at its admission: tier slot 0 filled and CUR, partition keys drawn; the flash key stays with the
namespace. -/
def admitKeys (old : Keys) (i : Nat) : Keys :=
  { tier := #v[some { key := random256 i, wcount := 0, pages := 0 }, none]
    attest := some (random256 (i + 1)), kem := some (Config.random512 (i + 2)), flashKey := old.flashKey }

/-- What a partition number keeps when no partition bears it: admission counter, namespace and its key. -/
def emptyPart (x : Partition) : Partition :=
  { admissions := x.admissions, ns := x.ns, wrapped := x.wrapped, nsErasing := x.nsErasing
    keys := { flashKey := x.keys.flashKey } }

/-- Admit a partition. Its VF starts at its reset values; the security core sets the windows of its context, whose SRAM is
clear, and the module context tells it its power reservation (R388, R390, R391). -/
def admitPart (p : Part) (b : Bytes) (m : Mod) : Mod :=
  let i := m.free
  let m := m.updPart p (fun x => { emptyPart x with
    admitted := true, bayMask := BitVec.ofNat 8 (leAt b 17 1), power := leAt b 18 2, ttlShare := leAt b 20 2
    admissions := x.admissions + 1, checkedAt := m.wall, keys := admitKeys x.keys i
    ctx := { windows := partWindows, mail := [.power (leAt b 18 2)] } })
  { m.updFunc (vfOf p) freshFunc with free := i + 3 }

def partAdmitDef : HostOp :=
  { op := 0x20, place := 1, fields := [(16, 1), (17, 1), (18, 2), (20, 2)]
    range := fun _ b => firstBad [(16, leAt b 16 1 > 7), (17, leAt b 17 1 = 0), (20, leAt b 20 2 > 16384)]
    check := fun f b m => (descPart f b).bind (fun p => admitCheck p b m)
    act := fun f _ b m => withPart f b (fun p => .done hOk 0 0 (admitPart p b m)) m
    leaves := fun f b m => match descPart f b with
      | some p => admitPart p b m
      | none => m }

def execPartAdmit (f : Fn) (n : PairId) (s : State) : Host.Outcome State Fault Refusal := onRing partAdmitDef f n s

/-- Start the release: keys destroyed, rings of the VF DISABLED, the bays of the partition being zeroed. -/
def releasePart (f : Fn) (n : PairId) (p : Part) (m : Mod) : Mod :=
  let k := ringKey f n m
  let m := stopRings (vfOf p) m
  let mask := (m.part p).bayMask
  let m := m.updPart p (fun x => { emptyPart x with bayMask := mask, releasing := some k })
  { m.updFunc (vfOf p) freshFunc with zeroing := m.zeroing ||| mask }

/-- A whole group is among descriptors, of which one may continue an open group. -/
def closes : Bool → List Bytes → Bool
  | _, [] => false
  | opened, b :: bs => if dGrp b = 3 then opened || closes false bs else closes (dGrp b == 1 || (opened && dGrp b == 2)) bs

/-- The descriptors visible on a ring and not fetched. -/
def Mod.shownDescs (m : Mod) (r : RingPair) : List Bytes :=
  (List.range r.visible).map (fun i => m.hostMem.read (r.sqBase + 64 * ((r.head + i) % r.size)) 64)

/-- The VF of a partition holds a whole group not yet taken, fetched or visible (Table HST-8). -/
def Mod.groupWaits (m : Mod) (p : Part) : Bool :=
  (m.func (vfOf p)).pairs.toList.any (fun r =>
    (r.st == .running && (r.whole || closes (!r.held.isEmpty) (m.shownDescs r))) || (r.st == .draining && r.whole))

def partReleaseDef : HostOp :=
  { op := 0x21, fields := [(16, 1)]
    range := fun m b => firstBad [(16, partBad m b)]
    waits := fun f b m => partIs f b (m.groupWaits ·)
    check := fun f b m => if partIs f b (m.partBusy ·) then some (hPartitionBusy, 0) else none
    act := fun f n b m => withPart f b (fun p => .long (releasePart f n p m)) m }

def execPartRelease (f : Fn) (n : PairId) (s : State) : Host.Outcome State Fault Refusal := onRing partReleaseDef f n s

/-- A partition in release whose bays are all zeroed: PART_RELEASE completes. -/
def finishRelease (m : Mod) (p : Part) : Mod :=
  let x := m.part p
  match x.releasing with
  | none => m
  | some k =>
    if x.bayMask &&& m.zeroing != 0 then m
    else
      let m := m.updPart p (fun x => { x with releasing := none, bayMask := 0 })
      finishAt (some k) hOk 0 0 { m with epochs := m.epochs.filter (fun e => m.belongs e.1) }

/-- BAY_ZEROING_COMPLETE (R221): the stack and the nine local stores of the bay are zero, and their errors are gone. -/
def execBayZeroingComplete (bay : Fin 8) (s : State) : Host.Outcome State Fault Refusal :=
  if !s.m.zeroing.getLsbD bay.val then .next s
  else
    let m := clearErrs (fun l => match l with
      | .hbm k _ => k == bay
      | .localStore q _ => q.val / 9 == bay.val) s.m
    let m := { m with hbm := m.hbm.set bay.val [] bay.isLt
                      ls := m.ls.mapIdx (fun i l => if i / 9 = bay.val then [] else l)
                      zeroing := m.zeroing &&& ~~~(1#8 <<< bay.val) }
    .next { s with m := allParts.foldl finishRelease m }

/-! ### Namespaces (R339, R370, R387) -/

/-- User flash capacity of the option (Table SCO-1). -/
def Mod.flashBytes (m : Mod) : Nat := (if m.option = 0x10 then 16 else 4) * 10 ^ 12

def nsCreateCheck (p : Part) (b : Bytes) (m : Mod) : Option (Nat × Nat) :=
  let sum := (allParts.map (fun k => ((m.part k).ns.map (·.granules)).getD 0)).foldl (· + ·) (leAt b 20 4)
  if (m.part p).ns.isSome then some (hNsExists, 0)
  else if sum * 2 ^ 30 > m.flashBytes then some (hNsSpace, 0)
  else none

def createNs (p : Part) (b : Bytes) (m : Mod) : Mod :=
  let i := m.free
  { m.updPart p (fun x => { x with ns := some { granules := leAt b 20 4 }
                                   wrapped := some { under := Config.storageKey Config.uds, key := random256 i }
                                   keys := { x.keys with flashKey := some (random256 i) } }) with free := i + 1 }

def nsCreateDef : HostOp :=
  { op := 0x22, place := 1, fields := [(16, 1), (20, 4)]
    range := fun m b => firstBad [(16, partBad m b), (20, leAt b 20 4 = 0)]
    check := fun f b m => (descPart f b).bind (fun p => nsCreateCheck p b m)
    act := fun f _ b m => withPart f b (fun p => .done hOk 0 0 (createNs p b m)) m
    leaves := fun f b m => match descPart f b with
      | some p => createNs p b m
      | none => m }

def execNsCreate (f : Fn) (n : PairId) (s : State) : Host.Outcome State Fault Refusal := onRing nsCreateDef f n s

/-- Destroy the flash key at once; the blocks are erased until NAMESPACE_ERASE_COMPLETE. -/
def deleteNs (f : Fn) (n : PairId) (p : Part) (m : Mod) : OpResult :=
  if (m.part p).ns.isNone then .done hOk 0 0 m
  else .long (m.updPart p (fun x => { x with nsErasing := some (ringKey f n m), wrapped := none
                                             keys := { x.keys with flashKey := none } }))

def nsDeleteDef : HostOp :=
  { op := 0x23, fields := [(16, 1)]
    range := fun m b => firstBad [(16, leAt b 16 1 > 7 || (partBad m b && (m.part (toFin 8 (leAt b 16 1))).ns.isNone))]
    waits := fun f b m => partIs f b (fun p => (m.part p).nsErasing.isSome)
    check := fun f b m => if partIs f b (m.partBusy ·) then some (hPartitionBusy, 0) else none
    act := fun f n b m => withPart f b (fun p => deleteNs f n p m) m }

def execNsDelete (f : Fn) (n : PairId) (s : State) : Host.Outcome State Fault Refusal := onRing nsDeleteDef f n s

/-- NAMESPACE_ERASE_COMPLETE (R387): the namespace is gone and NS_DELETE completes. -/
def execNamespaceEraseComplete (p : Part) (s : State) : Host.Outcome State Fault Refusal :=
  match (s.m.part p).nsErasing with
  | none => .next s
  | some k =>
    let m := s.m.updPart p (fun x => { x with ns := none, nsErasing := none })
    .next { s with m := finishAt (some k) hOk 0 0 m }

/-! ### The CXL window (R231, R369) -/

/-- The list of extents of a descriptor, as bytes. -/
def extentBytes (m : Mod) (b : Bytes) : Bytes :=
  let n := leAt b 32 1
  if n = 0 || n > 8 || m.dmaFails (leAt b 24 8) (8 * n) then [] else m.hostMem.read (leAt b 24 8) (8 * n)

/-- The first offending byte of the extent list, with bit 15. -/
def extentFault (bad : Bytes → Nat → List (Nat × Bool)) (e : Bytes) : Option Nat :=
  (firstBad ((List.range (e.length / 8)).flatMap (fun i => bad e (8 * i)))).map (· + 0x8000)

def extentReserved (e : Bytes) (o : Nat) : List (Nat × Bool) := [5, 6, 7].map (fun k => (o + k, leAt e (o + k) 1 != 0))

def extentField (e : Bytes) (o : Nat) : List (Nat × Bool) :=
  [(o, leAt e o 1 > 1), (o + 1, leAt e (o + 1) 2 > 2031), (o + 3, leAt e (o + 3) 2 = 0 || leAt e (o + 3) 2 > 2032)]

/-- The extents: port, first granule, count. -/
def extentList (e : Bytes) : List (Nat × Nat × Nat) :=
  (List.range (e.length / 8)).map (fun i => (leAt e (8 * i) 1, leAt e (8 * i + 1) 2, leAt e (8 * i + 3) 2))

def extentsMeet (a b : Nat × Nat × Nat) : Bool := a.1 == b.1 && a.2.1 < b.2.1 + b.2.2 && b.2.1 < a.2.1 + a.2.2

/-- Some two extents of a list meet. -/
def anyMeet : List (Nat × Nat × Nat) → Bool
  | [] => false
  | a :: r => r.any (extentsMeet a) || anyMeet r

/-- The checks of CXL_WINDOW_SET. -/
def windowCheck (p : Part) (b : Bytes) (m : Mod) : Option (Nat × Nat) :=
  let es := extentList (extentBytes m b)
  let others := allParts.flatMap (fun k => if k = p then [] else ((m.part k).window.map (·.extents)).getD [])
  let absent := es.any (fun e => let d := m.cxl.get (toFin 2 e.1); !d.good || e.2.1 + e.2.2 > d.granules)
  if (m.part p).window.isSome && m.partBusy p then some (hPartitionBusy, 0)
  else if absent || es.any (fun e => others.any (extentsMeet e)) || anyMeet es then some (hWindowRange, 0)
  else none

/-- Record a window that is still to be zeroed. -/
def putWindow (p : Part) (es : List (Nat × Nat × Nat)) (k : Option (Nat × Nat)) (m : Mod) : Mod :=
  m.updPart p (fun x => { x with window := some { extents := es, registered := k.isNone, waiting := k } })

def cxlWindowSetDef : HostOp :=
  { op := 0x24, place := 1, fields := [(16, 1), (24, 8), (32, 1)]
    extra := fun m b => extentFault extentReserved (extentBytes m b)
    range := fun m b => (firstBad [(16, partBad m b), (32, leAt b 32 1 = 0 || leAt b 32 1 > 8)]).or
      (extentFault extentField (extentBytes m b))
    reads := fun _ b => [(leAt b 24 8, 8 * leAt b 32 1)]
    waits := fun f b m => partIs f b (fun p => ((m.part p).window.bind (·.waiting)).isSome)
    check := fun f b m => (descPart f b).bind (fun p => windowCheck p b m)
    act := fun f n b m => withPart f b (fun p => .long (putWindow p (extentList (extentBytes m b)) (some (ringKey f n m)) m)) m
    leaves := fun f b m => match descPart f b with
      | some p => putWindow p (extentList (extentBytes m b)) none m
      | none => m }

def execCxlWindowSet (f : Fn) (n : PairId) (s : State) : Host.Outcome State Fault Refusal := onRing cxlWindowSetDef f n s

/-- The cells of the pages and metadata records of an extent, for the undo of a group. -/
def extentCells (m : Mod) (e : Nat × Nat × Nat) : List (Nat × Nat × Nat × Mem) :=
  let q : Fin 2 := toFin 2 e.1
  let d := m.cxl.get q
  let cut (a n : Nat) : Nat × Nat × Nat × Mem := (q.val, a, n, d.data.filter (fun c => a ≤ c.1 && c.1 < a + n))
  [cut (e.2.1 * 2 ^ 30) (e.2.2 * 2 ^ 30), cut (d.metaAt (e.2.1 * granulePages)) (32 * (e.2.2 * granulePages))]

/-- Save the bytes of a window in the operation of a group that waits under a record. -/
def saveCells (k : Nat × Nat) (es : List (Nat × Nat × Nat)) (m : Mod) : Mod :=
  let cells := es.flatMap (extentCells m)
  updPair (toFin 9 k.1) (toFin 16 k.2) (fun r =>
    { r with busy := r.busy.map (fun b => if b.group then { b with undoCxl := b.undoCxl ++ cells } else b) }) m

/-- Write every page of a window as zero under CUR, and count them there. -/
def zeroWindow (p : Part) (es : List (Nat × Nat × Nat)) (m : Mod) : Mod :=
  let n := extentPages es
  let m := (List.range n).foldl (fun m page =>
    match locatePage es page with
    | some (q, k) => if (m.cxl.get q).good then writePage p page q k (List.replicate pageBytes 0) m else m
    | none => m) m
  m.updPart p (fun x => { x with keys := { x.keys with
    pendingAck := []
    tier := x.keys.tier.mapIdx (fun i t => t.map (fun t => { t with pages := if i = x.keys.cur.val then n else 0 })) } })

/-- WINDOW_ZEROING_COMPLETE (R231): the window becomes registered and CXL_WINDOW_SET completes. -/
def execWindowZeroingComplete (p : Part) (s : State) : Host.Outcome State Fault Refusal :=
  match (s.m.part p).window with
  | none => .next s
  | some w =>
    match w.waiting with
    | none => .next s
    | some k =>
      let m := zeroWindow p w.extents (saveCells k w.extents s.m)
      let m := m.updPart p (fun x => { x with window := some { extents := w.extents, registered := true, waiting := none } })
      .next { s with m := finishAt (some k) hOk 0 0 m }

/-! ### Domains and serving descriptors -/

/-- The descriptor that DOMAIN_PUT delivers. -/
def putBytes (m : Mod) (b : Bytes) : Bytes := m.hostMem.read (leAt b 24 8) (leAt b 32 4)

/-- The descriptor breaks R281, gives this member other bays than its partition has, or would make the module a second
member of a domain that is not IDLE (R280). -/
def domainBad (p : Part) (raw : Bytes) (m : Mod) : Bool :=
  descBad raw ||
  (let d := DomainDesc.parse raw
   (d.members.any (fun r => r.1 == m.node && r.2 != (m.part p).bayMask))
   || allParts.any (fun k => k != p && (m.part k).admitted && (m.part k).member.st != .idle
        && m.domainId k == d.domain))

/-- The member is not IDLE, or its module is starting the domain. -/
def Mod.memberBusy (m : Mod) (p : Part) : Bool :=
  let mb := (m.part p).member
  mb.st != .idle || mb.rootAttempt != 0

def domainPutCheck (p : Part) (b : Bytes) (m : Mod) : Option (Nat × Nat) :=
  if m.memberBusy p then some (hDomainBusy, 0)
  else if domainBad p (putBytes m b) m then some (hDomainRefused, 0)
  else none

/-- Hold a descriptor; a retained seal goes where it differs from the one held (R308). -/
def putDomain (p : Part) (b : Bytes) (m : Mod) : Mod :=
  let raw := putBytes m b
  let same := ((m.part p).member.desc.map (·.raw)) == some raw
  let m := if same then m else dropSeal p m
  updMember p (fun y => { y with desc := some (DomainDesc.parse raw) }) m

def domainPutDef : HostOp :=
  { op := 0x25, place := 1, fields := [(16, 1), (24, 8), (32, 4)]
    range := fun m b => firstBad [(16, partBad m b)]
    reads := fun _ b => [(leAt b 24 8, leAt b 32 4)]
    check := fun f b m => (descPart f b).bind (fun p => domainPutCheck p b m)
    act := fun f _ b m => withPart f b (fun p => .done hOk 0 0 (putDomain p b m)) m
    leaves := fun f b m => match descPart f b with
      | some p => putDomain p b m
      | none => m }

def execDomainPut (f : Fn) (n : PairId) (s : State) : Host.Outcome State Fault Refusal := onRing domainPutDef f n s

/-- Start a domain at its root (R303); without a descriptor the start fails as DESC_MISMATCH. -/
def startDomain (f : Fn) (n : PairId) (p : Part) (m : Mod) : OpResult :=
  match (m.part p).member.desc with
  | none => .done hStartFailed suDesc 0 m
  | some d => .long (sendPrepare p (updMember p (fun y => { y with
      startRing := some (ringKey f n m), rootAttempt := 1, rootExcl := [], rootSealed := d.sealUse }) m))

def domainStartCheck (p : Part) (m : Mod) : Option (Nat × Nat) :=
  if (m.part p).member.desc.isSome && !m.isRoot p then some (hNotRoot, 0)
  else if m.memberBusy p then some (hDomainBusy, 0)
  else none

def domainStartDef : HostOp :=
  { op := 0x26, fields := [(16, 1)]
    range := fun m b => firstBad [(16, partBad m b)]
    check := fun f b m => (descPart f b).bind (fun p => domainStartCheck p m)
    act := fun f n b m => withPart f b (fun p => startDomain f n p m) m }

def execDomainStart (f : Fn) (n : PairId) (s : State) : Host.Outcome State Fault Refusal := onRing domainStartDef f n s

/-- Read a serving descriptor (Table SRV-1). -/
def ServingDesc.parse (b : Bytes) : ServingDesc :=
  { sf := leAt b 0 2, f0 := leAt b 2 2, sd := leAt b 4 2, sp := leAt b 6 2, nreq := leAt b 8 2, lead := leAt b 10 2
    wline := leAt b 12 4, ptline := leAt b 16 4, npt := leAt b 20 2, ptlines := leAt b 22 2 }

/-- The rules of Table SRV-1, for the domain whose descriptor is held, or for any that has the lead. -/
def servingPutCheck (p : Part) (b : Bytes) (m : Mod) : Option (Nat × Nat) :=
  let v := ServingDesc.parse (sliceB b 32 32)
  let n := match (m.part p).member.desc with
    | some d => d.members.length
    | none => v.lead + 1
  if m.memberBusy p then some (hDomainBusy, 0)
  else if servingBad v n (8 * (m.part p).bays.length) || !allZero (sliceB b 56 8) then some (hServingRefused, 0)
  else none

/-- Hold a serving descriptor. Where it replaces another, the steps that wait for their commit lose their window and
have failed (R326). -/
def putServing (p : Part) (b : Bytes) (m : Mod) : Mod :=
  let v := ServingDesc.parse (sliceB b 32 32)
  m.updPart p (fun x => { x with serving := { x.serving with
    desc := some v, steps := if x.serving.desc == some v then x.serving.steps else [] } })

def servingPutDef : HostOp :=
  { op := 0x27, place := 1, fields := [(16, 1), (32, 32)]
    range := fun m b => firstBad [(16, partBad m b)]
    check := fun f b m => (descPart f b).bind (fun p => servingPutCheck p b m)
    act := fun f _ b m => withPart f b (fun p => .done hOk 0 0 (putServing p b m)) m
    leaves := fun f b m => match descPart f b with
      | some p => putServing p b m
      | none => m }

def execServingPut (f : Fn) (n : PairId) (s : State) : Host.Outcome State Fault Refusal := onRing servingPutDef f n s

end Sys2Proof.Machine
end

