-- ==== Sys2Proof/Machine/Serving.lean ====
section
/-!
DEFINITION. Model serving (R311 to R334, R379): step tables and gates, the end and the commit of a step, result records,
and the requests of the host with their pause and time to live.
-/
namespace Sys2Proof.Machine

def hReqHandle : Nat := 0x0071
def hReqUnknown : Nat := 0x0072
def hReqState : Nat := 0x0073
def hReqExpired : Nat := 0x0075

/-- Change the serving state of a partition. -/
def updServing (p : Part) (f : Serving → Serving) (m : Mod) : Mod :=
  m.updPart p (fun x => { x with serving := f x.serving })

/-- Report an event to the firmware of a member. -/
def servEvent (p : Part) (e : ServEvent) (m : Mod) : Mod := updServing p (fun v => { v with events := v.events ++ [e] }) m

/-! ### Step tables (R315 to R318) -/

/-- A table buffer of the lead as bytes, one line. -/
def Mod.tableLine (m : Mod) (v : ServingDesc) (b buf l : Nat) : Bytes :=
  (m.hbm.get (toFin 8 b)).read (64 * (v.tableBuf buf + l)) 64

/-- A number of a table buffer: byte offset and length. -/
def Mod.tableAt (m : Mod) (v : ServingDesc) (b buf o n : Nat) : Nat :=
  leNat ((m.hbm.get (toFin 8 b)).read (64 * v.tableBuf buf + o) n)

/-- Prefill slots of a table that a record names: the run length (R316). -/
def Mod.runLength (m : Mod) (v : ServingDesc) (b buf i : Nat) : Nat :=
  let entries := 64 * (1 + ceilDiv v.slots 512)
  (List.range v.sp).countP (fun j =>
    let s := v.sd + j
    bitN (m.tableAt v b buf (64 + s / 8) 1) (s % 8) && m.tableAt v b buf (entries + 8 * s) 2 % 4096 == i)

/-- Request record i of a table (Table SRV-6). -/
def Mod.nameRec (m : Mod) (v : ServingDesc) (b buf i : Nat) : NameRec :=
  let r := m.tableLine v b buf (1 + ceilDiv v.slots 512 + v.slots / 8 + i)
  let kind := leAt r 9 1
  { handle := BitVec.ofNat 32 (leAt r 0 4), kind, depth := leAt r 8 1 % 8, pts := leAt r 10 2
    run := if kind = 3 then 0 else m.runLength v b buf i }

/-- A table buffer is locked: by an accepted commit, or by the step in progress that runs on it. -/
def Partition.tableLocked (x : Partition) (v : ServingDesc) (buf : Nat) : Bool :=
  x.serving.commit.any (fun c => c.buf == buf) || (x.stepNow v).any (fun c => c.ran && c.buf == buf)

/-- The gate cycle of a step has come (R312). -/
def Partition.gatePassed (x : Partition) (v : ServingDesc) (s : Nat) : Bool :=
  x.running && x.ctr ≥ x.furStart (v.firstFurlong s)

/-- The first rule that a STEP_COMMIT breaks, 1 to 5 in the order of R318. Without a job there is no next step. -/
def commitRule (m : Mod) (x : Partition) (v : ServingDesc) (b : Nat) (db : BitVec 64) : Option Nat :=
  let s := fld db 39 0
  let buf := fld db 40 40
  let h := m.tableLine v b buf 0
  if (x.member.st != .committed && x.member.st != .running) || s ≠ x.serving.nextStep || x.gatePassed v s || (x.running && s ≥ x.stepCount v) then some 1
  else if (x.stepNow v).any (fun c => c.ran && c.buf == buf) then some 2
  else if leAt h 0 8 ≠ s then some 3
  else if leAt h 16 2 > v.nreq then some 4
  else if fld db 63 41 ≠ 0 || !allZero (sliceB h 18 46) then some 5
  else none

/-- Hold present every firkin of a request below a bound (R329): its new entries go into the page table. -/
def holdFirkins (p : Part) (k : Nat) (m : Mod) : Mod :=
  let x := m.part p
  match x.serving.numbered k with
  | none => m
  | some q =>
    let need := firkinsBelow (x.serving.bound q)
    let back := (q.freeAfter.map (·.1)).filter need.contains
    let new := need.filter (fun j => !q.firkins.contains j && !back.contains j)
    let m := putEntries p q.pts new
      (fun t j => hbmEntry x.bays.length (Config.firkinPlace false q.handle.toNat j t)) m
    updRequest p k (fun q => { q with
      firkins := q.firkins ++ back ++ new
      freeAfter := q.freeAfter.filter (fun e => !need.contains e.1) }) m

/-- A request is named in an accepted table: QUEUED becomes PREFILL, its page-table slot is that of the record, and its
firkins are held. -/
def nameRequest (p : Part) (m : Mod) (r : NameRec) : Mod :=
  holdFirkins p r.id (updRequest p r.id (fun q =>
    { q with st := if q.st == .queued then .prefill else q.st, pts := r.pts }) m)

/-- The records in use of a table, with the requests that they name now; a handle that names none names number 0. -/
def Mod.tableNames (m : Mod) (v : ServingDesc) (y : Serving) (b buf : Nat) : List NameRec :=
  (List.range (leAt (m.tableLine v b buf 0) 16 2)).map (fun i =>
    let r := m.nameRec v b buf i
    { r with id := ((y.live r.handle).map (·.id)).getD 0 })

/-- The lines of a table buffer that the firmware wrote in the present cycle. -/
def Serving.freshOf (v : Serving) (wall buf : Nat) : List (Nat × Nat × Nat × Bytes) :=
  v.freshLines.filter (fun e => e.1 == wall && e.2.1 == buf)

/-- Take the lines of a table buffer back to what they held before the present cycle (R320). -/
def refuseFresh (p : Part) (v : ServingDesc) (b buf : Nat) (m : Mod) : Mod :=
  let es := (m.part p).serving.freshOf m.wall buf
  let m := es.foldl (fun m e => writeBay p b (.hbm (64 * (v.tableBuf buf + e.2.2.1))) e.2.2.2 m) m
  updServing p (fun y => { y with refused := y.refused + es.length, freshLines := [] }) m

/-- STEP_COMMIT (R318, R320, R330): the hub of the lead accepts or refuses a step table. A write of the firmware to its buffer
in the cycle of its acceptance is refused, and the table is the one without it. -/
def execStepCommit (p : Part) (db : BitVec 64) (s : State) : Host.Outcome State Fault Refusal :=
  match s.m.servingWindow p with
  | none => .next s
  | some (v, _, b) =>
    let buf := fld db 40 40
    let m := refuseFresh p v b buf s.m
    match commitRule m (m.part p) v b db with
    | some r => .next { s with m := servEvent p (.commitRefused r) s.m }
    | none =>
      let h := m.tableLine v b buf 0
      let names := m.tableNames v (m.part p).serving b buf
      let c : TableCommit := { buf, prev := leAt h 8 8, names }
      let m := updServing p (fun y => { y with commit := some c }) m
      .next { s with m := names.foldl (nameRequest p) m }

/-- Write one line of a table buffer, unless it is locked. -/
def tableWrite (p : Part) (v : ServingDesc) (b : Nat) (buf : Fin 2) (line : Nat) (data : BitVec 512) (m : Mod) : Mod :=
  if (m.part p).tableLocked v buf.val then updServing p (fun y => { y with refused := y.refused + 1 }) m
  else
    let w := m.wall
    let old := m.tableLine v b buf.val line
    let m := updServing p (fun y =>
      let now := y.freshLines.filter (fun e => e.1 == w)
      { y with freshLines := if now.any (fun e => e.2.1 == buf.val && e.2.2.1 == line) then now
                             else now ++ [(w, buf.val, line, old)] }) m
    writeBay p b (.hbm (64 * (v.tableBuf buf.val + line))) (leBytes 64 data.toNat) m

/-- TABLE_BUFFER_WRITE (R318, R320, R390): the firmware writes one line of a table buffer; to a locked one it is
refused. -/
def execTableBufferWrite (p : Part) (buf : Fin 2) (line : Nat) (data : BitVec 512) (s : State) :
    Host.Outcome State Fault Refusal :=
  match s.m.servingWindow p with
  | none => .next s
  | some (v, _, b) =>
    if line ≥ v.tlines then .next s
    else .next { s with m := onCtx p .servingWindow (tableWrite p v b buf line data) s.m }

/-! ### Gates (R319, R320) -/

/-- The outcome of a gate (Table SRV-7): event and whether the step runs. -/
def gateOutcome (x : Partition) (s gate : Nat) : ServEvent × Bool :=
  let v := x.serving
  let busy := v.outBusy.contains v.nextOut || v.releasedAt.any (fun e => e.1 == v.nextOut && e.2 ≥ gate)
  match v.commit with
  | none => (.stepLate s, false)
  | some c =>
    if c.prev ≠ noStep && v.lastRun.map (·.1) ≠ some c.prev then (.stepStale s, false)
    else if busy then (.stepBackpressure s, false)
    else (.stepRan s, true)

/-- Pass the gate of the next step. -/
def passGate (s gate : Nat) (x : Partition) : Partition :=
  let (e, ran) := gateOutcome x s gate
  let v := x.serving
  let c : StepRec := { step := s, ran, buf := (v.commit.map (·.buf)).getD 0, out := v.nextOut
                       names := (v.commit.map (·.names)).getD [] }
  { x with
    serving := { v with
      nextStep := s + 1, commit := none, current := some c, events := v.events ++ [e]
      outBusy := if ran then v.outBusy ++ [v.nextOut] else v.outBusy
      nextOut := if ran then 1 - v.nextOut else v.nextOut }
    tel := if ran then { x.tel with stepsRun := x.tel.stepsRun.add 1 }
           else { x.tel with stepsOff := x.tel.stepsOff.add 1 } }

/-- STEP_GATE: the hub of the lead decides the fate of the next step at its gate cycle. -/
def execStepGate (p : Part) (s : State) : Host.Outcome State Fault Refusal :=
  let x := s.m.part p
  match s.m.servingWindow p with
  | none => .next s
  | some (v, _, _) =>
    let k := x.serving.nextStep
    if !x.running || k ≥ x.stepCount v || !x.gatePassed v k || x.furlong < v.firstFurlong k then .next s
    else
      let m := (closeStep p s.m).updPart p (passGate k (x.furStart (v.firstFurlong k)))
      .next { s with m := settleRequests p m }

/-! ### The end of a step (R324) -/

/-- Furlongs that the partition has completed without a fault. -/
def Partition.furlongsDone (x : Partition) : Nat :=
  if x.running then x.furlong
  else if x.member.st == .teardown && x.member.failed.isNone then x.furlongs
  else 0

/-- The clean entry of a member goes to the lead: written there, or sent by an unplanned WRITE of its line. -/
def sendClean (p : Part) (v : ServingDesc) (me val : Nat) (m : Mod) : Mod :=
  match m.servingWindow p with
  | some (_, _, b) => raiseClean (toFin 8 b) v me val m
  | none =>
    match (m.part p).member.desc with
    | none => m
    | some d =>
      match d.members[v.lead]? with
      | none => m
      | some (node, mask) =>
        let dbay := ((List.range 8).find? mask.getLsbD).getD 0
        let sbay := ((m.part p).bayAt 0).getD 0
        let line := List.replicate (8 * (me % 8)) 0 ++ leBytes 8 val ++ List.replicate (56 - 8 * (me % 8)) 0
        originate p node dbay kWrite 1 (64 * (v.clean + me / 8)) 0 0 sbay line m

/-- STEP_END: a member has reached the end of a step without a fault. -/
def execStepEnd (p : Part) (s : State) : Host.Outcome State Fault Refusal :=
  let x := s.m.part p
  match s.m.servingAs p with
  | none => .next s
  | some (v, me) =>
    let k := x.serving.ended
    if x.furlongsDone < v.firstFurlong (k + 1) || k ≥ x.stepCount v || (me = v.lead && x.serving.nextStep ≤ k) then .next s
    else
      let m := closeStep p s.m
      let m := updServing p (fun y => { y with ended := k + 1, events := y.events ++ [.stepEnd k] }) m
      .next { s with m := settleRequests p (sendClean p v me (k + 1) m) }

/-! ### The commit of a step (R325 to R327, R329, R333) -/

/-- An output record (Table SRV-9). -/
structure OutRec where
  handle : Nat
  kin : Nat
  kadv : Nat
  ntok : Nat
  tokens : List Reg
  drafts : List Reg
  deriving DecidableEq, Repr, Inhabited

/-- Words of a run of bytes. -/
def regsOf (b : Bytes) (o n : Nat) : List Reg := (List.range n).map (fun i => BitVec.ofNat 32 (leAt b (o + 4 * i) 4))

/-- Output record i of an output buffer. -/
def Mod.outRec (m : Mod) (v : ServingDesc) (b out i : Nat) : OutRec :=
  let r := (m.hbm.get (toFin 8 b)).read (64 * (v.outBuf out + 2 * i)) 128
  { handle := leAt r 0 4, kin := leAt r 4 4, kadv := leAt r 8 2, ntok := leAt r 10 1
    tokens := regsOf r 16 (min 8 (leAt r 10 1)), drafts := regsOf r 48 (min 7 (leAt r 11 1)) }

/-- The check of an output record (step 1 of R325). -/
def outGood (n : NameRec) (q : Request) (o : OutRec) : Bool :=
  o.handle == n.handle.toNat && o.kin == q.k && decide (o.ntok ≤ 8)
    && (if n.kind = 3 then o.ntok == o.kadv && decide (1 ≤ o.kadv)
        else o.kadv == n.run && o.ntok == (if n.kind = 2 then 1 else 0))

/-- Largest K of a generation (R333). -/
def maxK (gen : Option Nat) : Nat := if gen = some 2 then 2 ^ 20 - 1 else 2 ^ 24 - 1

/-- The tokens kept of a record and the END code: the first stop token ends the request, then the token limit, then the
generation's limit for the write bound w that a further step would raise (R333). -/
def keepTokens (gen : Option Nat) (q : Request) (w : Nat) (o : OutRec) : List Reg × Nat :=
  let room := o.tokens.take (q.maxTok - q.total)
  match room.findIdx? q.stops.contains with
  | some i => (room.take (i + 1), 1)
  | none =>
    if o.ntok ≥ 1 && q.total + o.ntok ≥ q.maxTok then (room, 2)
    else if w + 1 > maxK gen then (room, 2)
    else (room, 0)

/-- The firkins of a request at or beyond a bound are freed, their entries staying until the tables now committed have
ended (R329). -/
def Request.freeBeyond (q : Request) (w : Nat) (last : Option Nat) : Request :=
  { q with
    firkins := q.firkins.filter (fun j => 64 * j < w)
    freeAfter := q.freeAfter ++ (q.firkins.filter (fun j => 64 * j ≥ w)).map (fun j => (j, last.getD 0)) }

/-- The REQ_PAUSE that waits for a request ends with a status. -/
def finishPause (p : Part) (q : Request) (status : Nat) (m : Mod) : Mod :=
  finishAt q.pauseRing status 0 0 (updRequest p q.id (fun q => { q with pauseRing := none }) m)

/-- Commit one request record of a step: check, advance, stop, keep, post. A request whose final commit has been takes
nothing further; a PAUSED one leaves its state only as Table SRV-11 gives. -/
def commitRecord (p : Part) (v : ServingDesc) (b : Nat) (st : StepRec) (m : Mod) (e : NameRec × Nat) : Mod :=
  let x := m.part p
  match x.serving.numbered e.1.id with
  | none => m
  | some q =>
    let o := m.outRec v b st.out e.2
    let base : ResultRec := { handle := q.handle, k := q.k, step := st.step, ntok := 0, endCode := q.endCode
                              total := q.total, tokens := [], out := some st.out }
    let post (r : ResultRec) (m : Mod) : Mod := updServing p (fun y => { y with records := y.records ++ [r] }) m
    if q.endPosted then post base m
    else
      let good := outGood e.1 q o
      let kept := if good then keepTokens x.gen q (x.serving.bound { q with k := q.k + o.kadv }) o else ([], 5)
      let final := decide (kept.2 ≠ 0)
      let q' : Request := if !good then q else
        { q with k := q.k + o.kadv, total := q.total + o.ntok, lastTok := kept.1.getLast?.or q.lastTok, drafts := o.drafts }
      let st' := if q.st == .paused then q.st
        else if final then ReqSt.ending
        else if q.st == .prefill && e.1.kind == 2 then .decode
        else q.st
      let q' := { q' with st := st', endCode := if final then kept.2 else q.endCode, endPosted := final }
      let q' := q'.freeBeyond (if final then 0 else x.serving.bound q') x.serving.lastTable
      let m := updRequest p q.id (fun _ => q') m
      let m := if final && q.st == .endingPause then finishPause p q hReqState m else m
      post { base with k := q'.k, total := q'.total, ntok := kept.1.length, endCode := kept.2, tokens := kept.1 } m

/-- Commit a run step: each of its records in turn. -/
def commitStep (p : Part) (v : ServingDesc) (b : Nat) (st : StepRec) (rest : List StepRec) (m : Mod) : Mod :=
  let m := updServing p (fun y => { y with steps := rest }) m
  let m := (st.names.zipIdx).foldl (commitRecord p v b st) m
  let m := updServing p (fun y => { y with
    toRelease := if y.outBusy.contains st.out then y.toRelease ++ [st.out] else y.toRelease }) m
  settleRequests p m

/-- FIRMWARE_COMMIT: the firmware of the lead commits its oldest uncommitted run step once its conditions hold. -/
def execFirmwareCommit (p : Part) (s : State) : Host.Outcome State Fault Refusal :=
  match s.m.servingWindow p, (s.m.part p).serving.steps with
  | some (v, _, b), st :: rest =>
    if st.step ≥ (s.m.part p).serving.ended || !s.m.allClean p st.step then .next s
    else .next { s with m := onCtx p .servingWindow (commitStep p v b st rest) s.m }
  | _, _ => .next s

/-- OUT_RELEASE (R320, R325, R379): the buffer of a committed step is released once its records are posted. -/
def execOutRelease (p : Part) (buf : Fin 2) (s : State) : Host.Outcome State Fault Refusal :=
  let v := (s.m.part p).serving
  if !v.toRelease.contains buf.val || v.records.any (fun r => r.out == some buf.val) then .next s
  else
    .next { s with m := updServing p (fun y => { y with
      toRelease := y.toRelease.filter (· != buf.val), outBusy := y.outBusy.filter (· != buf.val)
      releasedAt := y.releasedAt.filter (fun e => e.1 != buf.val) ++ [(buf.val, (s.m.part p).ctr)] }) s.m }

/-! ### Result records (R327, R364, R379, R382) -/

/-- The 64 bytes of a result record (Table SRV-10). -/
def ResultRec.bytes (r : ResultRec) : Bytes :=
  leBytes 4 r.handle.toNat ++ leBytes 4 r.k ++ leBytes 8 r.step ++ leBytes 1 r.ntok ++ leBytes 1 r.endCode ++ leBytes 2 0
  ++ leBytes 4 r.total ++ leBytes 8 0 ++ sliceB (r.tokens.flatMap (fun t => leBytes 4 t.toNat)) 0 32

/-- Write records into free entries: the records left, whether a write failed, and the module. -/
def postRecords (f : Fn) : List ResultRec → Mod → List ResultRec × Bool × Mod
  | [], m => ([], false, m)
  | r :: rs, m =>
    let g := (m.func f).result
    let a := g.base + 64 * g.tail
    if g.used ≥ g.size then (r :: rs, false, m)
    else if m.dmaFails a 64 then (r :: rs, true, m)
    else
      postRecords f rs (({ m with hostMem := m.hostMem.write a r.bytes }).updFunc f (fun x => { x with result :=
        { x.result with tail := (g.tail + 1) % g.size, used := g.used + 1 } }))

/-- The end record of a request that a group in progress has cancelled becomes visible with the group (R373). -/
def Mod.holdsBack (m : Mod) (p : Part) (r : ResultRec) : Bool :=
  allFns.any (fun g => allPairs.any (fun k =>
    match ((m.func g).pair k).busy with
    | some b => b.group && b.undo.any (fun u => u.1 == p.val && byGroup u.2.serving.records r)
    | none => false))

/-- One batch: records, then RES_WB and one message. -/
def postBatch (p : Part) (m : Mod) : Mod :=
  let f := vfOf p
  let old := (m.func f).result
  let ready := (m.part p).serving.records.takeWhile (fun r => !m.holdsBack p r)
  let (left, failed, m') := postRecords f ready m
  let left := left ++ (m.part p).serving.records.drop ready.length
  if left.length = (m.part p).serving.records.length then (if failed then resultError f m else m)
  else if m.dmaFails old.wb 8 then resultError f (m'.updFunc f (fun x => { x with result := old }))
  else
    let m' := { m' with hostMem := m'.hostMem.write old.wb (leBytes 8 ((m'.func f).result.tail)) }
    let m' := (updServing p (fun y => { y with records := left }) m').updFunc f (·.msix old.vec)
    if failed then resultError f m' else m'

/-- RESULT_RECORD_POST: the firmware posts the records it holds. A result ring whose EN was cleared has then drained. -/
def execResultRecordPost (p : Part) (s : State) : Host.Outcome State Fault Refusal :=
  match ((s.m.func (vfOf p)).result).st with
  | .running => if s.hub.power.st != .ready then .next s else .next { s with m := postBatch p s.m }
  | .draining => .next { s with m := s.m.updFunc (vfOf p) (fun x => { x with result := { x.result with st := .disabled } }) }
  | _ => .next s

/-! ### Requests of the host (R330 to R332, R369, R370) -/

def reqHandle (b : Bytes) : BitVec 32 := BitVec.ofNat 32 (leAt b 16 4)

/-- The request a descriptor names; one that is ENDED is no more. -/
def Mod.request (m : Mod) (p : Part) (h : BitVec 32) : Option Request :=
  (m.part p).serving.live h

/-- Queue a request, its prompt copied. -/
def submit (p : Part) (b : Bytes) (m : Mod) : Mod :=
  let n := leAt b 20 4
  let prompt := m.hostMem.read (leAt b 24 8) (4 * n)
  let q : Request := { handle := reqHandle b, id := (m.part p).serving.submitted + 1, st := .queued, k := 0, total := 0, prompt := regsOf prompt 0 n
                       maxTok := leAt b 32 4, stops := regsOf b 40 (min 4 (leAt b 36 1)), depth := leAt b 37 1
                       lastTok := none, drafts := [] }
  updServing p (fun y => { y with requests := y.requests ++ [q], submitted := y.submitted + 1, expired := y.expired.filter (· != q.handle) }) m

def reqSubmitDef : HostOp :=
  { op := 0x18, place := 1, fields := [(16, 4), (20, 4), (24, 8), (32, 4), (36, 1), (37, 1), (40, 16)]
    range := fun _ b => firstBad [(20, leAt b 20 4 = 0 || leAt b 20 4 ≥ 2 ^ 24), (36, leAt b 36 1 > 4), (37, leAt b 37 1 > 7)]
    reads := fun _ b => [(leAt b 24 8, 4 * leAt b 20 4)]
    check := fun f b m => if partIs f b (fun p => (m.request p (reqHandle b)).isSome) then some (hReqHandle, 0) else none
    act := fun f _ b m => withPart f b (fun p => .done hOk 0 0 (submit p b m)) m
    leaves := fun f b m => match descPart f b with
      | some p => submit p b m
      | none => m }

def execReqSubmit (f : Fn) (n : PairId) (s : State) : Host.Outcome State Fault Refusal := onRing reqSubmitDef f n s

/-- Seconds of the always-on count (R331). -/
def Mod.second (m : Mod) : Nat := (m.wall - m.aonAt) / 10 ^ 9

/-- A paused request has reached its expiry tick (R332). -/
def Request.isExpired (q : Request) (m : Mod) : Bool := q.st == .paused && q.expiry.any (fun e => e ≤ m.second)

/-- Cancel a request (Table SRV-11). -/
def cancel (p : Part) (h : BitVec 32) (m : Mod) : Mod :=
  match m.request p h with
  | none => m
  | some q =>
    match q.st with
    | .queued | .paused => endRequest p { q with endCode := 3 } m
    | .prefill | .decode => settleRequests p (updRequest p q.id (fun q => { q with st := .ending, endCode := 3 }) m)
    | .ending | .endingPause | .ended => m

/-- The checks of REQ_CANCEL: at or after its expiry a paused request is unknown (Table HST-8); one that is being paused
leaves ENDING only as Table SRV-11 gives. -/
def cancelCheck (p : Part) (h : BitVec 32) (m : Mod) : Option (Nat × Nat) :=
  match m.request p h with
  | none => some (hReqUnknown, 0)
  | some q => if q.isExpired m then some (hReqUnknown, 0) else if q.st == .endingPause then some (hReqState, 0) else none

def reqCancelDef : HostOp :=
  { op := 0x19, place := 1, fields := [(16, 4)]
    check := fun f b m => (descPart f b).bind (fun p => cancelCheck p (reqHandle b) m)
    act := fun f _ b m => withPart f b (fun p => .done hOk 0 0 (cancel p (reqHandle b) m)) m
    leaves := fun f b m => match descPart f b with
      | some p => cancel p (reqHandle b) m
      | none => m }

def execReqCancel (f : Fn) (n : PairId) (s : State) : Host.Outcome State Fault Refusal := onRing reqCancelDef f n s

def reqTtl (b : Bytes) : Nat := leAt b 20 4

/-- TTL timers of a partition in use or promised. -/
def Serving.timers (v : Serving) : Nat := v.requests.countP (fun q => q.st == .paused || q.st == .endingPause)

/-- The checks of REQ_PAUSE (R331, R370). -/
def pauseCheck (p : Part) (b : Bytes) (m : Mod) : Option (Nat × Nat) :=
  let x := m.part p
  match m.request p (reqHandle b) with
  | none => some (hReqUnknown, 0)
  | some q =>
    if q.isExpired m then some (hReqUnknown, 0)
    else if q.st != .decode then some (hReqState, 0)
    else if reqTtl b = 0 || reqTtl b > 86400 || x.serving.timers ≥ x.ttlShare then some (hTtlRefused, 0)
    else none

/-- Change the request that a handle names. -/
def updLive (p : Part) (h : BitVec 32) (f : Request → Request) (m : Mod) : Mod :=
  match m.request p h with
  | none => m
  | some q => updRequest p q.id f m

/-- The request enters ENDING on its way to PAUSED. -/
def beginPause (p : Part) (b : Bytes) (ring : Option (Nat × Nat)) (m : Mod) : Mod :=
  updLive p (reqHandle b) (fun q => { q with st := .endingPause, ttl := reqTtl b, pauseRing := ring }) m

def reqPauseDef : HostOp :=
  { op := 0x1A, place := 1, fields := [(16, 4), (20, 4)]
    check := fun f b m => (descPart f b).bind (fun p => pauseCheck p b m)
    act := fun f n b m => withPart f b (fun p => .long (beginPause p b (some (ringKey f n m)) m)) m
    leaves := fun f b m => match descPart f b with
      | some p => updLive p (reqHandle b) (fun q => { q with st := .paused, ttl := reqTtl b,
                                                                expiry := some (m.second + reqTtl b + 1) }) m
      | none => m }

def execReqPause (f : Fn) (n : PairId) (s : State) : Host.Outcome State Fault Refusal := onRing reqPauseDef f n s

/-- The checks of REQ_RESUME (R332). -/
def resumeCheck (p : Part) (h : BitVec 32) (m : Mod) : Option (Nat × Nat) :=
  match m.request p h with
  | none => if (m.part p).serving.expired.contains h then some (hReqExpired, 0) else some (hReqUnknown, 0)
  | some q =>
    if q.isExpired m then some (hReqExpired, 0)
    else if q.st != .paused then some (hReqState, 0)
    else none

/-- The timer stops and the request returns to DECODE. -/
def resume (p : Part) (h : BitVec 32) (m : Mod) : Mod :=
  updLive p h (fun q => { q with st := .decode, expiry := none }) m

def reqResumeDef : HostOp :=
  { op := 0x1B, place := 1, fields := [(16, 4)]
    check := fun f b m => (descPart f b).bind (fun p => resumeCheck p (reqHandle b) m)
    act := fun f _ b m => withPart f b (fun p => .done hOk 0 0 (resume p (reqHandle b) m)) m
    leaves := fun f b m => match descPart f b with
      | some p => resume p (reqHandle b) m
      | none => m }

def execReqResume (f : Fn) (n : PairId) (s : State) : Host.Outcome State Fault Refusal := onRing reqResumeDef f n s

/-! ### Pause: the tier move and the timer (R331, R332) -/

/-- The window pages that one firkin of one tile fills (R230): its lines, padded to whole pages. -/
def firkinPages (m : Mod) (p : Part) (es : List (Nat × Nat × Nat)) (size h j t : Nat) : List (Nat × Bytes) :=
  let x := m.part p
  let place := Config.firkinPlace false h j t
  let bay := (x.bayAt (place % max 1 x.bays.length)).getD 0
  let bs := (m.hbm.get (toFin 8 bay)).read (64 * (place / 8 % 2 ^ 30)) (64 * size)
  let first := tierPage es size h j t
  (List.range (ceilDiv size 64)).map (fun i => (first + i, sliceB bs (pageBytes * i) pageBytes))

/-- The pages of a move of firkins js of a request, in the mover's order. -/
def movePages (m : Mod) (p : Part) (q : Request) (js : List Nat) (es : List (Nat × Nat × Nat)) : List (Nat × Bytes) :=
  let x := m.part p
  js.flatMap (fun j => (List.range (8 * x.bays.length)).flatMap (fun t => firkinPages m p es x.firkinSize q.handle.toNat j t))

/-- Firkins of a request in HBM. -/
def Request.inHbm (q : Request) : List Nat := q.firkins.filter (fun j => !q.tierFirkins.contains j)

/-- Move firkins js of a request and rewrite their entries. Pages that a TIER_ROTATE found taken up are written. -/
def moveRequest (p : Part) (q : Request) (js : List Nat) (es : List (Nat × Nat × Nat)) (m : Mod) : Mod :=
  let size := (m.part p).firkinSize
  let m := windowWrite p es ((movePages m p q js es).drop q.moved) m
  let m := putEntries p q.pts js (fun t j => tierEntry (tierPage es size q.handle.toNat j t)) m
  updRequest p q.id (fun q => { q with tierFirkins := q.tierFirkins ++ js, moved := 0 }) m

/-- The oldest firkin of a running request that no uncommitted step can write any more (R333). -/
def Request.oldest (q : Request) : List Nat := (minL (q.inHbm.filter (fun j => 64 * (j + 1) ≤ q.k))).toList

/-- The move of a pausing request ends: the request is PAUSED, its timer runs, and REQ_PAUSE completes. -/
def pauseMoved (p : Part) (q : Request) (es : List (Nat × Nat × Nat)) (m : Mod) : Mod :=
  let m := moveRequest p q q.inHbm es m
  let m := updRequest p q.id (fun q => { q with st := .paused, expiry := some (m.second + q.ttl + 1) }) m
  finishPause p q hOk m

/-- TIER_MOVE_COMPLETE: the firkins of a pausing request whose release point has passed lie in the window at every
member; the lead starts its timer and REQ_PAUSE completes. Of a request that runs, the oldest firkin moves (R333). -/
def execTierMoveComplete (p : Part) (h : BitVec 32) (s : State) : Host.Outcome State Fault Refusal :=
  let x := s.m.part p
  match s.m.request p h, x.serving.desc, x.extents with
  | some q, some v, some es =>
    if s.hub.power.st != .ready then .next s
    else if q.st == .prefill || q.st == .decode then .next { s with m := onCtx p .tierMover (moveRequest p q q.oldest es) s.m }
    else if q.st != .endingPause || q.held x v then .next s
    else .next { s with m := onCtx p .tierMover (pauseMoved p q es) s.m }
  | _, _, _ => .next s

/-- A TIER_ROTATE meets the tier moves in progress (R414): the pages that a move has taken up are written under the old
CUR. -/
def takeUpMoves (p : Part) (m : Mod) : Mod :=
  (m.part p).serving.requests.foldl (fun m q =>
    let x := m.part p
    match x.serving.desc, x.extents with
    | some v, some es =>
      if q.st != .endingPause || q.held x v then m
      else
        let pages := (movePages m p q q.inHbm es).drop q.moved
        let n := Config.takenUp m.free pages.length % (pages.length + 1)
        let m := windowWrite p es (pages.take n) { m with free := m.free + 1 }
        updRequest p q.id (fun q => { q with moved := q.moved + n }) m
    | _, _ => m) m

/-- A request whose timer has expired: its firkins are freed and the record with END 0x04 is posted. -/
def expire (p : Part) (m : Mod) (h : BitVec 32) : Mod :=
  match m.request p h with
  | none => m
  | some q =>
    if !q.isExpired m then m
    else
      updServing p (fun y => { y with expired := y.expired ++ [h] }) (endRequest p { q with endCode := 4 } m)

/-- Every request whose timer has expired. -/
def expireAll (m : Mod) : Mod :=
  allParts.foldl (fun m p => ((m.part p).serving.requests.map (·.handle)).foldl (expire p) m) m

/-- TTL_EXPIRY: the tick of a request's timer comes. In STANDBY it wakes the module where WAKE_TTL is set (R418), and
takes effect when READY is reached. -/
def execTtlExpiry (p : Part) (h : BitVec 32) (s : State) : Host.Outcome State Fault Refusal :=
  match (s.m.request p h).bind (·.expiry) with
  | none => .next s
  | some e =>
    let m := advanceWall (s.m.aonAt + e * 10 ^ 9) s.m
    match s.hub.power.st with
    | .ready => .next { s with m := expire p m h }
    | .standby => .next { s with m := m, hub := if s.hub.power.wakeTtl then s.hub.beginWake 3 m.wall else s.hub }
    | _ => .next s

end Sys2Proof.Machine
end

