-- ==== Sys2Proof/Machine/Weights.lean ====
section
/-!
DEFINITION. Weights and stones (R335 to R355): manifests, stone records and their directory, loads, the interval check,
chain installs, and the WRITE row, which moves an install on.
-/
namespace Sys2Proof.Machine

def hRecordLocked : Nat := 0x005C
def hManifestRefused : Nat := 0x0050
def hManifestFull : Nat := 0x0051
def hLoadBusy : Nat := 0x0052
def hLoadNoManifest : Nat := 0x0053
def hLoadNoKey : Nat := 0x0054
def hLoadEntry : Nat := 0x0055
def hLoadTier : Nat := 0x0056
def hStoneTag : Nat := 0x0057
def hStoneDigest : Nat := 0x0058
def hStoneFlashUe : Nat := 0x0059
def hFlashWorn : Nat := 0x005B

/-- A status other than OK where the spec states none: a free value. -/
def hOpen (k : Nat) : Nat := 1 + Config.openStatus k % 65535

/-! ### Manifests (R337, R338, R400) -/

/-- Bytes of the plaintext of a stone, and its lines in HBM. -/
def stoneBytes : Nat := 2 ^ 26
def stoneLines : Nat := 2 ^ 20

/-- Read a manifest: its entries are INDEX, VERSION, DIGEST. -/
def Manifest.parse (b : Bytes) : Manifest :=
  { model := BitVec.ofNat 64 (leAt b 8 8), mver := leAt b 16 4, owner := BitVec.ofNat 512 (leAt b 24 64)
    entries := (List.range (leAt b 20 4)).map (fun i =>
      let e := (b.drop (128 + 80 * i)).take 80
      (leAt e 0 4, leAt e 4 4, BitVec.ofNat 512 (leAt e 8 64))) }

/-- INDEX rises strictly from entry to entry. -/
def ascending : List (Nat × Nat × BitVec 512) → Bool
  | a :: b :: r => decide (a.1 < b.1) && ascending (b :: r)
  | _ => true

/-- The form of a manifest (Tables WGT-2 and WGT-3). -/
def manifestForm (b : Bytes) : Bool :=
  let n := leAt b 20 4
  leAt b 0 4 == 0x464E4D53 && leAt b 4 1 == 1 && allZero (sliceB b 5 3) && decide (1 ≤ n) && decide (n ≤ 262144)
    && allZero (sliceB b 88 40) && b.length == 128 + 80 * n + 4627
    && (List.range n).all (fun i => decide (leAt (b.drop (128 + 80 * i)) 0 4 < 262144)
          && allZero (sliceB (b.drop (128 + 80 * i)) 72 8))
    && ascending (Manifest.parse b).entries

/-- The owner key of the model slot that holds a MODEL. -/
def Partition.ownerKey (x : Partition) (model : BitVec 64) : Option Bytes :=
  x.keys.models.toList.findSome? (fun s => if s.model == some model then s.ownerKey else none)

/-- The model slot whose stone key a load or an install of a MODEL takes: the lowest that holds one. -/
def Partition.keySlot (x : Partition) (model : BitVec 64) : Option (Fin 8) :=
  ((List.range 8).map (toFin 8)).find? (fun i =>
    let s := x.keys.models.get i
    s.model == some model && s.stoneKey.isSome)

/-- The stone key behind a slot handle (R400). -/
def Partition.slotKey (x : Partition) (i : Fin 8) : Option (BitVec 256) := (x.keys.models.get i).stoneKey

/-- The resident manifest of a MODEL. -/
def Partition.manifest (x : Partition) (model : BitVec 64) : Option Manifest := x.manifests.find? (fun f => f.model == model)

/-- Highest MVER accepted for a MODEL since the partition was formed. -/
def Partition.topMver (x : Partition) (model : BitVec 64) : Nat := ((x.maxMver.find? (fun e => e.1 == model)).map (·.2)).getD 0

/-- A manifest verifies (R338). -/
def manifestGood (x : Partition) (b : Bytes) : Bool :=
  let f := Manifest.parse b
  manifestForm b && decide (x.topMver f.model ≤ f.mver)
    && (match x.ownerKey f.model with
        | none => false
        | some k => f.owner == Config.sha3d512 k && Config.mldsaVerify k (b.take (b.length - 4627)) (b.drop (b.length - 4627)))

/-- Make a manifest resident, in place of one of the same MODEL. -/
def putManifest (p : Part) (f : Manifest) (m : Mod) : Mod :=
  m.updPart p (fun x => { x with
    manifests := x.manifests.filter (fun g => g.model != f.model) ++ [f], maxMver := x.maxMver.filter (fun e => e.1 != f.model) ++ [(f.model, f.mver)] })

def manifestBytes (m : Mod) (b : Bytes) : Bytes := m.hostMem.read (leAt b 16 8) (leAt b 24 4)

/-- A ninth manifest is refused. -/
def manifestFull (p : Part) (b : Bytes) (m : Mod) : Bool :=
  let x := m.part p
  x.manifests.length ≥ 8 && (x.manifest (BitVec.ofNat 64 (leAt (m.hostMem.read (leAt b 16 8) 16) 8 8))).isNone

def verifyManifest (p : Part) (b : Bytes) (m : Mod) : OpResult :=
  let bs := manifestBytes m b
  if !manifestGood (m.part p) bs then .done hManifestRefused 0 0 m
  else
    let m := putManifest p (Manifest.parse bs) m
    .done hOk 0 (m.part p).manifests.length m

def manifestPutDef : HostOp :=
  { op := 0x10, place := 1, fields := [(16, 8), (24, 4)]
    reads := fun _ b => [(leAt b 16 8, leAt b 24 4)]
    check := fun f b m => if partIs f b (fun p => manifestFull p b m) then some (hManifestFull, 0) else none
    act := fun f _ b m => withPart f b (fun p => verifyManifest p b m) m
    leaves := fun f b m => match descPart f b with
      | some p => putManifest p (Manifest.parse (manifestBytes m b)) m
      | none => m }

def execManifestPut (f : Fn) (n : PairId) (s : State) : Host.Outcome State Fault Refusal := onRing manifestPutDef f n s

def dropManifest (p : Part) (model : BitVec 64) (m : Mod) : Mod :=
  m.updPart p (fun x => { x with manifests := x.manifests.filter (fun g => g.model != model) })

def bodyModel (b : Bytes) (o : Nat) : BitVec 64 := BitVec.ofNat 64 (leAt b o 8)

/-- MANIFEST_DROP waits for no load of its MODEL: it is refused during one (Table WGT-6). -/
def manifestDropDef : HostOp :=
  { op := 0x11, place := 1, fields := [(16, 8)]
    check := fun f b m =>
      if partIs f b (fun p => (m.part p).load.any (fun l => l.model == bodyModel b 16)) then some (hLoadBusy, 0) else none
    act := fun f _ b m => withPart f b (fun p => .done hOk 0 0 (dropManifest p (bodyModel b 16) m)) m
    leaves := fun f b m => match descPart f b with
      | some p => dropManifest p (bodyModel b 16) m
      | none => m }

def execManifestDrop (f : Fn) (n : PairId) (s : State) : Host.Outcome State Fault Refusal := onRing manifestDropDef f n s

/-! ### Stone records (R335, R336, R340, R343) -/

/-- The trailer of a record (Table WGT-1). -/
structure Trailer where
  tag : BitVec 128
  model : BitVec 64
  index : Nat
  version : Nat
  magic : Bool
  aad : Bytes
  deriving DecidableEq, Repr, Inhabited

/-- Read a trailer from the bytes of page 16,384. -/
def Trailer.parse (b : Bytes) : Trailer :=
  { tag := BitVec.ofNat 128 (leAt b 0 16), model := BitVec.ofNat 64 (leAt b 16 8), index := leAt b 24 4
    version := leAt b 28 4, magic := leAt b 32 4 == 0x52545353, aad := sliceB b 16 20 }

/-- The plaintext of a record whose tag verifies (R336, R346). -/
def openStone (key : BitVec 256) (ct : Bytes) (t : Trailer) : Option Bytes :=
  let iv := BitVec.ofNat 96 (t.index + t.version * 2 ^ 32)
  if Config.gcmTag key iv t.aad ct == t.tag then some (sliceB (Config.gcmDecrypt key iv t.aad ct) 0 stoneBytes) else none

/-- A record passes its checks against a manifest: its plaintext, or the status of R347. -/
def checkStone (f : Manifest) (key : BitVec 256) (ct : Bytes) (t : Trailer) : Except Nat Bytes :=
  match openStone key ct t with
  | none => .error hStoneTag
  | some pt =>
    if f.entries.any (fun e => e.1 == t.index && e.2.1 == t.version && e.2.2 == Config.sha3d512 pt) && t.model == f.model
    then .ok pt else .error hStoneDigest

/-- The bytes of a record lie in a namespace. -/
def Namespace.fits (ns : Namespace) (foff : Nat) : Bool := foff + recordBytes ≤ ns.granules * granuleBytes

/-- The pages of a record reach the namespace: they leave the spare area of the flash key. -/
def Namespace.store (ns : Namespace) (foff : Nat) (bs : Bytes) : Namespace :=
  { ns with
    data := ns.data.write foff bs
    spare := ns.spare.filter (fun e => pageBytes * e.1 + pageBytes ≤ foff || foff + recordBytes ≤ pageBytes * e.1) }

/-- Enter a record in the directory: its offset is page-aligned, its trailer carries MAGIC, and no record has its MODEL,
INDEX and VERSION. -/
def Namespace.enter (ns : Namespace) (foff : Nat) (t : Trailer) : Option Namespace :=
  if foff % pageBytes != 0 || !t.magic || ns.dir.any (fun d => d.model == t.model && d.index == t.index && d.version == t.version)
      || ns.dir.length ≥ 262144 then none
  else some { ns with dir := ns.dir ++ [{ foff, model := t.model, index := t.index, version := t.version }] }

/-- The trailer of a record in a namespace. -/
def Namespace.trailer (ns : Namespace) (foff : Nat) : Trailer := Trailer.parse (ns.data.read (foff + stoneBytes) 36)

def updNs (p : Part) (ns : Namespace) (m : Mod) : Mod := m.updPart p (fun x => { x with ns := some ns })

/-- The refusal of a write of a record to the namespace of a partition. -/
def stoneWriteRefusal (m : Mod) (p : Part) (foff : Nat) : Option Nat :=
  if m.flashWorn then some hFlashWorn
  else
    match (m.part p).ns with
    | none => some hAddrWindow
    | some ns =>
      if !ns.fits foff then some hAddrWindow
      else if touchesRecord ns foff recordBytes then some hRecordLocked
      else none

def stoneFoff (b : Bytes) : Nat := leAt b 24 8

def stoneWriteDef : HostOp :=
  { op := 0x12, fields := [(16, 8), (24, 8)]
    range := fun _ b => firstBad [(24, stoneFoff b % 4096 != 0)]
    reads := fun _ b => [(leAt b 16 8, recordBytes)]
    check := fun f b m => (descPart f b).bind (fun p => (stoneWriteRefusal m p (stoneFoff b)).map (·, 0))
    act := fun f n b m => withPart f b (fun p => .long (m.updPart p (fun x =>
      { x with stoneWrites := x.stoneWrites ++ [(stoneFoff b, leAt b 16 8, ringKey f n m)] }))) m }

def execStoneWrite (f : Fn) (n : PairId) (s : State) : Host.Outcome State Fault Refusal := onRing stoneWriteDef f n s

/-- A host's stone write ends: the record's pages are on flash and it is entered, or the write is refused. -/
def finishStoneWrite (p : Part) (w : Nat × Nat × Nat × Nat) (m : Mod) : Mod :=
  let m := m.updPart p (fun x => { x with stoneWrites := removeFirst (· == w) x.stoneWrites })
  let ring := some w.2.2
  match stoneWriteRefusal m p w.1, (m.part p).ns with
  | some c, _ => finishAt ring c 0 0 m
  | none, none => m
  | none, some ns =>
    if m.dmaFails w.2.1 recordBytes then finishAt ring hDma 0 0 m
    else
      let ns := ns.store w.1 (m.hostMem.read w.2.1 recordBytes)
      match ns.enter w.1 (ns.trailer w.1) with
      | some ns => finishAt ring hOk 0 0 (updNs p ns m)
      | none => finishAt ring (hOpen w.1) 0 0 (updNs p ns m)

/-- STONE_DELETE (R340): at once, or once nothing reads the record. -/
def deleteStone (f : Fn) (n : PairId) (p : Part) (foff : Nat) (m : Mod) : OpResult :=
  match ((m.part p).ns.map (·.dir)).bind (fun d => d.find? (fun r => r.foff == foff)) with
  | none => .done hOk 0 0 m
  | some _ =>
    if m.recordRead p foff then
      let k := ringKey f n m
      .long (m.updPart p (fun x => { x with ns := x.ns.map (fun s => { s with
        dir := s.dir.map (fun d => if d.foff = foff then { d with deleting := some k } else d) }) }))
    else .done hOk 0 0 (deleteRecord p foff m)

/-- Some ring already deletes the record at an offset. -/
def Partition.deletes (x : Partition) (foff : Nat) : Bool :=
  x.ns.any (fun s => s.dir.any (fun d => d.foff == foff && d.deleting.isSome))

def stoneDeleteDef : HostOp :=
  { op := 0x13, fields := [(24, 8)]
    range := fun _ b => firstBad [(24, stoneFoff b % 4096 != 0)]
    waits := fun f b m => partIs f b (fun p => (m.part p).deletes (stoneFoff b))
    check := fun f b m => if partIs f b (fun p => !((m.part p).ns.any (fun s => stoneFoff b < s.granules * granuleBytes)))
      then some (hAddrWindow, 0) else none
    act := fun f n b m => withPart f b (fun p => deleteStone f n p (stoneFoff b) m) m }

def execStoneDelete (f : Fn) (n : PairId) (s : State) : Host.Outcome State Fault Refusal := onRing stoneDeleteDef f n s

/-- FLASH_SPARE_EXHAUSTED (R343, R427): flash wear shows in READY, RUN and HOLD alone. Namespace writes are refused from now on, and the module asks to be replaced. -/
def execFlashSpareExhausted (s : State) : Host.Outcome State Fault Refusal :=
  if s.m.flashWorn || s.hub.power.st != .ready then .next s
  else .next { s with m := refreshReplace { s.m with flashWorn := true } }

/-! ### Loads (R344 to R347) -/

/-- A load entry (Table WGT-4), and whether its reserved fields are zero. -/
def LoadEntry.parse (b : Bytes) : LoadEntry × Bool :=
  let d := leAt b 16 1
  ({ index := leAt b 0 4, foff := leAt b 8 8, tier := bitN d 0, bay := bitsN d 3 1, loc := leAt b 24 8 },
   allZero (sliceB b 4 4) && allZero (sliceB b 17 7) && bitsN d 7 4 == 0)

/-- The load entries of a descriptor. -/
def loadEntries (m : Mod) (b : Bytes) : List (LoadEntry × Bool) :=
  let n := leAt b 24 4
  let bs := m.hostMem.read (leAt b 16 8) (32 * n)
  (List.range n).map (fun i => LoadEntry.parse ((bs.drop (32 * i)).take 32))

/-- Two placements overlap. -/
def LoadEntry.meets (a b : LoadEntry) : Bool :=
  let n := if a.tier then 16384 else stoneLines
  a.tier == b.tier && (a.tier || a.bay == b.bay) && decide (a.loc < b.loc + n) && decide (b.loc < a.loc + n)

/-- A placement lies in a bay or in the CXL window of the partition. -/
def LoadEntry.placed (e : LoadEntry) (x : Partition) : Bool :=
  if e.tier then x.extents.any (fun es => e.loc + 16384 ≤ extentPages es)
  else (x.bayAt e.bay).isSome && e.loc % 32 == 0 && e.loc + stoneLines ≤ hbmLines

/-- The record at FOFF is the one the manifest lists under INDEX. -/
def LoadEntry.onFlash (e : LoadEntry) (f : Manifest) (x : Partition) : Bool :=
  (x.ns.bind (fun s => s.dir.find? (fun d => d.foff == e.foff))).any (fun d =>
    d.model == f.model && d.index == e.index && f.entries.any (fun g => g.1 == e.index && g.2.1 == d.version))

/-- The first list index whose entry, with those before it, breaks a rule. -/
def firstEntry (bad : List LoadEntry → LoadEntry × Bool → Bool) : List LoadEntry → Nat → List (LoadEntry × Bool) → Option Nat
  | _, _, [] => none
  | before, i, e :: r => if bad before e then some i else firstEntry bad (before ++ [e.1]) (i + 1) r

/-- The first check of R345 that a load fails: status, DETAIL and RESULT. -/
def loadRefusal (p : Part) (b : Bytes) (m : Mod) : Option (Nat × Nat × Nat) :=
  let x := m.part p
  let es := loadEntries m b
  let model := bodyModel b 32
  let entry (status : Nat) (bad : List LoadEntry → LoadEntry × Bool → Bool) : Option (Nat × Nat × Nat) :=
    (firstEntry bad [] 0 es).map (fun i => (status, if status = hLoadEntry then i % 65536 else 0, i))
  if x.load.isSome then some (hLoadBusy, 0, 0)
  else
    match x.manifest model with
    | none => some (hLoadNoManifest, 0, 0)
    | some f =>
      if (x.keySlot model).isNone || (x.ownerKey model).isNone then some (hLoadNoKey, 0, 0)
      else
        (entry hLoadEntry (fun before e =>
            !f.entries.any (fun g => g.1 == e.1.index) || before.any (fun k => k.index == e.1.index))).or
        ((entry hLoadEntry (fun _ e => !e.1.onFlash f x)).or
        ((entry hAddrWindow (fun _ e => !e.1.placed x)).or
        ((entry hLoadEntry (fun before e => before.any e.1.meets)).or
        ((entry hLoadTier (fun _ e => e.1.tier && leAt b 28 1 != 1)).or
        (entry hLoadEntry (fun _ e => !e.2))))))

def stoneLoadDef : HostOp :=
  { op := 0x14, place := 2, fields := [(16, 8), (24, 4), (28, 1), (32, 8)]
    range := fun _ b => firstBad [(24, leAt b 24 4 = 0 || leAt b 24 4 > 16384), (28, leAt b 28 1 = 0 || leAt b 28 1 > 4)]
    reads := fun _ b => [(leAt b 16 8, 32 * leAt b 24 4)]
    check := fun f b m => (descPart f b).bind (fun p => (loadRefusal p b m).map (fun (e : Nat × Nat × Nat) => (e.1, e.2.1)))
    refusalResult := fun s f b m =>
      ((descPart f b).bind (fun p => (loadRefusal p b m).map (fun (e : Nat × Nat × Nat) => if e.1 = s then e.2.2 else 0))).getD 0
    act := fun f n b m => withPart f b (fun p => .long (m.updPart p (fun x =>
      { x with load := some { ring := ringKey f n m, model := bodyModel b 32, entries := (loadEntries m b).map (·.1)
                              keySlot := (x.keySlot (bodyModel b 32)).getD 0 } }))) m }

def execStoneLoad (f : Fn) (n : PairId) (s : State) : Host.Outcome State Fault Refusal := onRing stoneLoadDef f n s

/-- Lines of HBM that a placement takes. -/
def inPlacement (bay : Fin 8) (first : Nat) (l : LineRef) : Bool :=
  match l with
  | .hbm k n => k == bay && decide (first ≤ n) && decide (n < first + stoneLines)
  | .localStore _ _ => false

/-- A resident stone lies where a placement goes. -/
def Resident.under (r : Resident) (bay first : Nat) : Bool :=
  r.bay == bay && decide (r.line < first + stoneLines) && decide (first < r.line + stoneLines)

/-- Write a whole placement: a plaintext, or zero. What was resident there is so no more. -/
def writePlacement (p : Part) (e : LoadEntry) (bs : Bytes) (m : Mod) : Mod :=
  let x := m.part p
  if e.tier then
    match x.extents with
    | some es => windowWrite p es ((List.range 16384).map (fun i => (e.loc + i, sliceB (bs.drop (pageBytes * i)) 0 pageBytes))) m
    | none => m
  else
    match x.bayAt e.bay with
    | none => m
    | some b =>
      let m := writeHbm (toFin 8 b) [(64 * e.loc, sliceB bs 0 stoneBytes)] m
      let m := clearErrs (inPlacement (toFin 8 b) e.loc) m
      m.updPart p (fun x => { x with resident := x.resident.filter (fun r => !r.under b e.loc) })

/-- A stone has arrived: in HBM it is resident under its manifest, and a stone that had failed its check is good again. -/
def arrive (p : Part) (f : Manifest) (e : LoadEntry) (bs : Bytes) (digest : BitVec 512) (m : Mod) : Mod :=
  let m := writePlacement p e bs m
  m.updPart p (fun x =>
    let r : Resident := { bay := (x.bayAt e.bay).getD 0, line := e.loc, model := f.model, mver := f.mver
                          index := e.index, digest }
    { x with
      resident := if e.tier then x.resident else x.resident ++ [r]
      corrupt := x.corrupt.filter (fun c => c != (f.model, e.index))
      load := x.load.map (fun l =>
        if x.corrupt.contains (f.model, e.index) then { l with cured := l.cured ++ [e.index] } else l) })

/-- The load of a partition goes on, or completes. -/
def nextStone (p : Part) (l : LoadJob) (m : Mod) : Mod :=
  if l.pos + 1 < l.entries.length then
    settleDeletes p (m.updPart p (fun x => { x with load := x.load.map (fun l => { l with pos := l.pos + 1 }) }))
  else finishAt (some l.ring) hOk 0 0 (settleDeletes p (m.updPart p (fun x => { x with load := none })))

/-- STONE_RECORD_ARRIVAL (R346, R347): the next record of the load has been read. -/
def execStoneRecordArrival (p : Part) (flashUe : Bool) (s : State) : Host.Outcome State Fault Refusal :=
  let x := s.m.part p
  match x.load with
  | none => .next s
  | some l =>
    match l.failed, l.entries[l.pos]?, x.manifest l.model, x.slotKey l.keySlot, x.ns with
    | none, some e, some f, some key, some ns =>
      let stop (c : Nat) : Mod := s.m.updPart p (fun x => { x with load := some { l with failed := some (l.pos, c) } })
      if s.hub.power.st != .ready then .next s
      else if flashUe then .next { s with m := settleDeletes p (stop hStoneFlashUe) }
      else
        match checkStone f key (ns.data.read e.foff stoneBytes) (ns.trailer e.foff) with
        | .error c => .next { s with m := settleDeletes p (stop c) }
        | .ok bs => .next { s with m := nextStone p l (arrive p f e bs (Config.sha3d512 bs) s.m) }
    | _, _, _, _, _ => .next s

/-- LOAD_ZEROING_COMPLETE (R347): every placement of a failed load is zero and the load completes. It has placed nothing:
the stones that it had placed again are corrupt as before (R350). -/
def execLoadZeroingComplete (p : Part) (s : State) : Host.Outcome State Fault Refusal :=
  match (s.m.part p).load with
  | none => .next s
  | some l =>
    match l.failed with
    | none => .next s
    | some (i, c) =>
      let m := l.entries.foldl (fun m e => writePlacement p e [] m) s.m
      let m := m.updPart p (fun x => { x with load := none, corrupt := x.corrupt ++ l.cured.map (l.model, ·) })
      .next { s with m := finishAt (some l.ring) c 0 i (settleDeletes p m) }

/-! ### The interval check (R349, R350) -/

/-- What a pass finds of a stone: skipped whole, as a load is placing it (Table WGT-6), unchecked, good, or mismatched. -/
inductive Digested where
  | skipped
  | unchecked
  | good
  | mismatched
  deriving DecidableEq, Repr, Inhabited

/-- Re-digest a stone. -/
def digestOf (m : Mod) (p : Part) (r : Resident) : Digested :=
  let x := m.part p
  let loading := x.load.any (fun l => l.entries.any (fun e =>
    !e.tier && x.bayAt e.bay == some r.bay && r.under r.bay e.loc))
  let held := x.manifests.any (fun f => f.model == r.model && f.mver == r.mver)
  let bad := m.lineErrs.any (fun e => e.double && inPlacement (toFin 8 r.bay) r.line e.line)
  if loading then .skipped
  else if !held || bad then .unchecked
  else if Config.sha3d512 ((m.hbm.get (toFin 8 r.bay)).read (64 * r.line) stoneBytes) == r.digest then .good
  else .mismatched

def cStoneCorrupt : Nat := 0x0028

/-- A mismatch is reported, fails the domain where a plan runs, and zeroes the placement. -/
def corruptStone (p : Part) (r : Resident) (m : Mod) : Mod :=
  let setIdx (f : Func) : Func := { f with stone := r.index }
  let m := (m.updFunc (vfOf p) setIdx).updFunc pf0 setIdx
  let m := postBoth p evStoneCorrupt m
  let m := if (m.part p).running then failNode p cStoneCorrupt 0 r.index m else m
  let m := writeHbm (toFin 8 r.bay) [(64 * r.line, List.replicate stoneBytes 0)] m
  let m := clearErrs (inPlacement (toFin 8 r.bay) r.line) m
  m.updPart p (fun x => { x with
    resident := x.resident.filter (fun k => !(k.bay == r.bay && k.line == r.line))
    corrupt := x.corrupt ++ [(r.model, r.index)] })

/-- Record in the UE log the uncorrectable lines that a pass meets (Table MEM-3). -/
def logBadLines (p : Part) (r : Resident) (m : Mod) : Mod :=
  ((m.lineErrs.filter (fun e => e.double && inPlacement (toFin 8 r.bay) r.line e.line)).map (·.line)).foldl
    (fun m l => logUe p l (m.part p).ctr 0 m) m

/-- Stones that a pass checked, left unchecked and found mismatched. -/
structure PassCount where
  checked : Nat := 0
  unchecked : Nat := 0
  mismatched : Nat := 0
  deriving DecidableEq, Repr, Inhabited

/-- A pass comes to one stone. -/
def checkOne (p : Part) (a : PassCount × Mod) (r : Resident) : PassCount × Mod :=
  match digestOf a.2 p r with
  | .good => ({ a.1 with checked := a.1.checked + 1 }, a.2)
  | .skipped => ({ a.1 with unchecked := a.1.unchecked + 1 }, a.2)
  | .unchecked => ({ a.1 with unchecked := a.1.unchecked + 1 }, logBadLines p r a.2)
  | .mismatched => ({ a.1 with checked := a.1.checked + 1, mismatched := a.1.mismatched + 1 }, corruptStone p r a.2)

/-- One pass over the resident stones, ascending by partition-relative bay and line. -/
def checkPass (p : Part) (m : Mod) : PassCount × Mod :=
  (sortBy (fun r => r.bay * 2 ^ 32 + r.line) (m.part p).resident).foldl (checkOne p) ({}, m)

/-- Hours of the interval of a partition (R482). -/
def Mod.interval (m : Mod) (p : Part) : Nat := max 1 (fld (m.func (vfOf p)).partCfg.active 9 0)

/-- INTERVAL_CHECK: the pass that falls due at the end of the interval. -/
def execIntervalCheck (p : Part) (s : State) : Host.Outcome State Fault Refusal :=
  let x := s.m.part p
  if !x.admitted || s.hub.power.st != .ready || s.hub.power.entering then .next s
  else
    let m := advanceWall (x.checkedAt + s.m.interval p * 3600 * 10 ^ 9) s.m
    let start := m.wall
    let (n, m) := checkPass p m
    .next { s with m := m.updPart p (fun y => { y with
      checkedAt := s.m.wall.max (x.checkedAt + s.m.interval p * 3600 * 10 ^ 9)
      tel := { y.tel with checkPasses := y.tel.checkPasses.add 1, checked := { n := n.checked }
                          unchecked := { n := n.unchecked }, mismatched := { n := n.mismatched }
                          passStart := start, passEnd := m.wall } }) }

/-! ### Chain installs (R351 to R353) -/

/-- Packets of a record, and lines of packet i. -/
def chainPackets : Nat := 257
def chainLines (i : Nat) : Nat := if i < 256 then 4096 else 64

/-- Lines of a landing slot. -/
def slotLines : Nat := 1048640

/-- First line of the landing slot of record q. -/
def ChainJob.slot (c : ChainJob) (q : Nat) : Nat := c.line + 1 + q % c.nland * slotLines

/-- A member lies between two others on a line of the grid, in a direction. -/
def onChain (d : DomainDesc) (dir first last me : Nat) : Bool :=
  (first == last && me == first) ||
    (mcReaches d first last dir && (me == first || me == last || (mcReaches d first me dir && mcReaches d me last dir)))

/-- The opposite direction. -/
def turnBack (dir : Nat) : Nat := if dir % 2 = 0 then dir + 1 else dir - 1

/-- FREED as the successor has raised it in this member's control line. -/
def Mod.freedBy (m : Mod) (p : Part) (c : ChainJob) : Nat :=
  match (m.part p).bayAt c.bay with
  | some b => leNat ((m.hbm.get (toFin 8 b)).read (64 * c.line) 8)
  | none => 0

/-- The node and bay of a member's landing area. -/
def landingAt (d : DomainDesc) (k bay : Nat) : Option (BitVec 24 × Nat) :=
  match d.members[k]? with
  | some (node, mask) => (((List.range 8).filter mask.getLsbD)[bay]?).map (node, ·)
  | none => none

/-- A packet of a record at this member: read from flash at the source, else from its landing slot. -/
def Mod.chainBody (m : Mod) (p : Part) (c : ChainJob) (source : Bool) (q i : Nat) : Bytes :=
  let n := 64 * chainLines i
  let x := m.part p
  if source then
    match x.ns with
    | some ns => ns.data.read (c.foffs.getD q 0 + 64 * 4096 * i) n
    | none => []
  else
    match x.bayAt c.bay with
    | some b => (m.hbm.get (toFin 8 b)).read (64 * (c.slot q + 4096 * i)) n
    | none => []

/-- The next packet can be forwarded: it is at hand, and the first of a record finds a free slot. -/
def Mod.chainReady (m : Mod) (p : Part) (c : ChainJob) (source : Bool) : Bool :=
  decide (c.sentRec < c.foffs.length) && (source || c.got.contains (c.sentRec, c.sentPkt))
    && (c.sentPkt > 0 || decide (c.sentRec < m.freedBy p c + c.nland))

/-- Forward packets while they can be. -/
def forwardChain (p : Part) (d : DomainDesc) (me : Nat) : Nat → Mod → Mod
  | 0, m => m
  | k + 1, m =>
    match (m.part p).chain with
    | none => m
    | some c =>
      let source := me == c.first
      if me == c.last || !m.chainReady p c source then m
      else
        match (mcNext d me c.dir).bind (fun nx => landingAt d nx c.bay) with
        | none => m
        | some (node, dbay) =>
          let body := m.chainBody p c source c.sentRec c.sentPkt
          let m := originate p node dbay kChain 3 (64 * (c.slot c.sentRec + 4096 * c.sentPkt)) (chainLines c.sentPkt - 1) 0
            (((m.part p).bayAt c.bay).getD 0) body m
          let done := c.sentPkt + 1 = chainPackets
          let c := { c with sentRec := if done then c.sentRec + 1 else c.sentRec, sentPkt := if done then 0 else c.sentPkt + 1 }
          forwardChain p d me k (m.updPart p (fun x => { x with chain := some c }))

/-- Landing slots done with, in order: checked here, and forwarded unless this is the last member. -/
def ChainJob.freeNow (c : ChainJob) (last : Bool) : Nat → Nat → Nat
  | 0, n => n
  | k + 1, n =>
    if n < c.foffs.length && c.kept.any (fun e => e.1 == n) && (last || decide (n < c.sentRec)) then c.freeNow last k (n + 1) else n

/-- Raise FREED at the predecessor. -/
def raiseFreed (p : Part) (d : DomainDesc) (me : Nat) (c : ChainJob) (m : Mod) : Mod :=
  match (mcNext d me (turnBack c.dir)).bind (fun k => landingAt d k c.bay) with
  | none => m
  | some (node, dbay) =>
    originate p node dbay kWrite 1 (64 * c.line) 0 0 (((m.part p).bayAt c.bay).getD 0)
      (leBytes 8 c.freed ++ List.replicate 56 0) m

/-- INDEX and status of the records of an install that failed their check, in list order (R353). -/
def ChainJob.failures (c : ChainJob) : List (Nat × Nat) :=
  (sortBy (·.1) c.kept).filterMap (fun e => if e.2.1 = 0 then none else some (e.2.2, e.2.1))

/-- The install of a member has entered or failed, and forwarded, every record: its descriptor completes with the status
of the first that failed, and every failure is reported under its INDEX. -/
def completeChain (p : Part) (c : ChainJob) (m : Mod) : Mod :=
  let m := m.updPart p (fun x => { x with chain := none, tel := { x.tel with installFails := c.failures } })
  finishAt (some c.ring) ((c.failures.head?.map (·.2)).getD hOk) 0 0 (settleDeletes p m)

/-- Move the install of a RUNNING member on. -/
def chainAdvance (p : Part) (m : Mod) : Mod :=
  let x := m.part p
  match x.chain, x.member.desc, m.memberIndex p with
  | some c, some d, some me =>
    if x.member.st != .running then m
    else
      let m := settleDeletes p (forwardChain p d me (chainPackets * (c.foffs.length + 1)) m)
      match (m.part p).chain with
      | none => m
      | some c =>
        if me == c.first then (if me == c.last || c.sentRec = c.foffs.length then completeChain p c m else m)
        else
          let n := c.freeNow (me == c.last) c.foffs.length c.freed
          let c' := { c with freed := n, got := c.got.filter (fun e => decide (n ≤ e.1)) }
          let m := m.updPart p (fun x => { x with chain := some c' })
          let m := if n > c.freed then raiseFreed p d me c' m else m
          if n = c.foffs.length then completeChain p c' m else m
  | _, _, _ => m

/-- Offsets of an install's records. -/
def chainFoffs (m : Mod) (b : Bytes) : List Nat :=
  let n := leAt b 24 4
  let bs := m.hostMem.read (leAt b 16 8) (8 * n)
  (List.range n).map (fun i => leAt (bs.drop (8 * i)) 0 8)

/-- The first check that a chain request fails at this member. -/
def chainRefusal (p : Part) (b : Bytes) (m : Mod) : Option (Nat × Nat) :=
  let x := m.part p
  let model := bodyModel b 48
  let foffs := chainFoffs m b
  match x.member.desc, m.memberIndex p with
  | some d, some me =>
    if x.member.st != .running then some (hOpen 0x15, 0)
    else if leAt b 30 2 ≥ d.members.length then some (hField, 30)
    else if leAt b 32 2 ≥ d.members.length || !onChain d (leAt b 28 1) (leAt b 30 2) (leAt b 32 2) me then some (hField, 32)
    else if x.chain.isSome then some (hLoadBusy, 0)
    else if (x.manifest model).isNone then some (hLoadNoManifest, 0)
    else if (x.keySlot model).isNone then some (hLoadNoKey, 0)
    else if (x.bayAt (leAt b 34 1)).isNone || leAt b 40 4 + 1 + leAt b 29 1 * slotLines > hbmLines then some (hAddrWindow, 0)
    else if foffs.any (fun o => o % pageBytes != 0) then
      some (hLoadEntry, ((foffs.findIdx? (fun o => o % pageBytes != 0)).getD 0) % 65536)
    else if me = leAt b 30 2 then
      (foffs.findIdx? (fun o => !x.ns.any (fun s => s.dir.any (fun r => r.foff == o && r.model == model)))).map
        (fun i => (hLoadEntry, i % 65536))
    else foffs.findSome? (fun o => (stoneWriteRefusal m p o).map (·, 0))
  | _, _ => some (hOpen 0x15, 0)

/-- Start an install at this member, its control line at zero. -/
def startChain (f : Fn) (n : PairId) (p : Part) (b : Bytes) (m : Mod) : OpResult :=
  let c : ChainJob := { ring := ringKey f n m, dir := leAt b 28 1, first := leAt b 30 2, last := leAt b 32 2
                        model := bodyModel b 48, foffs := chainFoffs m b, nland := leAt b 29 1, bay := leAt b 34 1
                        line := leAt b 40 4, keySlot := ((m.part p).keySlot (bodyModel b 48)).getD 0 }
  let bay := ((m.part p).bayAt c.bay).getD 0
  let m := writeBay p bay (.hbm (64 * c.line)) (List.replicate 64 0) m
  .long (chainAdvance p (m.updPart p (fun x => { x with chain := some c })))

def chainInstallDef : HostOp :=
  { op := 0x15, fields := [(16, 8), (24, 4), (28, 1), (29, 1), (30, 2), (32, 2), (34, 1), (40, 4), (48, 8)]
    range := fun _ b => firstBad [(28, leAt b 28 1 > 3), (29, leAt b 29 1 < 2 || leAt b 29 1 > 16)]
    reads := fun _ b => [(leAt b 16 8, 8 * leAt b 24 4)]
    check := fun f b m => (descPart f b).bind (fun p => chainRefusal p b m)
    act := fun f n b m => withPart f b (fun p => startChain f n p b m) m }

def execChainInstall (f : Fn) (n : PairId) (s : State) : Host.Outcome State Fault Refusal := onRing chainInstallDef f n s

/-- A packet that lands in a slot of the install: its record and number. -/
def ChainJob.landed (c : ChainJob) (line : Nat) : Option (Nat × Nat) :=
  if line < c.line + 1 then none
  else
    let s := (line - c.line - 1) / slotLines
    let i := (line - c.line - 1) % slotLines / 4096
    if s ≥ c.nland then none
    else some (c.freed + (s + c.nland - c.freed % c.nland) % c.nland, i)

/-- A CHAIN packet at its destination: written, and noted by the install that it belongs to. -/
def chainAt (p : Part) (q : PortId) (vc : Nat) (pk : Packet) (m : Mod) : Mod :=
  let h := pk.header
  let x := m.part p
  match packetTarget x (pkDbay h) (pkOffset h) pk.body.length with
  | .error _ => fenceDrop q h pk.domain vc m
  | .ok w =>
    let m := writeBay p (pkDbay h) w pk.body (takeShare .inbound (pkDbay h) m)
    match x.chain, w with
    | some c, .hbm a =>
      if x.bayAt c.bay != some (pkDbay h) || m.memberIndex p == some c.first then m
      else
        match c.landed (a / 64) with
        | none => m
        | some e => chainAdvance p (m.updPart p (fun x => { x with chain := some { c with got := c.got ++ [e] } }))
    | _, _ => m

/-- CHAIN (R352). -/
def execChain (q : PortId) (s : State) : Host.Outcome State Fault Refusal :=
  match s.m.partOfPort q, arrived q kChain [3, 4] s.m with
  | some p, some (vc, pk) => .next { s with m := chainAt p q vc pk (popPacket q vc s.m) }
  | _, _ => .next s

/-- WRITE (R286, R287): served, and where it raises FREED of an install, the install goes on. -/
def execWrite (q : PortId) (s : State) : Host.Outcome State Fault Refusal :=
  let m := request q kWrite serveWrite s.m
  match m.partOfPort q with
  | some p => .next { s with m := chainAdvance p m }
  | none => .next { s with m := m }

/-- All packets of a record have landed. -/
def ChainJob.whole (c : ChainJob) (q : Nat) : Bool := (List.range chainPackets).all (fun i => c.got.contains (q, i))

/-- The record of an install at an offset that waits for its check. -/
def ChainJob.waiting (c : ChainJob) (foff : Nat) : Option Nat :=
  (List.range c.foffs.length).find? (fun q => c.foffs[q]? == some foff && c.whole q && !c.kept.any (fun e => e.1 == q))

/-- A record as it lies in its landing slot. -/
def Mod.landedRecord (m : Mod) (p : Part) (c : ChainJob) (q : Nat) : Bytes :=
  match (m.part p).bayAt c.bay with
  | some b => (m.hbm.get (toFin 8 b)).read (64 * c.slot q) recordBytes
  | none => []

/-- The trailer of a landed record. -/
def Mod.landedTrailer (m : Mod) (p : Part) (c : ChainJob) (q : Nat) : Trailer :=
  Trailer.parse (sliceB ((m.landedRecord p c q).drop stoneBytes) 0 36)

/-- Check a landed record and keep it: status, and the namespace. -/
def keepRecord (m : Mod) (p : Part) (c : ChainJob) (q foff : Nat) : Nat × Option Namespace :=
  let x := m.part p
  match x.manifest c.model, x.slotKey c.keySlot, x.ns, x.bayAt c.bay with
  | some f, some key, some ns, some _ =>
    let bs := m.landedRecord p c q
    let t := m.landedTrailer p c q
    match stoneWriteRefusal m p foff with
    | some e => (e, none)
    | none =>
      match checkStone f key (bs.take stoneBytes) t with
      | .error e => (e, none)
      | .ok _ =>
        match (ns.store foff bs).enter foff t with
        | some ns => (0, some ns)
        | none => (hOpen foff, none)
  | none, _, _, _ => (hLoadNoManifest, none)
  | _, none, _, _ => (hLoadNoKey, none)
  | _, _, _, _ => (hAddrWindow, none)

/-- STONE_RECORD_ENTERED (R340, R352): all pages of a record are on flash: that of a host's write, or one that a chain
install received. -/
def execStoneRecordEntered (p : Part) (foff : Nat) (s : State) : Host.Outcome State Fault Refusal :=
  let x := s.m.part p
  if s.hub.power.st != .ready then .next s
  else
    match x.stoneWrites.find? (fun w => w.1 == foff) with
    | some w => .next { s with m := finishStoneWrite p w s.m }
    | none =>
      match x.chain.bind (fun c => (c.waiting foff).map (c, ·)) with
      | none => .next s
      | some (c, q) =>
        if x.member.st != .running then .next s
        else
          let (st, ns) := keepRecord s.m p c q foff
          let kept := c.kept ++ [(q, st, (s.m.landedTrailer p c q).index)]
          let m := s.m.updPart p (fun x => { x with chain := some { c with kept := kept }, ns := ns.or x.ns })
          .next { s with m := chainAdvance p m }

end Sys2Proof.Machine
end

