-- ==== Sys2Proof/Machine/Security.lean ====
section
/-!
DEFINITION. Security (R388, R396 to R409): identity and measurements, the SPDM responder, key messages, the rotation of
tier keys, and the rotation of firmware contexts.
-/
namespace Sys2Proof.Machine

/-! ### Identity (Table SEC-4) -/

def ascii (s : String) : Bytes := s.toList.map (fun c => BitVec.ofNat 8 c.toNat)

/-- The first 32 bytes of a 512-bit digest. -/
def first32 (d : BitVec 512) : BitVec 256 := d.setWidth 256

/-- Seeds of the DeviceID and Alias signing keys. -/
def deviceSeed : BitVec 256 := first32 (Config.sha3d512 (leBytes 64 Config.uds.toNat ++ ascii "DEVICEID"))
def Boot.cdi (b : Boot) : BitVec 512 := Config.sha3d512 (leBytes 64 Config.uds.toNat ++ leBytes 64 b.digest.toNat ++ leBytes 4 b.svn)
def Boot.aliasSeed (b : Boot) : BitVec 256 := first32 (Config.sha3d512 (leBytes 64 b.cdi.toNat ++ ascii "ALIAS"))

/-- The encapsulation key of a partition. -/
def Partition.encapKey (x : Partition) : Bytes := (x.keys.kem.map Config.mlkemPublic).getD []

/-- The signing key of a function: the partition attestation key of a VF, the Alias key of PF0. -/
def Mod.signKey (m : Mod) (hub : Hub) (f : Fn) : BitVec 256 :=
  match partOfFn f with
  | some p => ((m.part p).keys.attest).getD 0
  | none => hub.boot.aliasSeed

/-- Contents of the DeviceID, Alias and partition certificates (Table SEC-4), each with the key that it certifies. -/
def deviceContents (m : Mod) : Bytes :=
  Config.partNumber ++ leBytes 8 Config.serial.toNat ++ leBytes 1 m.stepping ++ leBytes 1 m.option ++ Config.mldsaPublic deviceSeed
def aliasContents (hub : Hub) : Bytes :=
  leBytes 64 hub.boot.digest.toNat ++ leBytes 4 hub.boot.svn ++ Config.mldsaPublic hub.boot.aliasSeed
def partContents (p : Part) (x : Partition) : Bytes :=
  leBytes 1 p.val ++ leBytes 4 x.admissions.toNat ++ leBytes 1 x.bayMask.toNat
    ++ leBytes 64 (Config.sha3d512 x.encapKey).toNat ++ Config.mldsaPublic ((x.keys.attest).getD 0)

/-- The certificates of slot 0 of a function, each with its signature: by the manufacturing CA, by DeviceID, by Alias. -/
def certsOf (m : Mod) (hub : Hub) (f : Fn) : List (Bytes × Bytes) :=
  let d := deviceContents m
  let a := aliasContents hub
  [(d, Config.factorySign d), (a, Config.mldsaSign deviceSeed a)] ++
    (match partOfFn f with
     | none => []
     | some p =>
       let c := partContents p (m.part p)
       [(c, Config.mldsaSign hub.boot.aliasSeed c)])

/-- The certificate chain of slot 0 of a function. -/
def chainOf (m : Mod) (hub : Hub) (f : Fn) : Bytes := Config.certChain (certsOf m hub f)

/-! ### Measurements (R398, Table SEC-6) -/

/-- The module as it stands without the groups that are acting (R398). -/
def Mod.beforeGroups (m : Mod) : Mod :=
  allFns.foldl (fun m f => allPairs.foldl (fun m n =>
    match ((m.func f).pair n).busy with
    | some b => if b.group then undoAll b m else m
    | none => m) m) m

/-- Block 4: the composition of a partition. -/
def compositionBytes (x : Partition) : Bytes :=
  leBytes 1 x.bayMask.toNat ++ leBytes 2 x.power ++ leBytes 4 ((x.ns.map (·.granules)).getD 0)
    ++ ((x.extents).getD []).flatMap (fun e => leBytes 1 e.1 ++ leBytes 2 e.2.1 ++ leBytes 2 e.2.2)
    ++ leBytes 2 x.ttlShare ++ leBytes 4 x.admissions.toNat

/-- What blocks 5 to 9 of a VF digest. -/
def blockBytes (x : Partition) (k : Nat) : Bytes :=
  match k with
  | 5 => x.plans.toList.flatMap (fun i => match i with
      | some b => leBytes 32 (Config.sha3d256 b).toNat
      | none => leBytes 32 0)
  | 6 => x.manifests.flatMap (fun f => leBytes 8 f.model.toNat ++ leBytes 4 f.mver ++ leBytes 64 f.owner.toNat)
  | 7 => x.keys.models.toList.flatMap (fun s => match s.model with
      | some v => leBytes 8 v.toNat ++ leBytes 64 ((s.ownerKey.map (fun k => (Config.sha3d512 k).toNat)).getD 0)
      | none => [])
  | 8 => (match x.member.desc with
      | some d => leBytes 32 (Config.sha3d256 d.raw).toNat
      | none => leBytes 32 0)
      ++ leBytes 32 ((x.member.retained.map (fun r => if r.valid then r.sealDigest.toNat else 0)).getD 0)
  | _ => leBytes 1 x.keys.cur.val
      ++ x.keys.tier.toList.flatMap (fun s => leBytes 1 (if s.isSome then 1 else 0))
      ++ leBytes 1 (if x.keys.rotation.isSome then 1 else 0)

/-- A measurement block of a function, where it has one. -/
def measurement (m : Mod) (hub : Hub) (f : Fn) (k : Nat) : Option (BitVec 512) :=
  let b := hub.boot
  if k = 1 then some Config.romDigest
  else if k = 2 then some (Config.sha3d512 (leBytes 64 b.digest.toNat ++ leBytes 4 b.svn ++ leBytes 4 b.svnMin))
  else if k = 3 then
    some (Config.sha3d512 (leBytes 1 m.stepping ++ leBytes 1 m.option ++ leBytes 64 Config.fusedKeyDigest.toNat
      ++ leBytes 4 b.svnMin ++ leBytes 1 b.raises))
  else
    match partOfFn f with
    | none =>
      if 16 ≤ k && k < 24 then some (Config.sha3d512 (compositionBytes (m.part (toFin 8 (k - 16))))) else none
    | some p =>
      if k = 4 then some (Config.sha3d512 (compositionBytes (m.part p)))
      else if 5 ≤ k && k ≤ 9 then some (Config.sha3d512 (blockBytes (m.part p) k))
      else none

/-- Measurement indices of a function, ascending. -/
def measurementList (f : Fn) : List Nat := if f = pf0 then [1, 2, 3] ++ span 16 23 else span 1 9

/-! ### The SPDM responder (R397, Table SEC-5)

The message forms are those of SPDM 1.3, which the spec names and does not reproduce. -/

def spdmVersion : Nat := 0x13

/-- An SPDM response: code and parameters, then its fields. -/
def spdmMsg (code p1 p2 : Nat) (body : Bytes) : Bytes := leBytes 1 spdmVersion ++ leBytes 1 code ++ leBytes 1 p1 ++ leBytes 1 p2 ++ body

/-- An ERROR response. -/
def spdmError (code : Nat) : Bytes := spdmMsg 0x7F code 0 []
def errInvalid : Nat := 0x01
def errBusy : Nat := 0x03
def errUnexpected : Nat := 0x04
def errUnsupported : Nat := 0x07
def errLarge : Nat := 0x0F

/-- Bytes of a message in one transfer (Table SEC-5). -/
def transferBytes : Nat := 4096

def msgVersion (msg : Bytes) : Nat := leAt msg 0 1
def msgCode (msg : Bytes) : Nat := leAt msg 1 1

/-- Change the connection of a function. -/
def updSpdm (f : Fn) (g : Spdm → Spdm) (m : Mod) : Mod := m.updFunc f (fun x => { x with spdm := g x.spdm })

/-- Answer a request: both enter the transcript. A response beyond one transfer is kept for CHUNK_GET, and the answer says
so. -/
def answer (f : Fn) (msg resp : Bytes) (m : Mod) : Mod :=
  updSpdm f (fun c =>
    let c := { c with transcript := c.transcript ++ msg ++ resp }
    if resp.length ≤ transferBytes then { c with response := resp, chunkOut := none }
    else { c with response := spdmMsg 0x7F errLarge 0 [0], chunkOut := some (0, resp) }) m

/-- Answer with an error, which enters no transcript. -/
def answerError (f : Fn) (code : Nat) (m : Mod) : Mod := updSpdm f (fun c => { c with response := spdmError code }) m

/-- GET_VERSION: 1.3 alone; the connection begins afresh. -/
def spdmGetVersion (f : Fn) (msg : Bytes) (m : Mod) : Mod :=
  answer f msg (leBytes 1 0x10 ++ leBytes 1 0x04 ++ leBytes 2 0 ++ leBytes 2 0x0100 ++ leBytes 2 0x1300)
    (updSpdm f (fun _ => { version := true }) m)

/-- CAPABILITIES: CERT, CHAL, MEAS with signature, MEAS_FRESH and CHUNK, and the sizes of Table SEC-5. -/
def capabilityFlags : Nat := 2 ^ 1 + 2 ^ 2 + 2 ^ 4 + 2 ^ 5 + 2 ^ 17

def spdmGetCapabilities (f : Fn) (msg : Bytes) (m : Mod) : Mod :=
  answer f msg (spdmMsg 0x61 0 0 (sliceB (Config.spdmFields 0xE1 msg) 0 4 ++ leBytes 4 capabilityFlags ++ leBytes 4 4096
    ++ leBytes 4 65536)) (updSpdm f (fun c => { c with caps := true }) m)

def spdmAlgorithms (f : Fn) (msg : Bytes) (m : Mod) : Mod :=
  answer f msg (spdmMsg 0x63 0 0 (Config.spdmFields 0xE3 msg)) (updSpdm f (fun c => { c with algs := true }) m)

def spdmDigests (hub : Hub) (f : Fn) (msg : Bytes) (m : Mod) : Mod :=
  answer f msg (spdmMsg 0x01 0 1 (leBytes 64 (Config.sha3d512 (chainOf m hub f)).toNat)) m

/-- GET_CERTIFICATE: a part of the chain of slot 0. -/
def spdmCertificate (hub : Hub) (f : Fn) (msg : Bytes) (m : Mod) : Mod :=
  let chain := chainOf m hub f
  let o := leAt msg 4 2
  let n := min (leAt msg 6 2) (chain.length - o)
  if leAt msg 2 1 ≠ 0 || (o ≥ chain.length && o ≠ 0) then answerError f errInvalid m
  else answer f msg (spdmMsg 0x02 0 0 (leBytes 2 n ++ leBytes 2 (chain.length - o - n) ++ (chain.drop o).take n)) m

/-- A fresh nonce. -/
def nonce (m : Mod) : Bytes := leBytes 32 (random256 m.free).toNat

/-- A response that ends with a signature over the transcript. -/
def answerSigned (hub : Hub) (f : Fn) (msg body : Bytes) (m : Mod) : Mod :=
  let signed := (m.func f).spdm.transcript ++ msg ++ body
  answer f msg (body ++ Config.mldsaSign (m.signKey hub f) signed) { m with free := m.free + 1 }

/-- CHALLENGE: signed with the partition attestation key of a VF, with the Alias key of PF0. -/
def spdmChallenge (hub : Hub) (f : Fn) (msg : Bytes) (m : Mod) : Mod :=
  if leAt msg 2 1 ≠ 0 then answerError f errInvalid m
  else
    answerSigned hub f msg (spdmMsg 0x03 0 1 (leBytes 64 (Config.sha3d512 (chainOf m hub f)).toNat ++ nonce m
      ++ Config.spdmFields 0x83 msg)) m

/-- A measurement block as SPDM carries it. -/
def blockRecord (k : Nat) (d : BitVec 512) : Bytes := leBytes 1 k ++ leBytes 1 1 ++ leBytes 2 67 ++ leBytes 1 0 ++ leBytes 2 64 ++ leBytes 64 d.toNat

/-- GET_MEASUREMENTS: the count, one block or all, signed where asked. -/
def spdmMeasurements (hub : Hub) (f : Fn) (msg : Bytes) (m : Mod) : Mod :=
  let g := m.beforeGroups
  let op := leAt msg 3 1
  let list := measurementList f
  let asked := if op = 0 then [] else if op = 0xFF then list else list.filter (· == op)
  let blocks := asked.filterMap (fun k => (measurement g hub f k).map (blockRecord k))
  let bytes := blocks.flatMap id
  let body := spdmMsg 0x60 (if op = 0 then list.length else 0) 0
    (leBytes 1 blocks.length ++ leBytes 3 bytes.length ++ bytes ++ nonce m ++ leBytes 2 0)
  if op ≠ 0 && asked.isEmpty then answerError f errInvalid m
  else if leAt msg 2 1 % 2 = 1 then answerSigned hub f msg body m
  else answer f msg body { m with free := m.free + 1 }

/-! ### Key messages (R401 to R407) -/

def kBadFormat : Nat := 1
def kAdmitMismatch : Nat := 2
def kUnwrapFailed : Nat := 3
def kSeqStale : Nat := 4
def kSlotBusy : Nat := 5
def kRotateBusy : Nat := 6
def kNotAdmitted : Nat := 7

/-- A load or a chain install uses a model slot. -/
def Partition.keyInUse (x : Partition) (slot : Fin 8) : Bool :=
  x.load.any (fun l => l.keySlot == slot) || x.chain.any (fun c => c.keySlot == slot)

/-- The key that a package wraps, where its tag verifies (R402). -/
def unwrapKey (kem : BitVec 512) (b : Bytes) : Option Bytes :=
  let aad := sliceB b 0 32
  let ss := Config.mlkemDecaps kem (sliceB b 32 1568)
  let kek := first32 (Config.sha3d512 (leBytes 32 ss.toNat ++ aad))
  let body := b.drop 1616
  if Config.gcmTag kek 0 aad body == BitVec.ofNat 128 (leAt b 1600 16) then
    some (sliceB (Config.gcmDecrypt kek 0 aad body) 0 body.length) else none

/-- The form of a package. -/
def packageForm (b : Bytes) : Bool :=
  let t := leAt b 0 1
  ((t == 1 && b.length == 1648) || (t == 2 && b.length == 4208)) && decide (leAt b 1 1 < 8)
    && allZero (sliceB b 2 2) && allZero (sliceB b 20 12)

/-- KEY_PUT (R403): the status, and the keys where it is accepted. -/
def putKey (x : Partition) (b : Bytes) : Nat × Keys :=
  let k := x.keys
  let slot := k.models.get (toFin 8 (leAt b 1 1))
  let model := BitVec.ofNat 64 (leAt b 8 8)
  let seq := leAt b 16 4
  if !packageForm b then (kBadFormat, k)
  else if BitVec.ofNat 32 (leAt b 4 4) ≠ x.admissions then (kAdmitMismatch, k)
  else if k.maxSeq.any (fun s => seq ≤ s) then (kSeqStale, k)
  else
    match k.kem.bind (fun s => unwrapKey s b) with
    | none => (kUnwrapFailed, k)
    | some key =>
      if (slot.model.isSome && slot.model != some model) || x.keyInUse (toFin 8 (leAt b 1 1)) then (kSlotBusy, k)
      else
        let slot := if leAt b 0 1 = 1 then { slot with model := some model, stoneKey := some (BitVec.ofNat 256 (leNat key)) }
          else { slot with model := some model, ownerKey := some key }
        (0, { k with models := k.models.set! (leAt b 1 1) slot, maxSeq := some seq })

/-- KEY_DROP (R404). -/
def dropKey (x : Partition) (b : Bytes) : Nat × Keys :=
  let k := x.keys
  let n := leAt b 0 1
  if b.length ≠ 1 || n ≥ 8 then (kBadFormat, k)
  else if x.keyInUse (toFin 8 n) then (kSlotBusy, k)
  else (0, { k with models := k.models.set! n {} })

/-- TIER_ROTATE (R407, R414): pages that tier moves have taken up are written under the old CUR; then the new key is CUR
and the pass begins. -/
def rotateTier (p : Part) (m : Mod) : Nat × Mod :=
  let other : Fin 2 := (m.part p).keys.cur + 1
  if ((m.part p).keys.tier.get other).isSome then (kRotateBusy, m)
  else
    let m := takeUpMoves p m
    let k := (m.part p).keys
    let slot : TierSlot := { key := random256 m.free, wcount := 0, pages := 0 }
    let k := { k with tier := k.tier.set other.val (some slot) other.isLt, cur := other
                      rotation := some { pos := 0, stalled := [] } }
    let m := { m.updPart p (fun x => { x with keys := k }) with free := m.free + 1 }
    (0, retirePrev p m)

/-- The fields of KEY_STATUS: model slots, then the tier. -/
def keyStatus (k : Keys) : Bytes :=
  k.models.toList.flatMap (fun s => leBytes 8 ((s.model.map (·.toNat)).getD 0) ++ leBytes 1 (if s.model.isSome then 1 else 0))
    ++ leBytes 1 k.cur.val ++ k.tier.toList.flatMap (fun s => leBytes 8 ((s.map (·.pages)).getD 0))
    ++ leBytes 8 ((k.rotation.map (·.pos)).getD 0) ++ leBytes 4 ((k.rotation.map (·.stalled.length)).getD 0)

/-- A key message of a partition: its payload, code first; the payload of the answer. -/
def keyMessage (p : Part) (b : Bytes) (m : Mod) : Bytes × Mod :=
  let x := m.part p
  let set (r : Nat × Keys) : Bytes × Mod := (leBytes 1 r.1, m.updPart p (fun x => { x with keys := r.2 }))
  match leAt b 0 1 with
  | 1 => (leBytes 1 0 ++ leBytes 4 x.admissions.toNat ++ sliceB x.encapKey 0 1568, m)
  | 2 => set (putKey x (b.drop 1))
  | 3 => set (dropKey x (b.drop 1))
  | 4 =>
    let (st, m) := rotateTier p m
    (leBytes 1 st ++ leBytes 1 (m.part p).keys.cur.val, m)
  | 5 => (leBytes 1 0 ++ keyStatus x.keys, m)
  | _ => (leBytes 1 kBadFormat, m)

/-- The payload of a VENDOR_DEFINED_REQUEST. -/
def vendorPayload (msg : Bytes) : Bytes := msg.drop (9 + leAt msg 6 1)

/-- The VENDOR_DEFINED_RESPONSE that carries a payload, under the identifiers of its request. -/
def vendorResponse (msg payload : Bytes) : Bytes :=
  spdmMsg 0x7E 0 0 ((msg.drop 4).take (3 + leAt msg 6 1) ++ leBytes 2 payload.length ++ payload)

/-- A VENDOR_DEFINED_REQUEST is a key message: under the PCI-SIG standard ID and the vendor ID of the module, with a code
of Table SEC-8 (R401). -/
def keyRequest (msg : Bytes) : Bool :=
  leAt msg 4 2 == 3 && leAt msg 6 1 == 2 && leAt msg 7 2 == Config.vendorId.toNat && decide (1 ≤ leAt (vendorPayload msg) 0 1)
    && decide (leAt (vendorPayload msg) 0 1 ≤ 5)

/-- A key message at a function: PF0 refuses all. Any other is not supported (R397). -/
def spdmVendor (f : Fn) (msg : Bytes) (m : Mod) : Mod :=
  if !keyRequest msg then answerError f errUnsupported m
  else
  match partOfFn f with
  | none => answer f msg (vendorResponse msg (leBytes 1 kNotAdmitted)) m
  | some p =>
    let (r, m) := keyMessage p (vendorPayload msg) m
    answer f msg (vendorResponse msg r) m

/-! ### One request -/

/-- Requests that Table SEC-5 supports, apart from chunks. -/
def supportedCode (c : Nat) : Bool := [0x81, 0x82, 0x83, 0x84, 0xE0, 0xE1, 0xE3, 0xFE].contains c

/-- Answer a whole request other than a chunk. -/
def spdmRequest (hub : Hub) (f : Fn) (msg : Bytes) (m : Mod) : Mod :=
  let c := (m.func f).spdm
  let code := msgCode msg
  if !m.fnLive f then answerError f errBusy m
  else if !supportedCode code || (code ≠ 0x84 && msgVersion msg ≠ spdmVersion) then answerError f errUnsupported m
  else if code = 0x84 then spdmGetVersion f msg m
  else if !c.version then answerError f errUnexpected m
  else if code = 0xE1 then spdmGetCapabilities f msg m
  else if !c.caps then answerError f errUnexpected m
  else if code = 0xE3 then spdmAlgorithms f msg m
  else if !c.algs then answerError f errUnexpected m
  else if code = 0x81 then spdmDigests hub f msg m
  else if code = 0x82 then spdmCertificate hub f msg m
  else if code = 0x83 then spdmChallenge hub f msg m
  else if code = 0xE0 then spdmMeasurements hub f msg m
  else spdmVendor f msg m

/-- CHUNK_SEND: gather a request too large for one transfer; its last chunk brings the answer. -/
def spdmChunkSend (hub : Hub) (f : Fn) (msg : Bytes) (m : Mod) : Mod :=
  let c := (m.func f).spdm
  let seq := leAt msg 4 2
  let size := leAt msg 8 4
  let data := (msg.drop (if seq = 0 then 16 else 12)).take size
  let sofar := if seq = 0 then some [] else
    match c.chunkIn with
    | some (k, b) => if k = seq then some b else none
    | none => none
  match sofar with
  | none => answerError f errInvalid m
  | some b =>
    let all := b ++ data
    if all.length > 65536 then answerError f errInvalid m
    else
      let ack (resp : Bytes) : Bytes := spdmMsg 0x05 0 (leAt msg 3 1) (leBytes 2 seq ++ resp)
      if leAt msg 2 1 % 2 = 0 then updSpdm f (fun c => { c with chunkIn := some (seq + 1, all), response := ack [] }) m
      else
        let m := spdmRequest hub f all (updSpdm f (fun c => { c with chunkIn := none }) m)
        updSpdm f (fun c => { c with response := ack c.response }) m

/-- Bytes of a response that one transfer carries beside the chunk's own fields. -/
def chunkRoom : Nat := transferBytes - 16

/-- CHUNK_GET: the next part of a response too large for one transfer. -/
def spdmChunkGet (f : Fn) (msg : Bytes) (m : Mod) : Mod :=
  let c := (m.func f).spdm
  let seq := leAt msg 4 2
  let whole := (c.chunkOut.map (·.2)).getD []
  let part := (whole.drop (chunkRoom * seq)).take chunkRoom
  let last := whole.length ≤ chunkRoom * (seq + 1)
  if whole.isEmpty || (seq ≠ 0 && part.isEmpty) then answerError f errInvalid m
  else
    let resp := spdmMsg 0x06 (if last then 1 else 0) (leAt msg 3 1)
      (leBytes 2 seq ++ leBytes 2 0 ++ leBytes 4 part.length ++ (if seq = 0 then leBytes 4 whole.length else []) ++ part)
    updSpdm f (fun c => { c with response := resp, chunkOut := if last then none else some (seq + 1, whole) }) m

/-- A DOE request of one code: answered in READY. -/
def onDoe (code : Nat) (_f : Fn) (msg : Bytes) (g : Mod → Mod) (s : State) : Host.Outcome State Fault Refusal :=
  if s.hub.power.st != .ready || msgCode msg ≠ code then .next s
  else if code ≠ 0x84 && msgVersion msg ≠ spdmVersion then .next s
  else .next { s with m := g s.m }

/-- A request that `spdmRequest` answers. -/
def onSpdm (code : Nat) (f : Fn) (msg : Bytes) (s : State) : Host.Outcome State Fault Refusal :=
  onDoe code f msg (spdmRequest s.hub f msg) s

def execGetVersion (f : Fn) (msg : List Byte) (s : State) : Host.Outcome State Fault Refusal := onSpdm 0x84 f msg s
def execGetCapabilities (f : Fn) (msg : List Byte) (s : State) : Host.Outcome State Fault Refusal := onSpdm 0xE1 f msg s
def execNegotiateAlgorithms (f : Fn) (msg : List Byte) (s : State) : Host.Outcome State Fault Refusal := onSpdm 0xE3 f msg s
def execGetDigests (f : Fn) (msg : List Byte) (s : State) : Host.Outcome State Fault Refusal := onSpdm 0x81 f msg s
def execGetCertificate (f : Fn) (msg : List Byte) (s : State) : Host.Outcome State Fault Refusal := onSpdm 0x82 f msg s
def execChallenge (f : Fn) (msg : List Byte) (s : State) : Host.Outcome State Fault Refusal := onSpdm 0x83 f msg s
def execGetMeasurements (f : Fn) (msg : List Byte) (s : State) : Host.Outcome State Fault Refusal := onSpdm 0xE0 f msg s

/-- A chunk at a connection whose algorithms are settled; a VF without partition answers Busy. -/
def chunkAt (f : Fn) (g : Mod → Mod) (m : Mod) : Mod :=
  if !m.fnLive f then answerError f errBusy m
  else if !(m.func f).spdm.algs then answerError f errUnexpected m
  else g m

def execChunkSend (f : Fn) (msg : List Byte) (s : State) : Host.Outcome State Fault Refusal :=
  onDoe 0x85 f msg (chunkAt f (spdmChunkSend s.hub f msg)) s

def execChunkGet (f : Fn) (msg : List Byte) (s : State) : Host.Outcome State Fault Refusal :=
  onDoe 0x86 f msg (chunkAt f (spdmChunkGet f msg)) s

/-- UNSUPPORTED_REQUEST: any other code or version, or a vendor-defined request that is no key message; a VF without partition answers Busy. -/
def execUnsupportedRequest (f : Fn) (msg : List Byte) (s : State) : Host.Outcome State Fault Refusal :=
  let known := (supportedCode (msgCode msg) && (msgCode msg != 0xFE || keyRequest msg)) || msgCode msg == 0x85 || msgCode msg == 0x86
  if s.hub.power.st != .ready || (known && (msgCode msg == 0x84 || msgVersion msg == spdmVersion)) then .next s
  else .next { s with m := answerError f (if s.m.fnLive f then errUnsupported else errBusy) s.m }

/-- A key message: a whole VENDOR_DEFINED_REQUEST whose payload begins with a code of Table SEC-8. -/
def onKey (code : Nat) (f : Fn) (msg : Bytes) (s : State) : Host.Outcome State Fault Refusal :=
  if !keyRequest msg || leAt (vendorPayload msg) 0 1 ≠ code then .next s else onSpdm 0xFE f msg s

def execEncapGet (f : Fn) (msg : List Byte) (s : State) : Host.Outcome State Fault Refusal := onKey 1 f msg s
def execKeyPut (f : Fn) (msg : List Byte) (s : State) : Host.Outcome State Fault Refusal := onKey 2 f msg s
def execKeyDrop (f : Fn) (msg : List Byte) (s : State) : Host.Outcome State Fault Refusal := onKey 3 f msg s
def execTierRotate (f : Fn) (msg : List Byte) (s : State) : Host.Outcome State Fault Refusal := onKey 4 f msg s
def execKeyStatus (f : Fn) (msg : List Byte) (s : State) : Host.Outcome State Fault Refusal := onKey 5 f msg s

/-! ### The re-encryption pass (R406, R408, R409) -/

/-- A page whose check fails during the pass stays under PREV, and the count is reported. -/
def stallPage (p : Part) (r : Rotation) (m : Mod) : Mod :=
  let r' : Rotation := { pos := r.pos + 1, stalled := r.stalled ++ [r.pos] }
  let m := m.updPart p (fun x => { x with keys := { x.keys with rotation := some r' } })
  let m := m.updFunc (vfOf p) (fun f => { f with stalled := r'.stalled.length })
  postEvent (vfOf p) evRotationStalled m

/-- REENCRYPTION_PAGE: the pass takes the next page of the window. -/
def execReencryptionPage (p : Part) (s : State) : Host.Outcome State Fault Refusal :=
  let x := s.m.part p
  match x.keys.rotation, x.extents with
  | some r, some es =>
    match locatePage es r.pos with
    | none => .next s
    | some (q, n) =>
      if s.hub.power.st != .ready then .next s
      else
        let move (m : Mod) : Mod := m.updPart p (fun x =>
          { x with keys := { x.keys with rotation := some { r with pos := r.pos + 1 } } })
        if pageEpoch (s.m.cxl.get q) n = x.keys.cur && (s.m.cxl.get q).good then .next { s with m := move s.m }
        else
          match readPage s.m p q n with
          | .ok bs => .next { s with m := move (writePage p r.pos q n bs s.m) }
          | .error _ => .next { s with m := stallPage p r s.m }
  | _, _ => .next s

/-- A page moves from the count of one tier slot to that of another. -/
def movePage (old new : Fin 2) (k : Keys) : Keys :=
  let add (i : Fin 2) (g : Nat → Nat) (k : Keys) : Keys :=
    { k with tier := k.tier.set i.val ((k.tier.get i).map (fun s => { s with pages := g s.pages })) i.isLt }
  add new (· + 1) (add old (· - 1) k)

/-- TIER_PAGE_ACK (R406, R409): the device has acknowledged the oldest unacknowledged write of a page. -/
def execTierPageAck (p : Part) (page : Nat) (s : State) : Host.Outcome State Fault Refusal :=
  match (s.m.part p).keys.pendingAck.find? (fun e => e.1 == page) with
  | none => .next s
  | some e =>
    let m := s.m.updPart p (fun x =>
      let k := movePage e.2.1 e.2.2 x.keys
      { x with keys := { k with
          pendingAck := removeFirst (fun a => a.1 == page) k.pendingAck
          rotation := k.rotation.map (fun r => { r with stalled := r.stalled.filter (· != page) }) } })
    .next { s with m := retirePrev p m }

/-! ### Firmware contexts (R388) -/

/-- End of each slice of the rotation, in ns of its period of 100 us. -/
def sliceEnd (slot : Nat) : Nat :=
  match slot with
  | 0 => us 40
  | 1 => us 80
  | _ => us 100

/-- The slot of the rotation at a time of the always-on domain: the rotation never changes (R388). -/
def sliceAt (t : Nat) : Nat := if t % us 100 < us 40 then 0 else if t % us 100 < us 80 then 1 else 2

/-- Time until the end of the slice at a time. -/
def sliceLeft (t : Nat) : Nat := sliceEnd (sliceAt t) - t % us 100

/-- The slice that begins is that of a partition context, which takes its messages from the mailbox, or of the module
context (R388, R391). -/
def beginSlice (core : Fin 4) (slot : Nat) (m : Mod) : Mod := if slot < 2 then takeMail (toFin 8 (2 * core.val + slot)) m else m

/-- CONTEXT_SLICE: a core's present slice ends and the next context of its rotation begins. Where the rotation has moved on
already, the core follows it. -/
def execContextSlice (core : Fin 4) (s : State) : Host.Outcome State Fault Refusal :=
  if s.hub.power.st != .ready then .next s
  else
    let t := s.m.wall - s.m.aonAt
    let m := if sliceAt t = s.hub.slices.get core then advance (sliceLeft t) s.m else s.m
    let slot := sliceAt (m.wall - m.aonAt)
    .next { s with m := beginSlice core slot m, hub := { s.hub with slices := s.hub.slices.set core.val slot core.isLt } }

end Sys2Proof.Machine
end

