-- ==== Sys2Proof/Machine/Off.lean ====
section
/-!
DEFINITION. What the always-on domain reports of the power state (R415, R466), and the way to OFF (R399, R419, R420).
-/
namespace Sys2Proof.Machine

/-! ### STATE (R415, R466) -/

/-- STATE as Table PHY-5 codes it. -/
def Hub.stateCode (h : Hub) (m : Mod) : Nat :=
  match h.power.st with
  | .off => 0
  | .standby => 1
  | .ready => m.runState
  | .startup => 5
  | .recovery => 6

/-- An in-band interrupt with STATE. -/
def sendIbi (st : Nat) (m : Mod) : Mod :=
  { m with regs := { m.regs with shown := st, ibi := m.regs.ibi ++ [BitVec.ofNat 8 st] } }

/-- Report what a row has changed of STATE or FAULT, and of THERMAL_STEP. -/
def reportHub (old : Hub) (s : State) : State :=
  let st := s.hub.stateCode s.m
  let m := if s.m.regs.shown ≠ st || old.power.fault ≠ s.hub.power.fault then sendIbi st s.m else s.m
  let m := if old.power.thermStep ≠ s.hub.power.thermStep then sendIbi st m else m
  { s with m := m }

/-- Change the fast-clock state. -/
def Hub.setClock (h : Hub) (c : ClockSt) (wall : Nat) : Hub := { h with clock := c, clockSince := wall }

/-! ### OFF (R399, R419, R420) -/

/-- What a port keeps: its user calibration (Table OPS-5). -/
def Port.kept (x : Port) : Port := { txLanes := x.txLanes, rxLanes := x.rxLanes, latency := x.latency }

/-- What is kept of a partition: its flash namespace with its records, and the flash key as flash has it, wrapped. -/
def Partition.kept (x : Partition) : Partition :=
  { ns := x.ns.map (fun s => { s with dir := s.dir.map (fun d => { d with deleting := none }) }), wrapped := x.wrapped }

/-- Power is removed from every unit outside the always-on domain (Table OPS-3). The marks of rows due are kept, and not
the scrub corrections that have not yet made one due (R433). -/
def powerDown (m : Mod) : Mod :=
  { wall := m.wall, aonAt := m.aonAt, stepping := m.stepping, option := m.option, cal := { m.cal with scrubFixes := [] }
    regs := { straps := m.regs.straps, ibi := m.regs.ibi, shown := m.regs.shown
              replCause := m.regs.replCause, replPort := m.regs.replPort }
    parts := m.parts.map Partition.kept, cxl := m.cxl, flashWorn := m.flashWorn, ports := m.ports.map Port.kept
    funcs := m.funcs.map freshFunc, hostUp := m.hostUp, ringsLost := m.ringsLost, hostMem := m.hostMem
    hostBad := m.hostBad, free := m.free }

/-- A load or an install of a partition ends with LOAD_ABORTED (R347, R353). -/
def abortMoves (m : Mod) (p : Part) : Mod :=
  let m := match (m.part p).load with
    | some l => finishAt (some l.ring) hLoadAborted 0 0 (m.updPart p (fun x => { x with load := none }))
    | none => m
  endChain p m

/-- Post what the rings have to post. -/
def postRings (m : Mod) : Mod := allFns.foldl (fun m f => allPairs.foldl (fun m n => postAllEntries f n m) m) m

/-- A loss of power in the instant in which the boot area is being written may cut the write short (R394). -/
def Boot.cutShort (b : Boot) (fault wall : Nat) : Option Nat :=
  if fault ≠ 0 && b.wroteAt == some wall && Config.tornWrite wall then some wall else b.torn

/-- Steps 4 to 6 of R419: the module is OFF with a cause, 0 where a command asked for it. DESIGN CHOICE (log 136): the fast
clock leaves ACQUIRING too for OFF, an exit that Table TIM-1 lists of LOCKED and HOLDOVER alone. -/
def enterOff (fault : Nat) (s : State) : State :=
  let b := s.hub.boot
  let p := s.hub.power
  { s with
    m := powerDown (postRings (allParts.foldl abortMoves s.m))
    hub := { s.hub.setClock .off s.m.wall with
      resync := false, sync := none
      boot := { area := b.area, svnMin := b.svnMin, raises := b.raises, torn := b.cutShort fault s.m.wall }
      modCtx := {}
      power := { fault := fault, latched := p.latched, cmdErr := p.cmdErr, block := p.block, dynAddr := p.dynAddr
                 input := p.input, samples := p.samples, thermStep := p.thermStep, zeroRun := p.zeroRun } } }

def cShutdown : Nat := 0x0034

/-- Teardowns that OFF waits for. -/
def Mod.tearing (m : Mod) : Bool := m.parts.toList.any (fun x => x.member.st == .teardown)

/-- Steps 1 and 2 of R419: the notice is posted, and every domain of the module fails with SHUTDOWN. -/
def shutNotice (m : Mod) : Mod := allParts.foldl (fun m p => failOwn p cShutdown m) (postAll evShutdown (mailAll .shutdown m))

/-- Go OFF on command: up to 12 ms for the teardowns. -/
def goOff (s : State) : State :=
  if s.hub.power.leaving.isSome then s
  else
    let m := shutNotice s.m
    if m.tearing then
      { s with m := m, hub := { s.hub with power := { s.hub.power with leaving := some (m.wall + ms 12), result := 5 } } }
    else enterOff 0 { s with m := m }

/-- Go OFF by an input fault, a critical temperature or a leak: no wait. -/
def dropOff (fault : Nat) (s : State) : State :=
  if s.hub.power.leaving.isSome then enterOff fault s else enterOff fault { s with m := shutNotice s.m }

/-- A module that is going OFF is there once its teardowns are over, or after 12 ms: as a cycle ends. -/
def settleOff (s : State) : State :=
  match s.hub.power.leaving with
  | none => s
  | some w => if s.m.wall < w && s.m.tearing then s else reportHub s.hub (enterOff 0 s)

/-- TEARDOWN_COMPLETE (R299): the member enters IDLE; a module that goes OFF waits for it (R419). -/
def execTeardownComplete (p : Part) (s : State) : Host.Outcome State Fault Refusal :=
  if (s.m.part p).member.st != .teardown || !s.m.tornDown p then .next s
  else .next (settleOff { s with m := endTeardown p s.m })

/-- TEARDOWN_TIMEOUT (R299): a domain port that has not drained 12 ms after entry to TEARDOWN is taken to DOWN. -/
def execTeardownTimeout (p : Part) (q : PortId) (s : State) : Host.Outcome State Fault Refusal :=
  if (s.m.part p).member.st != .teardown || !s.m.isDomainPort p q then .next s
  else .next (settleOff { s with m := forceDrain p q s.m })

/-- A row of the hub meets a module whose way to OFF is over as OFF. -/
def settled (row : State → Host.Outcome State Fault Refusal) (s : State) : Host.Outcome State Fault Refusal :=
  row (settleOff s)

/-- The effect of a row of the hub, and the interrupt. -/
def onHub (g : State → State) (s : State) : Host.Outcome State Fault Refusal :=
  .next (settleOff (reportHub s.hub (g s)))

end Sys2Proof.Machine
end

