-- ==== Sys2Proof/Machine/Clock.lean ====
section
/-!
DEFINITION. The fast clock and its counter (R31 to R36, R58 to R61), and the wake from STANDBY.
-/
namespace Sys2Proof.Machine

/-! ### The clock (Table TIM-1) -/

/-- Loss of lock (R35, R412): every running plan stops with LOCK_LOST, the domains of the module fail, and the loss is
posted. A PREPARED member keeps the loss, and fails for it as it commits (R61; DEDUCED, log 128). -/
def loseLock (m : Mod) : Mod :=
  postAll evLockLost (allParts.foldl (fun m p =>
    match (m.part p).member.st with
    | .running => failNode p cLockLost 0 0 m
    | .prepared => updMember p (fun y => { y with unlocked := true }) m
    | _ => failOwn p cLockLost m) m)

/-- LOCKED to HOLDOVER. -/
def enterHoldover (s : State) : State :=
  { s with hub := { s.hub.setClock .holdover s.m.wall with resync := true }, m := loseLock s.m }

/-- HOLDOVER_ENTRY (R35). A timing root has no recovery lane. -/
def execHoldoverEntry (why : ClockLoss) (s : State) : Host.Outcome State Fault Refusal :=
  settled (fun s =>
    if s.hub.clock != .locked || (why == .noSymbol && s.m.timingRoot) then .next s else onHub enterHoldover s) s

/-- HOLDOVER_EXIT (R34): the reference has been valid for 100 us. -/
def execHoldoverExit (s : State) : Host.Outcome State Fault Refusal :=
  settled (fun s =>
    if s.hub.clock != .holdover then .next s
    else
      let m := advanceWall (s.hub.clockSince + us 100) s.m
      .next { s with hub := s.hub.setClock .acquiring m.wall, m := m }) s

/-! ### READY after STANDBY (R60, R418) -/

/-- Every ring fetches what is visible. -/
def serveRings (m : Mod) : Mod := allFns.foldl (fun m f => allPairs.foldl (fun m n => intakeAll f n m) m) m

/-- READY is reached: TTL expiries and doorbells that waited take effect (R332, R418, R437). -/
def finishWake (s : State) : State :=
  let p := s.hub.power
  let m := serveRings (p.doorbells.foldl (fun m d => doorbell (toFin 9 d.1) d.2 m) (expireAll s.m))
  let power := { p with st := .ready, waking := false, doorbells := [], result := if p.result = 5 then 1 else p.result }
  { s with hub := { s.hub with power := power, resync := false }, m := m }

/-- The module waits in a wake for its counter sync, or has one outstanding after a loss of lock. -/
def Hub.awaitsSync (h : Hub) : Bool :=
  h.clock == .locked && ((h.power.st == .standby && h.power.waking) || (h.power.st == .ready && h.resync))

/-- The latency of the parent port in cycles. -/
def Mod.parentLatency (m : Mod) : Nat := (m.port (toFin 16 (fld m.regs.clk.active 4 1))).latency.getD 0

/-- A counter sync that succeeds with the parent's value (R60): the value plus the link latency is loaded. -/
def takeSync (v : Nat) (s : State) : State :=
  let s := { s with hub := { s.hub with sync := some (v + s.m.parentLatency, s.m.wall), resync := false } }
  if s.hub.power.st == .standby then finishWake s else s

/-- COUNTER_SYNC (R60, R61). One that fails leaves the module out of READY, or out of new jobs, until one succeeds. -/
def execCounterSync (value : Option Nat) (s : State) : Host.Outcome State Fault Refusal :=
  settled (fun s =>
    if !s.hub.awaitsSync || s.m.timingRoot then .next s
    else
      match value with
      | none => .next { s with hub := { s.hub with resync := true } }
      | some v => onHub (takeSync v) s) s

/-- What follows LOCKED: step 4 of start-up has ended; a timing root that wakes reaches READY. -/
def afterLock (s : State) : State :=
  let h := s.hub
  if h.power.st == .startup && h.power.step = 3 then { s with hub := { h with power := { h.power with step := 4 } } }
  else if h.power.st == .standby && h.power.waking && s.m.timingRoot then finishWake s
  else s

/-- CLOCK_LOCKED (R34): the phase error has stayed within 8 ps for 10 us. -/
def execClockLocked (s : State) : Host.Outcome State Fault Refusal :=
  settled (fun s =>
    if s.hub.clock != .acquiring then .next s
    else
      let m := advanceWall (s.hub.clockSince + us 10) s.m
      onHub (fun s => afterLock { s with hub := s.hub.setClock .locked m.wall, m := m }) s) s

/-- No reference: at a wake it is reported to host software (R60); at step 4 of start-up, after 100 ms, over I3C too
(R422). The module keeps waiting. -/
def execStartNoReference (s : State) : Host.Outcome State Fault Refusal :=
  settled (fun s =>
    let p := s.hub.power
    if s.hub.clock != .acquiring || s.m.timingRoot then .next s
    else if p.st == .startup && p.step = 3 then
      let m := advanceWall (s.hub.clockSince + ms 100) s.m
      onHub (fun s => { s with hub := { s.hub with power := { p with fault := 8 } }, m := postEvent pf0 evNoReference m }) s
    else if p.st == .standby && p.waking then .next { s with m := postEvent pf0 evNoReference s.m }
    else .next s) s

end Sys2Proof.Machine
end

