-- ==== Sys2Proof/Machine/Power.lean ====
section
/-!
DEFINITION. The 56 V input, start-up and calibration (R392 to R395, R415 to R426, R453 to R468), and the power rows of
PF0 (R436) and of I3C (R464).
-/
namespace Sys2Proof.Machine

/-! ### The 56 V input (R453 to R456) -/

/-- The input damages the module: possible above 72 V, and left open there (Table PHY-1). -/
def inputDamaged (mv : Nat) (s : State) : Bool := mv > 72000 && Config.inputDamages s.m.free mv

/-- The module after it has stood an input level: above 72 V one free value is used up. -/
def afterLevel (mv : Nat) (s : State) : State := if mv > 72000 then { s with m := { s.m with free := s.m.free + 1 } } else s

/-- Record an input fault, latched where R456 says so, and go OFF if not there. -/
def inputFault (fault : Nat) (latch input : Bool) (s : State) : State :=
  let s := { s with hub := { s.hub with power := { s.hub.power with
    fault := fault, latched := s.hub.power.latched || latch, input := input } } }
  if s.hub.power.st == .off then s else dropOff fault s

/-- POWER_APPLIED (R455, R462): a qualified input ends step 1; the always-on domain starts its tick count from 0 and
reads the straps. Above 60 V it is an overvoltage that has lasted; a latched fault keeps the module OFF. -/
def applyPower (mv : Nat) (straps : BitVec 8) (flow : Nat) (s : State) : State :=
  if mv > 60000 then inputFault 2 true true s
  else
    let p := { s.hub.power with input := true, samples := 0, dynAddr := none, cmdErr := false, block := 0 }
    let m := { s.m with aonAt := s.m.wall, regs := { s.m.regs with straps := straps } }
    if p.latched then { s with hub := { s.hub with power := p }, m := m }
    else { s with hub := { s.hub with power := { p with st := .startup, step := 1, flowLow := decide (flow ≤ 100) } }, m := m }

def execPowerApplied (mv : Nat) (present : Bool) (straps : BitVec 8) (flow : Nat) (s : State) :
    Host.Outcome State Fault Refusal :=
  settled (fun s =>
    if inputDamaged mv s then .fault .inputDamage
    else if s.hub.power.input || s.hub.power.st != .off || !present || mv < 47000 then .next s
    else onHub (applyPower mv straps flow) (afterLevel mv s)) s

/-- INPUT_UV (Table PHY-1, R456): below 44 V, below 48 V for over 1 ms, or PRESENT lost. An input gone for 1 s clears a
latched fault. -/
def execInputUv (mv us : Nat) (present : Bool) (s : State) : Host.Outcome State Fault Refusal :=
  settled (fun s =>
    if !s.hub.power.input || (present && !(mv < 44000 || (mv < 48000 && us > 1000))) then .next s
    else
      onHub (fun s =>
        let s := inputFault 1 false false s
        { s with hub := { s.hub with power := { s.hub.power with latched := s.hub.power.latched && us < 1000000 } } }) s) s

/-- INPUT_OV: above 62 V, or above 60 V for over 1 ms; where an input above 72 V damages the module no rule gives a state. -/
def execInputOv (mv us : Nat) (s : State) : Host.Outcome State Fault Refusal :=
  settled (fun s =>
    if inputDamaged mv s then .fault .inputDamage
    else if !s.hub.power.input || !(mv > 62000 || (mv > 60000 && us > 1000)) then .next s
    else onHub (inputFault 2 true true) (afterLevel mv s)) s

/-- INPUT_OC (R454): above 55 A for over 10 ms, or above 60 A for over 50 us. -/
def execInputOc (ma us : Nat) (s : State) : Host.Outcome State Fault Refusal :=
  settled (fun s =>
    if !s.hub.power.input || !((ma > 55000 && us > 10000) || (ma > 60000 && us > 50)) then .next s
    else onHub (inputFault 3 true true) s) s

/-- LEAK_DETECTED (R467). -/
def execLeakDetected (s : State) : Host.Outcome State Fault Refusal :=
  settled (fun s =>
    if s.hub.power.st == .off then .next s else onHub (dropOff 7) s) s

/-- OSC_FAIL (Table OPS-4): the oscillator is not stable at step 2. -/
def execOscFail (s : State) : Host.Outcome State Fault Refusal :=
  settled (fun s =>
    if s.hub.power.st != .startup || s.hub.power.step ≠ 1 then .next s else onHub (enterOff 4) s) s

/-! ### Secure boot (R392, R393, Tables SEC-2 and SEC-3) -/

def imageBody (b : Bytes) : Nat := leAt b 16 8
def imageSvn (b : Bytes) : Nat := leAt b 8 4
def imageKey (b : Bytes) : Bytes := sliceB b 64 2592
def imageSig (b : Bytes) : Bytes := sliceB b (2656 + imageBody b) 4627
def imageDigest (b : Bytes) : BitVec 512 := Config.sha3d512 (sliceB b 0 (2656 + imageBody b))

/-- The header and the length fit Table SEC-2. -/
def imageForm (b : Bytes) : Bool :=
  leAt b 0 4 == 0x4D574B52 && leAt b 4 1 == 1 && allZero (sliceB b 5 3) && allZero (sliceB b 12 4) && allZero (sliceB b 24 40)
    && decide (2 ^ 20 ≤ imageBody b) && decide (imageBody b ≤ 2 ^ 26) && b.length == 2656 + imageBody b + 4627

/-- The code of the first check that an image fails, 0 where it passes all. -/
def bootCode (b : Bytes) (svnMin : Nat) (flashUe : Bool) : Nat :=
  if b.isEmpty then 1
  else if !imageForm b then 2
  else if Config.sha3d512 (imageKey b) != Config.fusedKeyDigest then 3
  else if !Config.mldsaVerify (imageKey b) (leBytes 64 (imageDigest b).toNat) (imageSig b) then 4
  else if imageSvn b < svnMin then 5
  else if flashUe then 6
  else 0

/-! ### Calibration (R423 to R426) -/

/-- Discard the items of Table OPS-5 that RESTORE_FACTORY discards; no retained seal outlives them (R308). -/
def discardUser (m : Mod) : Mod :=
  let m := { m with cal := { m.cal with hbmSeeds := false, retired := m.cal.retired.filter (fun r => r.2 != .host) }
                    ports := m.ports.map (fun x => { x with latency := none }) }
  allParts.foldl (fun m p => dropSeal p m) m

/-- The stored clock settings become those of CLK_CTRL. -/
def loadClock (m : Mod) : Mod :=
  let w : Reg := BitVec.ofNat 32 ((if m.cal.root then 1 else 0) + 2 * (m.cal.parent % 16))
  { m with regs := { m.regs with clk := { shadow := w, active := w } } }

/-- The measurement of each firmware context as it is loaded and started (R393). -/
def startContexts (body : Bytes) : Vector (Option (BitVec 512)) 9 :=
  Vector.ofFn (fun (k : Fin 9) => some (Config.sha3d512 (Config.contextImage k.val body)))

/-- The flash keys are unwrapped into their slots (Table SEC-7). -/
def unwrapFlash (m : Mod) : Mod :=
  { m with parts := m.parts.map (fun x => { x with keys := { x.keys with
      flashKey := x.wrapped.bind (fun w => if w.under == Config.storageKey Config.uds then some w.key else none) } }) }

/-- Step 3 with a good image: identity, contexts, flash keys, then the calibration areas (R424), then the clock starts to
acquire. -/
def bootGood (s : State) : State :=
  let b := s.hub.boot
  let hub := { s.hub with
    modCtx := { windows := modWindows }
    boot := { b with digest := imageDigest b.area, svn := imageSvn b.area, code := 0
                     contexts := startContexts (sliceB (b.area.drop 2656) 0 (imageBody b.area)) } }
  let s := { s with m := unwrapFlash s.m }
  if !s.m.cal.factoryGood then
    { s with m := refreshReplace s.m
             hub := { hub with boot := { hub.boot with code := 0x10 }, power := { hub.power with step := 3, fault := 9 } } }
  else
    let bad := !s.m.cal.good
    let m := if bad then postEvent pf0 evUserCalLost (discardUser { s.m with cal := { s.m.cal with good := true } }) else s.m
    { s with m := loadClock m
             hub := { hub.setClock .acquiring m.wall with power := { hub.power with step := 3, userCalLost := bad } } }

/-- The code of step 3: that of a write of the boot area that a loss of power has cut short (R394), or of the checks. -/
def Boot.check (b : Boot) (flashUe : Bool) : Nat :=
  match b.torn with
  | some w => if Config.tornEmpty w then 1 else 4
  | none => bootCode b.area b.svnMin flashUe

/-- What the digests of the calibration areas tell at step 3 (R424): an area once bad stays so until it is written. -/
def readAreas (f : FlashFound) (m : Mod) : Mod :=
  { m with cal := { m.cal with good := m.cal.good && !f.userBad, factoryGood := m.cal.factoryGood && !f.factoryBad } }

/-- SECURE_BOOT (R393, R424, R468): step 3, unless the flow was critical at the end of step 2. -/
def secureBoot (f : FlashFound) (s : State) : State :=
  let code := s.hub.boot.check f.flashUe
  if s.hub.power.flowLow then enterOff 6 s
  else if code ≠ 0 then
    { s with hub := { s.hub with boot := { s.hub.boot with code := code }, power := { s.hub.power with st := .recovery } } }
  else bootGood { s with m := readAreas f s.m }

def execSecureBoot (f : FlashFound) (s : State) : Host.Outcome State Fault Refusal :=
  settled (fun s =>
    if s.hub.power.st != .startup || s.hub.power.step ≥ 3 then .next s else onHub (secureBoot f) s) s

/-- Retire every tile that fails the self-test of start-up (R98). -/
def retireAll (test : SelfTest) (m : Mod) : Mod :=
  let bad := (List.range 72).filter (fun i => test.fails.getLsbD i && !m.cal.retired.any (fun r => r.1 == i))
  { m with cal := { m.cal with retired := m.cal.retired ++ bad.map (fun i => (i, RetireBy.selfTest)) } }

/-- Install the repair row of a due row (R433). -/
def installRow (r : Nat × Nat × Nat) (m : Mod) : Mod :=
  { m with cal := { m.cal with
      due := m.cal.due.filter (· != r), repairs := m.cal.repairs ++ [r]
      scrubFixes := m.cal.scrubFixes.filter (fun f => (f.1, f.2.1, f.2.2.1) != r) } }

/-- Install every pending repair that has a repair row left. -/
def installDue (m : Mod) : Mod :=
  m.cal.due.foldl (fun m r => if m.rowsUsed r.1 r.2.1 < 32 && !m.rowLogged r.1 r.2.1 r.2.2 then installRow r m else m) m

/-- Step 6 (R423) after the training of the stacks, with the tiles of each bay that may be mapped. -/
def applyCalibration (hbmStacks : BitVec 8) (tiles : Nat → List Nat) (m : Mod) : Mod :=
  let m := installDue { m with hbmGood := ~~~hbmStacks }
  refreshReplace { m with
    cal := { m.cal with hbmSeeds := true }
    tileMap := Vector.ofFn (fun (t : Fin 64) => (tiles (t.val / 8)).getD (t.val % 8) 0xFF) }

/-- What STARTUP_DONE reports (R423): the bays that are usable, and the state of each port. -/
def startReport (m : Mod) : BitVec 8 × List PortSt :=
  (BitVec.ofNat 8 (((List.range 8).filter m.bayUsable).map (2 ^ ·)).sum, allPorts.map (fun q => (m.port q).st))

/-- Capacity beyond what is mapped, found on a CXL port: an event in telemetry (R25). -/
def noteBeyond (found : Found) (m : Mod) : Mod :=
  let n := [found.cxl0, found.cxl1].countP (fun g => decide (g > 2048))
  { m with regs := { m.regs with cxlBeyond := m.regs.cxlBeyond + n } }

/-- The device that a CXL port finds (R25, R229). -/
def CxlDev.found (d : CxlDev) (gib : Nat) : CxlDev :=
  { d with present := gib != 0, failed := false, gib := min gib 2048, beyond := decide (gib > 2048) }

/-- Steps 5 to 7: READY, with the thermal step at 0 (R421, R423, R429). -/
def startReady (test : SelfTest) (found : Found) (s : State) : State :=
  let m := retireAll test s.m
  let m := noteBeyond found (applyCalibration found.hbmStacks m.usable m)
  let m := { m with cxl := #v[(m.cxl.get 0).found found.cxl0, (m.cxl.get 1).found found.cxl1] }
  { s with m := postEvent pf0 evStartupDone { m with regs := { m.regs with startReport := some (startReport m) } }
           hub := { s.hub with power := { s.hub.power with st := .ready, step := 7, thermStep := 0, zeroRun := 0 } } }

/-- STARTUP_CALIBRATION (R421, R423). -/
def execStartupCalibration (test : SelfTest) (found : Found) (s : State) : Host.Outcome State Fault Refusal :=
  settled (fun s =>
    if s.hub.power.st != .startup || s.hub.power.step ≠ 4 || s.hub.clock != .locked then .next s
    else onHub (startReady test found) s) s

/-! ### Firmware (R394, R395) -/

/-- The image that the firmware registers name, where its DMA succeeds. -/
def Hub.image (h : Hub) (m : Mod) : Option Bytes :=
  let a := h.boot.fwAddr.toNat
  let n := h.boot.fwLen.toNat
  if !m.hostUp || m.dmaFails a n then none else some (m.hostMem.read a n)

/-- Write an image to the boot area and read the area back: true where its digest matches. The code where it does not is
not stated. -/
def Boot.write (x : Boot) (b : Bytes) (wall : Nat) : Boot × Bool :=
  let back := Config.readBack wall b
  let x := { x with wroteAt := some wall, torn := none }
  if imageDigest back == imageDigest b then ({ x with area := b, fwState := 2, fwCode := 0 }, true)
  else ({ x with area := back, fwState := 3, fwCode := Config.openStatus 3 }, false)

/-- Check an image and write it to the boot area, or report its code. The code of a DMA that fails is not stated. -/
def Hub.takeImage (h : Hub) (m : Mod) : Hub × Bool :=
  match h.image m with
  | none => ({ h with boot := { h.boot with fwState := 3, fwCode := Config.openStatus 2 } }, false)
  | some b =>
    let code := bootCode b h.boot.svnMin false
    if code ≠ 0 then ({ h with boot := { h.boot with fwState := 3, fwCode := code } }, false)
    else
      let r := h.boot.write b m.wall
      ({ h with boot := r.1 }, r.2)

/-- RECOVERY_GO (R394): an image that passes restarts the hub. -/
def recoveryGo (s : State) : State :=
  let r := s.hub.takeImage s.m
  if r.2 then { s with hub := { r.1 with power := { r.1.power with st := .startup, step := 2 } } } else { s with hub := r.1 }

def execRecoveryGo (s : State) : Host.Outcome State Fault Refusal :=
  settled (fun s =>
    if s.hub.power.st != .recovery || s.hub.boot.fwState = 1 then .next s else onHub recoveryGo s) s

/-- PF0 answers outside RECOVERY: READY, or a start that has passed its boot. -/
def Hub.booted (h : Hub) : Bool := h.power.st == .ready || (h.power.st == .startup && h.power.step ≥ 3)

/-- PF0 BAR0 answers (Table OPS-1). -/
def State.pf0Live (s : State) : Bool :=
  s.m.hostUp && (s.hub.booted || s.hub.power.st == .standby)

/-- FIRMWARE_UPDATE (R395): for the next boot; nothing that runs is affected. -/
def execFirmwareUpdate (s : State) : Host.Outcome State Fault Refusal :=
  if !s.pf0Live || s.hub.boot.fwState = 1 then .next s else .next { s with hub := (s.hub.takeImage s.m).1 }

/-- SVN_COMMIT (R395): at most 64 raises; the minimum never falls. -/
def Boot.commitSvn (b : Boot) : Boot :=
  if b.raises ≥ 64 then { b with commitRefused := true }
  else if b.svn ≤ b.svnMin then { b with commitRefused := false }
  else { b with svnMin := b.svn, raises := b.raises + 1, commitRefused := false }

def execSvnCommit (s : State) : Host.Outcome State Fault Refusal :=
  if !s.pf0Live then .next s else .next { s with hub := { s.hub with boot := s.hub.boot.commitSvn } }

/-! ### PWR_CTRL (R417, R418, R426, R436) -/

def pwrReq (w : Reg) : Nat := fld w 1 0
def pwrRestore (w : Reg) : Bool := w.getLsbD 2

/-- The write is ignored with BAD_REQ (R436). -/
def pwrBad (h : Hub) (w : Reg) : Bool := (pwrReq w ≠ 0 && pwrRestore w) || (pwrReq w = 2 && h.power.st == .ready)

def Hub.setResult (h : Hub) (r : Nat) : Hub := { h with power := { h.power with result := r } }

/-- Write the RW fields of PWR_CTRL. -/
def Hub.setWakes (h : Hub) (w : Reg) : Hub :=
  { h with power := { h.power with wakeDb := w.getLsbD 3, wakeTtl := w.getLsbD 4 } }

/-- A write to PWR_CTRL as one row takes it: ignored where PF0 does not answer or the fields are not the row's; BAD_REQ;
else the RW fields, and the request. -/
def onPwr (mine : Bool) (w : Reg) (g : State → State) (s : State) : Host.Outcome State Fault Refusal :=
  settled (fun s =>
    if !s.pf0Live || !mine then .next s
    else if pwrBad s.hub w then .next { s with hub := s.hub.setResult 4 }
    else onHub (fun s => g { s with hub := s.hub.setWakes w }) s) s

/-- A ring has nothing visible that is not complete. -/
def RingPair.quiet (r : RingPair) : Bool :=
  r.st == .disabled || (r.visible == 0 && r.busy.isNone && r.held.isEmpty && r.post.isEmpty)

/-- Work of a partition that keeps the module from STANDBY (R417). -/
def Partition.standbyBusy (x : Partition) : Bool :=
  x.member.st != .idle || x.load.isSome || x.chain.isSome || !x.stoneWrites.isEmpty || x.keys.rotation.isSome
    || x.nsErasing.isSome || (x.window.bind (·.waiting)).isSome || x.serving.requests.any (fun q => q.st == .endingPause)

/-- The conditions of R417. -/
def Mod.standbyFits (m : Mod) : Bool :=
  !m.parts.toList.any Partition.standbyBusy && m.funcs.toList.all (fun x => x.pairs.toList.all RingPair.quiet)

/-- Every ACTIVE port asks for KEEPALIVE (R268). -/
def askKeepalive (m : Mod) : Mod :=
  { m with ports := m.ports.map (fun x => if x.st == .active then { x with txLctl := x.txLctl ++ [lctlFlit 2 []] } else x) }

/-- A STANDBY request. -/
def reqStandby (s : State) : State :=
  if s.hub.power.st != .ready then { s with hub := s.hub.setResult 3 }
  else if s.hub.power.entering then s
  else if s.hub.power.leaving.isSome || !s.m.standbyFits then { s with hub := s.hub.setResult 2 }
  else
    let h := s.hub.setResult 5
    { s with hub := { h with power := { h.power with entering := true } }, m := askKeepalive s.m }

def execReqStandby (w : Reg) (s : State) : Host.Outcome State Fault Refusal := onPwr (pwrReq w = 1) w reqStandby s

/-- STANDBY: clocks stop; the local stores, tiles and their recorded errors are lost. A doorbell that came meanwhile
wakes the module at once (R437). -/
def enterStandby (s : State) : State :=
  let m := clearErrs (fun l => match l with
    | .localStore _ _ => true
    | .hbm _ _ => false) s.m
  let m := postEvent pf0 evStandbyEntered { m with tiles := Vector.replicate 64 {}, ls := Vector.replicate 72 [] }
  let p := s.hub.power
  let hub := { s.hub.setClock .off m.wall with power := { p with st := .standby, entering := false, result := 1 } }
  { s with m := m, hub := if p.wakeDb && !p.doorbells.isEmpty then hub.beginWake 2 m.wall else hub }

/-- STANDBY_ENTERED (R417): no port is ACTIVE any more. -/
def execStandbyEntered (s : State) : Host.Outcome State Fault Refusal :=
  settled (fun s =>
    if s.hub.power.st != .ready || !s.hub.power.entering || s.m.ports.toList.any (fun x => x.st == .active) then .next s
    else onHub enterStandby s) s

/-- A WAKE request, in STANDBY. -/
def reqWake (s : State) : State :=
  if s.hub.power.st == .standby then { s with hub := (s.hub.setResult 5).beginWake 1 s.m.wall }
  else { s with hub := s.hub.setResult 3 }

def execReqWake (w : Reg) (s : State) : Host.Outcome State Fault Refusal := onPwr (pwrReq w = 2) w reqWake s

/-- A SHUTDOWN request: from READY and STANDBY alone (Table OPS-2). -/
def reqShutdown (s : State) : State :=
  if s.hub.power.st == .ready || s.hub.power.st == .standby then goOff s else { s with hub := s.hub.setResult 3 }

def execReqShutdown (w : Reg) (s : State) : Host.Outcome State Fault Refusal := onPwr (pwrReq w = 3) w reqShutdown s

/-- A port passes through DOWN to TRAIN without stored calibration, where it is enabled and addressed (R279, R426). -/
def retrainPort (m : Mod) (q : PortId) : Mod :=
  let m := portDown q m
  if m.regs.portEn.active.getLsbD q.val && m.regs.nodeWritten then portTrain q m else m

/-- RESTORE_FACTORY (R426): in READY with no partition admitted. A tile that it returns is mapped at the next job start,
after its self-test. -/
def restoreFactory (hbmStacks : BitVec 8) (s : State) : State :=
  if s.hub.power.st != .ready || s.hub.power.entering || s.m.parts.toList.any (·.admitted) then
    { s with hub := s.hub.setResult 3 }
  else { s with hub := s.hub.setResult 1, m := applyCalibration hbmStacks s.m.usable (allPorts.foldl retrainPort (discardUser s.m)) }

def execRestoreFactory (w : Reg) (hbmStacks : BitVec 8) (s : State) : Host.Outcome State Fault Refusal :=
  onPwr (pwrRestore w) w (restoreFactory hbmStacks) s

/-! ### I3C (R463, R464) -/

/-- A command of I3C: not answered without 56 V; wrong arguments are ignored and set CMD_ERR. -/
def onI3c (good : Bool) (g : State → State) (s : State) : Host.Outcome State Fault Refusal :=
  settled (fun s =>
    if !s.hub.power.input then .next s
    else
      let s := { s with hub := { s.hub with power := { s.hub.power with cmdErr := !good } } }
      if good then onHub g s else .next s) s

/-- POWER_ON: out of OFF it is ignored; in OFF it clears a latched fault and begins at step 3 (R419). -/
def powerOn (s : State) : State :=
  { s with hub := { s.hub with power := { s.hub.power with latched := false, st := .startup, step := 2, flowLow := false } } }

def execPowerOn (args : List Byte) (s : State) : Host.Outcome State Fault Refusal :=
  onI3c (args.isEmpty && (settleOff s).hub.power.st == .off) powerOn s

/-- POWER_OFF. -/
def execPowerOff (args : List Byte) (s : State) : Host.Outcome State Fault Refusal :=
  onI3c args.isEmpty (fun s => if s.hub.power.st == .off then s else goOff s) s

/-- WAKE: a wake source in STANDBY. -/
def execWake (args : List Byte) (s : State) : Host.Outcome State Fault Refusal :=
  onI3c args.isEmpty (fun s => { s with hub := s.hub.beginWake 4 s.m.wall }) s

/-- SELECT: one byte, block 0 to 2. -/
def execI3cSelect (args : List Byte) (s : State) : Host.Outcome State Fault Refusal :=
  onI3c (args.length == 1 && decide (leAt args 0 1 ≤ 2))
    (fun s => { s with hub := { s.hub with power := { s.hub.power with block := leAt args 0 1 } } }) s

/-- A private write of I3C: a command code with its arguments (R463, Table PHY-4). A reserved code, which no row carries, is
ignored and sets CMD_ERR (log 164). -/
def i3cWrite (b : Bytes) (s : State) : Host.Outcome State Fault Refusal :=
  match leAt b 0 1 with
  | 0x01 => execPowerOn b.tail s
  | 0x02 => execPowerOff b.tail s
  | 0x03 => execWake b.tail s
  | 0x10 => execI3cSelect b.tail s
  | _ => onI3c false id s

/-- The address of the I3C target (R463): the dynamic one, or 0x40 + SLOT. -/
def State.i3cAddress (s : State) : BitVec 7 := s.hub.power.dynAddr.getD (BitVec.ofNat 7 (0x40 + fld s.m.regs.straps 3 0))

/-- SETDASA or ENTDAA (R463). -/
def execI3cDynamicAddress (addr : BitVec 7) (s : State) : Host.Outcome State Fault Refusal :=
  if !s.hub.power.input then .next s
  else .next { s with hub := { s.hub with power := { s.hub.power with dynAddr := some addr } } }

end Sys2Proof.Machine
end

