-- ==== Sys2Proof/Machine/Health.lean ====
section
/-!
DEFINITION. Temperatures (R428 to R431, R467), telemetry captures (R435, R485), scrub, rewrites and repairs (R226, R238,
R433), and the failures of a tile and of a CXL device (R98, R231).
-/
namespace Sys2Proof.Machine

/-! ### Sensors (Tables OPS-6 and PHY-6) -/

/-- Some reading lies at or above the limits given: dies, stacks, inlet and outlet in 0.1 degrees C, flow in 0.01 L/min,
which counts from below. -/
def sensorsReach (r : Sensors) (die hbm inlet outlet : Int) (flow : Nat) : Bool :=
  (r.compute ++ r.base ++ [r.hub]).any (fun t => decide (die ≤ t)) || r.hbm.any (fun t => decide (hbm ≤ t))
    || decide (inlet ≤ r.inlet) || decide (outlet ≤ r.outlet) || decide (r.flow ≤ flow)

/-- The emergency bit of a sample. -/
def emergencyBit (r : Sensors) : Bool := sensorsReach r 1050 950 450 650 180

/-- Some sensor is at its critical value. -/
def criticalBit (r : Sensors) : Bool := sensorsReach r 1200 1050 550 750 100

/-! ### The thermal step (R429) -/

/-- Step and count of bit-0 samples after one more sample. -/
def thermalNext (step run : Nat) (bit : Bool) : Nat × Nat :=
  if bit then (min 3 (step + 1), 0)
  else if run + 1 ≥ 10 then (step - 1, 0)
  else (step, run + 1)

/-- Post a change of step: the step and the tick count of its sample, at every admitted VF and PF0. -/
def postThermal (step : Nat) (tick : BitVec 56) (m : Mod) : Mod :=
  let note (m : Mod) (f : Fn) : Mod := m.updFunc f (fun x => { x with thermStep := step, thermTick := tick })
  let m := allParts.foldl (fun m p => if (m.part p).admitted then note m (vfOf p) else m) m
  postAll evThermalStep (mailAll (.thermal step) (note m pf0))

/-- The thermal holds that a change of step begins or ends (R430). -/
def thermalHolds (old new : Nat) (m : Mod) : Mod :=
  if old = 0 && new ≠ 0 then allParts.foldl (fun m p => if (m.part p).running then firstThermal p m else m) m
  else if new = 0 then { m with parts := m.parts.map (fun x => { x with thermNext := none }) }
  else m

/-- Take a sample at the present tick. -/
def takeSample (r : Sensors) (s : State) : State :=
  let p := s.hub.power
  let bit := emergencyBit r
  let n := thermalNext p.thermStep p.zeroRun bit
  let m := if n.1 = p.thermStep then s.m
    else thermalHolds p.thermStep n.1 (postThermal n.1 (BitVec.ofNat 56 s.m.tick) s.m)
  let s := { s with m := m
                    hub := { s.hub with power := { p with thermStep := n.1, zeroRun := n.2, emergency := bit } } }
  if criticalBit r then dropOff 5 s else s

/-- THERMAL_SAMPLE (R428): at the next 10 ms boundary of the tick count, in every state but OFF. -/
def execThermalSample (r : Sensors) (s : State) : Host.Outcome State Fault Refusal :=
  settled (fun s =>
    if s.hub.power.st == .off then .next s
    else
      let k := max (ceilDiv (s.m.wall - s.m.aonAt) (ms 10)) (s.hub.power.samples + 1)
      let m := advanceWall (s.m.aonAt + ms 10 * k) s.m
      onHub (fun s => takeSample r { s with m := m, hub := { s.hub with power := { s.hub.power with samples := k } } }) s) s

/-- CRITICAL_SENSOR_READ (R431). -/
def execCriticalSensorRead (r : Sensors) (s : State) : Host.Outcome State Fault Refusal :=
  settled (fun s =>
    if s.hub.power.st == .off || !criticalBit r then .next s else onHub (dropOff 5) s) s

/-! ### Telemetry (R435, R485, Table REG-8) -/

/-- The snapshot of a partition. -/
def partSnap (n : Nat) (step : Nat) (r : Sensors) (m : Mod) (x : Partition) : Snapshot :=
  let bits (f : Tile → Bool) : BitVec 64 :=
    BitVec.ofNat 64 ((x.tiles.map (fun t => if f (m.tile t) then 2 ^ x.tileIndex t else 0)).foldl (· + ·) 0)
  { capture := n, tick := m.tick, tel := x.tel, power := x.power, step := step, emergency := emergencyBit r
    tileSat := bits (·.sat), tileInvalid := bits (·.invalid)
    builds := x.plans.toList.map (fun i => (i.map imgBuild).getD 0)
    ports := x.ports.map (fun q => (q.val, (m.port q).st, (m.port q).counts)) }

/-- The snapshot of the module. -/
def modSnap (n : Nat) (k : Meters) (m : Mod) : ModSnap :=
  let spares := ((List.range 8).filter (fun b => (m.usable b).length ≥ 9)).map (2 ^ ·)
  let lane (v : Vector Lane 5) (i : Nat) : Nat := if spareUsed v then 0 else 2 ^ i
  let lanes := allPorts.map (fun q => lane (m.port q).txLanes (2 * q.val) + lane (m.port q).rxLanes (2 * q.val + 1))
  { capture := n, tick := m.tick, meters := k
    tileSpare := BitVec.ofNat 8 (spares.foldl (· + ·) 0), laneSpare := BitVec.ofNat 32 (lanes.foldl (· + ·) 0)
    repairRows := (List.range 8).map (fun b => maxL 0 ((List.range 32).map (m.rowsUsed b)))
    dbDropped := m.regs.dbDropped, dbInvalid := m.regs.dbInvalid, meshFence := m.regs.meshFence
    ctxFence := m.regs.ctxFence, cxlBeyond := m.regs.cxlBeyond, tileMap := m.tileMap.toList, replCause := m.regs.replCause, replPort := m.regs.replPort }

/-- Write the idle buffers and exchange them; the energy is that since the last capture. -/
def capture (k : Meters) (step : Nat) (m : Mod) : Mod :=
  let n := m.regs.capture + 1
  let parts := m.parts.mapIdx (fun i x =>
    { x with tel := { x.tel with energy := x.tel.energy.add (k.energy.getD i 0) } })
  let m := { m with parts := parts }
  let parts := m.parts.map (fun x => { x with snaps := x.snaps.set! (n % 2) (partSnap n step k.sensors m x) })
  { m with parts := parts, regs := { m.regs with capture := n, snaps := m.regs.snaps.set! (n % 2) (modSnap n k m) } }

/-- TELEMETRY_CAPTURE (R428, R435): in READY, RUN and HOLD, at the next 10 ms boundary of the tick count, where the
thermal sample is. -/
def execTelemetryCapture (k : Meters) (s : State) : Host.Outcome State Fault Refusal :=
  if s.hub.power.st != .ready then .next s
  else
    let m := advanceWall (s.m.aonAt + ms 10 * ceilDiv (s.m.wall - s.m.aonAt) (ms 10)) s.m
    .next { s with m := mailAll .telemetry (capture k s.hub.power.thermStep m) }

/-! ### Scrub, rewrites and repairs (R226, R227, R238, R433) -/

/-- The partition that owns a line, its level in CE_COUNT, and the logical tile. -/
def Mod.lineOwner (m : Mod) (l : LineRef) : Option Part × Nat × Nat :=
  match l with
  | .localStore q _ => (m.partOfBay (q.val / 9), 0, ((allTiles.find? (fun t => m.physOf t == q)).map (·.val)).getD 0xFF)
  | .hbm b _ => (m.partOfBay b.val, 2, 0)

/-- Ticks of 24 h. -/
def dayTicks : Nat := 2160000000000

/-- The scrub pass over HBM that a line belongs to: a pass takes each line once (R238), and goes on after a wake from where
it stopped (R427). -/
def nextScrub (l : LineRef) (m : Mod) : Mod :=
  if m.scrubbed.contains l then { m with scrubPass := m.scrubPass + 1, scrubbed := [l] }
  else { m with scrubbed := m.scrubbed ++ [l] }

/-- A scrub pass has corrected a line of a row: three distinct passes within 24 h make the row due. -/
def noteFix (b pc row : Nat) (m : Mod) : Mod :=
  let t := m.tick
  let old := m.cal.scrubFixes.filter (fun f => decide (t < f.2.2.2.2 + dayTicks))
  let mine := old.filter (fun f => f.1 == b && f.2.1 == pc && f.2.2.1 == row)
  let passes := ((mine.map (·.2.2.2.1)) ++ [m.scrubPass]).eraseDups
  let k := (b, pc, row)
  let due := if passes.length ≥ 3 && !m.cal.due.contains k then m.cal.due ++ [k] else m.cal.due
  { m with cal := { m.cal with scrubFixes := old ++ [(b, pc, row, m.scrubPass, t)], due := due } }

/-- A recorded correctable error of a line goes, and its rewrite with it. -/
def mendLine (l : LineRef) (m : Mod) : Mod :=
  { m with lineErrs := m.lineErrs.filter (fun e => e.line != l || e.double), rewrites := m.rewrites.filter (· != l) }

/-- Read, correct and rewrite one line. An uncorrectable line is recorded in the UE log and left as it is. -/
def scrubLine (l : LineRef) (m : Mod) : Mod :=
  let (p, level, tile) := m.lineOwner l
  if m.lineBad l then
    match p with
    | some p => logUe p l (m.part p).ctr tile m
    | none => m
  else if m.lineSoft l then
    let m := match p with
      | some p => m.updPart p (fun x => { x with tel := { x.tel with ce := x.tel.ce.set! level ((x.tel.ce[level]!).add 1) } })
      | none => m
    let m := match l with
      | .hbm b k => noteFix b.val (k % 32) (Config.hbmRow k) m
      | .localStore _ _ => m
    mendLine l m
  else m

/-- SCRUB (R238): a background user, in READY, RUN and HOLD (R427). -/
def execScrub (l : LineRef) (s : State) : Host.Outcome State Fault Refusal :=
  if s.hub.power.st != .ready then .next s
  else .next { s with m := scrubLine l (takeShare .scrub (lineBay l) (match l with
    | .hbm _ _ => nextScrub l s.m
    | .localStore _ _ => s.m)) }

/-- HBM_PHY_CALIBRATION (R238): no content changes. -/
def execHbmPhyCalibration (bay : Fin 8) (pc : Fin 32) (s : State) : Host.Outcome State Fault Refusal :=
  if s.hub.power.st != .ready then .next s
  else
    let k := 32 * bay.val + pc.val
    let m := takeShare .phyCalibration bay.val s.m
    .next { s with m := { m with hbmCal := m.hbmCal.put 0 k (m.hbmCal.get 0 k + 1) } }

/-- CORRECTED_LINE_REWRITE (R226): the corrected line is written back. -/
def execCorrectedLineRewrite (l : LineRef) (s : State) : Host.Outcome State Fault Refusal :=
  if s.hub.power.st != .ready || !s.m.rewrites.contains l then .next s
  else .next { s with m := mendLine l (takeShare .rewrite (lineBay l) s.m) }

/-- HBM_ROW_REPAIR (R433): the data moves with the row. -/
def execHbmRowRepair (bay : Fin 8) (pc : Fin 32) (row : Nat) (s : State) : Host.Outcome State Fault Refusal :=
  if s.hub.power.st != .ready || !s.m.repairable bay.val pc.val row then .next s
  else .next { s with m := refreshReplace (installRow (bay.val, pc.val, row) s.m) }

/-! ### Failures (R98, R231) -/

/-- CXL_DEVICE_FAIL (R231): later accesses give target not present. -/
def execCxlDeviceFail (x : Fin 2) (s : State) : Host.Outcome State Fault Refusal :=
  let d := s.m.cxl.get x
  if !d.present then .next s else .next { s with m := { s.m with cxl := s.m.cxl.set x.val { d with failed := true } x.isLt } }

def cTileFailed : Nat := 0x0012

/-- TILE_FAILED (R98): while a job runs, the plans of its partition stop. -/
def execTileFailed (t : TileId) (s : State) : Host.Outcome State Fault Refusal :=
  match s.m.partOfTile t with
  | none => .next s
  | some p =>
    if !(s.m.part p).running then .next s
    else
      let l : Loc := { tile := t.val, stream := .access, index := 0xFFFF, iter0 := 0, iter1 := 0 }
      .next { s with m := raise p (s.m.part p).ctr cTileFailed 0 (some l) none 0 s.m }

end Sys2Proof.Machine
end

