-- ==== Sys2Proof/Machine/Regs.lean ====
section
/-!
DEFINITION. The registers of BAR0 as commands write them (R16, R359 to R364, R472 to R483): shadows, strobes and their
parity, resets of rings, the event register, and the set-up registers of PF0.
-/
namespace Sys2Proof.Machine

/-! ### Which registers answer -/

/-- Writes to BAR0 of a function reach its registers at an offset: the host link is up, the module answers, and a VF's
partition is admitted; in RECOVERY the firmware block of PF0 alone (R359, R472). -/
def State.regLive (s : State) (f : Fn) (off : Nat) : Bool :=
  s.m.hostUp && (match s.hub.power.st with
    | .off => false
    | .recovery => f == pf0 && decide (0x0C00 ≤ off) && decide (off < 0x0D00)
    | .startup => f == pf0 && s.hub.booted
    | .standby => f == pf0
    | .ready => s.m.fnLive f)

/-! ### Where the shadowed registers lie (Tables REG-1, REG-2, REG-3, REG-5, R481, R482) -/

/-- A register with RWS fields: of a ring pair or the result ring by its place, the event mask, the check register,
PART_CFG, CLK_CTRL, PORT_EN. -/
inductive RwsReg where
  | pair (n : PairId) (k : Nat)
  | result (k : Nat)
  | evtMask
  | chk
  | partCfg
  | clk
  | portEn
  deriving DecidableEq, Repr

/-- The RWS register at an offset of a function. The places of a ring are BASE, BASE_HI, the second BASE and its HI,
and CTRL. -/
def rwsAt (f : Fn) (off : Nat) : Option RwsReg :=
  if off % 4 ≠ 0 then none
  else if 0x0400 ≤ off && off < 0x0600 then
    let n := (off - 0x0400) / 0x20
    let k := off % 0x20 / 4
    if n < fnPairs f && k ≤ 4 then some (.pair (toFin 16 n) k) else none
  else if off = 0x0204 then some .evtMask
  else if f = pf0 then
    if off = 0x0900 then some .clk else if off = 0x0A00 then some .portEn else none
  else if 0x0600 ≤ off && off ≤ 0x0610 then some (.result ((off - 0x0600) / 4))
  else if off = 0x0700 then some .chk
  else if off = 0x0710 then some .partCfg
  else none

/-- The UPDATE bit of its block. -/
def RwsReg.block : RwsReg → Nat
  | .pair _ _ | .result _ => 0
  | .evtMask => 1
  | .chk => 2
  | .partCfg => 3
  | .clk => 4
  | .portEn => 5

/-- The bits of its fields. -/
def RwsReg.mask : RwsReg → Reg
  | .pair _ k => if k = 4 then 0x3FFFFFFF else 0xFFFFFFFF
  | .result k => if k = 4 then 0xFFF else 0xFFFFFFFF
  | .evtMask => 0xFFFFFF00
  | .chk => 3
  | .partCfg => 0x3FF
  | .clk => 0x1F
  | .portEn => 0xFFFF

/-- The place of a ring register. -/
def RingPair.setRws (r : RingPair) (k : Nat) (g : Rws → Rws) : RingPair :=
  match k with
  | 0 => { r with sqLo := g r.sqLo }
  | 1 => { r with sqHi := g r.sqHi }
  | 2 => { r with cqLo := g r.cqLo }
  | 3 => { r with cqHi := g r.cqHi }
  | _ => { r with ctrl := g r.ctrl }

def ResultRing.setRws (r : ResultRing) (k : Nat) (g : Rws → Rws) : ResultRing :=
  match k with
  | 0 => { r with lo := g r.lo }
  | 1 => { r with hi := g r.hi }
  | 2 => { r with wbLo := g r.wbLo }
  | 3 => { r with wbHi := g r.wbHi }
  | _ => { r with ctrl := g r.ctrl }

/-- Change a shadowed register. -/
def setRws (f : Fn) (x : RwsReg) (g : Rws → Rws) (m : Mod) : Mod :=
  match x with
  | .pair n k => updPair f n (fun r => r.setRws k g) m
  | .result k => m.updFunc f (fun y => { y with result := y.result.setRws k g })
  | .evtMask => m.updFunc f (fun y => { y with evtMask := g y.evtMask })
  | .chk => m.updFunc f (fun y => { y with chk := g y.chk })
  | .partCfg => m.updFunc f (fun y => { y with partCfg := g y.partCfg })
  | .clk => { m with regs := { m.regs with clk := g m.regs.clk } }
  | .portEn => { m with regs := { m.regs with portEn := g m.regs.portEn } }

/-- Apply a shadow. -/
def Rws.apply (w : Rws) : Rws := { w with active := w.shadow }

/-- A write goes to the shadow (R16), whose parity is then good again. -/
def writeShadow (f : Fn) (off : Nat) (x : RwsReg) (w : Reg) (m : Mod) : Mod :=
  let m := m.updFunc f (fun y => { y with upset := y.upset.filter (fun u => u != (off, true)) })
  setRws f x (fun r => { r with shadow := w &&& x.mask }) m

/-! ### Parity (R475) and rejection (R476) -/

/-- Report a parity mismatch. -/
def reportParity (f : Fn) (off block : Nat) (shadow : Bool) (m : Mod) : Mod :=
  postAt f evCfgParity (m.updFunc f (fun y =>
    { y with mismatch := if shadow then y.mismatch else some (block, m.wall), parityInfo := BitVec.ofNat 32 (off % 2 ^ 16 + block * 2 ^ 16 + (if shadow then 2 ^ 19 else 0)) }))

/-- Reject a strobe of a block. -/
def rejectStrobe (f : Fn) (off block : Nat) (m : Mod) : Mod :=
  postAt f evCfgReject (m.updFunc f (fun y => { y with rejectInfo := BitVec.ofNat 32 (off % 2 ^ 16 + block * 2 ^ 16) }))

/-- The first register of a block of a function whose shadow is in mismatch. -/
def Func.shadowUpset (y : Func) (f : Fn) (block : Nat) : Option Nat :=
  minL ((y.upset.filter (fun u => u.2 && (rwsAt f u.1).any (fun x => x.block == block))).map (·.1))

/-! ### The ring block (R363, R364) -/

/-- LOGSZ of a CTRL register lies outside 6 to 16. The reset value 0 of a ring that is not enabled passes: R363 gives the
field that value, and one such ring would else bar every strobe (log 81). -/
def logszBad (ctrl : Reg) : Bool :=
  let k := fld ctrl 5 1
  (k < 6 || k > 16) && (ctrl.getLsbD 0 || k ≠ 0)

/-- A size or a base of a pair is out of range in the shadow. -/
def RingPair.shadowBad (r : RingPair) : Bool :=
  logszBad r.ctrl.shadow || fld r.sqLo.shadow 11 0 ≠ 0 || fld r.cqLo.shadow 11 0 ≠ 0

def ResultRing.shadowBad (r : ResultRing) : Bool :=
  logszBad r.ctrl.shadow || fld r.lo.shadow 11 0 ≠ 0 || fld r.wbLo.shadow 2 0 ≠ 0

/-- The state of a ring after a strobe left EN as it is. -/
def RingSt.strobed (st : RingSt) (en : Bool) : RingSt :=
  match st, en with
  | .disabled, true => .running
  | .running, false => .draining
  | .error, false => .disabled
  | _, _ => st

/-- Apply the shadows of a pair. A drain discards a group whose CLOSE was not visible. -/
def RingPair.strobe (r : RingPair) : RingPair :=
  let st := r.st.strobed (r.ctrl.shadow.getLsbD 0)
  { r with sqLo := r.sqLo.apply, sqHi := r.sqHi.apply, cqLo := r.cqLo.apply, cqHi := r.cqHi.apply, ctrl := r.ctrl.apply
           st := st, held := if st == .draining && !r.whole then [] else r.held }

def ResultRing.strobe (r : ResultRing) : ResultRing :=
  { r with lo := r.lo.apply, hi := r.hi.apply, wbLo := r.wbLo.apply, wbHi := r.wbHi.apply, ctrl := r.ctrl.apply
           st := r.st.strobed (r.ctrl.shadow.getLsbD 0) }

/-- The ring pairs of a function. -/
def pairsOf (f : Fn) : List PairId := allPairs.filter (fun n => n.val < fnPairs f)

/-- A strobe of the ring block: one bad value leaves all of it unchanged, and RING_CFG is set. -/
def strobeRings (f : Fn) (ready : Bool) (m : Mod) : Mod :=
  let y := m.func f
  if (pairsOf f).any (fun n => (y.pair n).shadowBad) || (f != pf0 && y.result.shadowBad) then postAt f evRingCfg m
  else
    let m := (pairsOf f).foldl (fun m n => updPair f n RingPair.strobe m) m
    let m := if f = pf0 then m else m.updFunc f (fun y => { y with result := y.result.strobe })
    if ready then (pairsOf f).foldl (fun m n => intakeAll f n m) m else m

/-! ### The other blocks -/

/-- The check block: it applies as the plan that runs ends (R447). -/
def strobeChk (f : Fn) (m : Mod) : Mod :=
  match partOfFn f with
  | none => m
  | some p =>
    if (m.part p).running then m.updPart p (fun x => { x with chkPending := true })
    else m.updFunc f (fun y => { y with chk := y.chk.apply })

/-- PART_CFG: INTERVAL from 1 to 720 (R482). -/
def strobePartCfg (f : Fn) (m : Mod) : Mod :=
  let w := fld (m.func f).partCfg.shadow 9 0
  if w = 0 || w > 720 then rejectStrobe f 0x0710 3 m else m.updFunc f (fun y => { y with partCfg := y.partCfg.apply })

/-- PORT_EN: set bits take a port from DOWN to TRAIN, once the node address is written and the fast clock runs; cleared
bits take it to DOWN. An ISOLATED port waits for its release. -/
def strobePort (old new : Reg) (clock : Bool) (m : Mod) (q : PortId) : Mod :=
  if new.getLsbD q.val then
    if !old.getLsbD q.val && (m.port q).st == .down && m.regs.nodeWritten && clock then portTrain q m else m
  else if (m.port q).st == .isolated then m
  else portDown q m

def strobePorts (clock : Bool) (m : Mod) : Mod :=
  let old := m.regs.portEn.active
  let new := m.regs.portEn.shadow
  if old = new then m
  else allPorts.foldl (strobePort old new clock) { m with regs := { m.regs with portEn := m.regs.portEn.apply } }

/-- A PREPARE waits to be taken: it is taken before a strobe of the clock block of the same cycle (R488). -/
def Mod.prepareWaits (m : Mod) : Bool :=
  allParts.any (fun p => (takeMg p none 1 m).isSome || allPorts.any (fun q => (takeMg p (some q) 1 m).isSome))

/-- CLK_CTRL (R483): only while every partition's member is IDLE; the values go to the user calibration area, and a
change of root or parent costs the lock. PARENT is ignored at the root. -/
def strobeClock (s : State) : State :=
  let w := s.m.regs.clk.shadow
  let old := s.m.regs.clk.active
  if w = old then s
  else if s.m.parts.toList.any (fun x => x.member.st != .idle) || s.m.prepareWaits then { s with m := rejectStrobe pf0 0x0900 4 s.m }
  else
    let root := w.getLsbD 0
    let moved := root != old.getLsbD 0 || (!root && fld w 4 1 ≠ fld old 4 1)
    let m := { s.m with regs := { s.m.regs with clk := s.m.regs.clk.apply }
                        cal := { s.m.cal with root := root, parent := fld w 4 1 } }
    if moved && s.hub.clock == .locked then enterHoldover { s with m := m } else { s with m := m }

/-- Apply one block of a function that has it. -/
def applyBlock (f : Fn) (s : State) (block : Nat) : State :=
  match block with
  | 0 => { s with m := strobeRings f (s.hub.power.st == .ready) s.m }
  | 1 => { s with m := s.m.updFunc f (fun y => { y with evtMask := y.evtMask.apply }) }
  | 2 => if f = pf0 then s else { s with m := strobeChk f s.m }
  | 3 => if f = pf0 then s else { s with m := strobePartCfg f s.m }
  | 4 => if f = pf0 then strobeClock s else s
  | 5 => if f = pf0 then { s with m := strobePorts (s.hub.clock != .off) s.m } else s
  | _ => s

/-- Strobe one block, unless a shadow of it is in mismatch, or its active values were found in mismatch in this cycle
(R475, R488). -/
def strobeBlock (f : Fn) (s : State) (block : Nat) : State :=
  match (s.m.func f).shadowUpset f block with
  | some off => { s with m := reportParity f off block true s.m }
  | none => if (s.m.func f).mismatch = some (block, s.m.wall) then s else applyBlock f s block

/-- UPDATE (R474): every block that MASK names, in one cycle. -/
def execUpdate (f : Fn) (w : Reg) (s : State) : Host.Outcome State Fault Refusal :=
  if !s.regLive f 0x0100 then .next s
  else .next (((List.range 6).filter (fun k => w.getLsbD k)).foldl (strobeBlock f) s)

/-- The outcome of a mismatch of an active value (Table REG-1). -/
def parityOutcome (f : Fn) (block : Nat) (m : Mod) : Mod :=
  match block with
  | 0 =>
    let m := (pairsOf f).foldl (fun m n => updPair f n (fun r =>
      { r with st := .error, held := [], busy := r.busy.map (fun b => { b with lost := true }), post := [] }) m) m
    if f = pf0 then m else m.updFunc f (fun y => { y with result := { y.result with st := .error } })
  | 1 => m.updFunc f (fun y => { y with evtMask := { y.evtMask with active := 0xFFFFFF00 } })
  | 2 =>
    match partOfFn f with
    | some p => m.updPart p (fun x => { x with chkReset := true })
    | none => m
  | 3 => m.updFunc f (fun y => { y with partCfg := { y.partCfg with active := 24 } })
  | 4 =>
    let w := (loadClock m).regs.clk.active
    { m with regs := { m.regs with clk := { m.regs.clk with active := w } } }
  | _ =>
    let on := ((allPorts.filter (fun q => (m.port q).st != .down)).map (fun q => 2 ^ q.val)).foldl (· + ·) 0
    { m with regs := { m.regs with portEn := { m.regs.portEn with active := BitVec.ofNat 32 on } } }

/-- CFG_PARITY_CHECK (R475): every 1 us the active values are checked; the upset of a shadow is found at its strobe. -/
def execCfgParityCheck (f : Fn) (upset : Option RegUpset) (s : State) : Host.Outcome State Fault Refusal :=
  match upset with
  | none => .next s
  | some u =>
    match rwsAt f u.off.toNat with
    | none => .next s
    | some x =>
      if !s.m.fnLive f || (s.hub.power.st != .ready && s.hub.power.st != .standby) then .next s
      else if u.shadow then
        .next { s with m := s.m.updFunc f (fun y => { y with upset := y.upset.filter (· != (u.off.toNat, true)) ++ [(u.off.toNat, true)] }) }
      else .next { s with m := reportParity f u.off.toNat x.block false (parityOutcome f x.block s.m) }

/-! ### Plain writes -/

/-- Initial head, tail and phase of a DISABLED ring. -/
def RingPair.restart (r : RingPair) : RingPair :=
  if r.st != .disabled then r
  else { r with head := 0, tail := 0, cqTail := 0, cqHead := 0, cqUsed := 0, phase := true, held := [], shown := [], coal := 0, coalAt := none }

def ResultRing.restart (r : ResultRing) : ResultRing :=
  if r.st != .disabled then r else { r with tail := 0, head := 0, used := 0 }

/-- RESET, where the word written to CTRL sets it. -/
def restartRing (f : Fn) (x : RwsReg) (w : Reg) (m : Mod) : Mod :=
  if !w.getLsbD 31 then m
  else
    match x with
    | .pair n 4 => updPair f n RingPair.restart m
    | .result 4 => m.updFunc f (fun y => { y with result := y.result.restart })
    | _ => m

/-- A write to a shadowed register, with RESET where it is a CTRL register. -/
def writeRws (f : Fn) (off : Nat) (x : RwsReg) (w : Reg) (m : Mod) : Mod := restartRing f x w (writeShadow f off x w m)

/-- The offset of a CTRL register. -/
def ringCtrl : RingRef → Nat
  | .pair n => 0x0410 + 0x20 * n.val
  | .result => 0x0610

/-- RING_RESET (R363): a write to CTRL with RESET. -/
def execRingReset (f : Fn) (ring : RingRef) (w : Reg) (s : State) : Host.Outcome State Fault Refusal :=
  let off := ringCtrl ring
  match rwsAt f off with
  | none => .next s
  | some x => if !s.regLive f off || !w.getLsbD 31 then .next s else .next { s with m := writeRws f off x w s.m }

/-- Write a register of PF0 that has RW fields and no step of its own: FW_ADDR, FW_LEN, and the RW fields of PWR_CTRL. -/
def writePlain (off : Nat) (w : Reg) (h : Hub) : Hub :=
  let b := h.boot
  if off = 0x0C10 then { h with boot := { b with fwAddr := b.fwAddr &&& 0xFFFFFFFF00000000 ||| w.setWidth 64 } }
  else if off = 0x0C14 then { h with boot := { b with fwAddr := b.fwAddr &&& 0xFFFFFFFF ||| w.setWidth 64 <<< 32 } }
  else if off = 0x0C18 then { h with boot := { b with fwLen := w } }
  else if off = 0x0800 && pwrReq w = 0 && !pwrRestore w then h.setWakes w
  else h

/-- REGISTER_WRITE (R16, R472): all four bytes enabled, aligned, in a register whose write is no step of its own. -/
def execRegisterWrite (f : Fn) (off : BitVec 16) (be : BitVec 4) (w : Reg) (s : State) : Host.Outcome State Fault Refusal :=
  let o := off.toNat
  if be ≠ 0xF || o % 4 ≠ 0 || !s.regLive f o then .next s
  else
    match rwsAt f o with
    | some x => .next { s with m := writeRws f o x w s.m }
    | none => if f = pf0 then .next { s with hub := writePlain o w s.hub } else .next s

/-- EVENT_WRITE_BACK (R478). -/
def execEventWriteBack (f : Fn) (w : Reg) (s : State) : Host.Outcome State Fault Refusal :=
  if !s.regLive f 0x0200 then .next s
  else .next { s with m := s.m.updFunc f (·.writeBack (BitVec.ofNat 8 (fld w 7 0))) }

/-! ### The set-up registers of PF0 (R483) -/

/-- NODE_ADDR: only while every port is DOWN; then the enabled ports train (R279, R423). -/
def execNodeAddr (w : Reg) (s : State) : Host.Outcome State Fault Refusal :=
  if !s.regLive pf0 0x0908 || s.m.ports.toList.any (fun x => x.st != .down) then .next s
  else
    let m := { s.m with regs := { s.m.regs with node := BitVec.ofNat 16 (fld w 23 8), nodeWritten := true } }
    let on := allPorts.filter (fun q => m.regs.portEn.active.getLsbD q.val && s.hub.clock != .off)
    .next { s with m := on.foldl (fun m q => portTrain q m) m }

/-- Release a port from ISOLATED to TRAIN; where its bit is clear it goes on to DOWN (R275, R488). -/
def releasePort (w : Reg) (m : Mod) (q : PortId) : Mod :=
  if !w.getLsbD q.val || (m.port q).st != .isolated then m
  else
    let m := portTrain q m
    if m.regs.portEn.active.getLsbD q.val then m else portDown q m

/-- PORT_RELEASE. -/
def execPortRelease (w : Reg) (s : State) : Host.Outcome State Fault Refusal :=
  if !s.regLive pf0 0x0A04 then .next s else .next { s with m := allPorts.foldl (releasePort w) s.m }

/-- A fault of the partition takes effect as the present cycle ends. -/
def Partition.failing (x : Partition) : Bool := x.dueFaults.any (fun r => decide (r.cycle ≤ x.ctr))

/-- HOLD_REQ: GO issues a HOST_REQUEST notice for the partition's domain while it runs a plan; a failure of the partition in
the same cycle governs (R488). -/
def execHoldReq (w : Reg) (s : State) : Host.Outcome State Fault Refusal :=
  if !s.regLive pf0 0x0B00 || !w.getLsbD 31 then .next s
  else
    let p : Part := toFin 8 (fld w 2 0)
    let result (k : Nat) (m : Mod) : Mod :=
      { m with regs := { m.regs with holdReq := k, holdReqAt := if k = 1 then some (p.val, m.wall) else none } }
    if (s.m.part p).running && !(s.m.part p).failing then .next { s with m := result 1 (issueNow p rHostRequest 0xF s.m) }
    else .next { s with m := result 2 s.m }

/-- TILE_RETIRE: recorded in the user calibration area; the map changes at the next job start. -/
def execTileRetire (w : Reg) (s : State) : Host.Outcome State Fault Refusal :=
  let t := fld w 6 0
  if !s.regLive pf0 0x0B08 || !w.getLsbD 31 || t ≥ 72 || s.m.cal.retired.any (fun r => r.1 == t) then .next s
  else .next { s with m := refreshReplace { s.m with cal := { s.m.cal with retired := s.m.cal.retired ++ [(t, .host)] } } }

/-! ### PF0 FLR (R360, R473) -/

/-- PF0_FLR: its rings DISABLED, its registers at their reset values but for the clock and node block and the ports;
partitions and VFs are unaffected. -/
def execPf0Flr (s : State) : Host.Outcome State Fault Refusal :=
  let m := (stopRings pf0 s.m).updFunc pf0 freshFunc
  let m := { m with regs := { m.regs with holdReq := 0 } }
  let p := { s.hub.power with wakeDb := true, wakeTtl := true, result := 0, lastWake := 0, userCalLost := false }
  let b := { s.hub.boot with fwAddr := 0, fwLen := 0, fwState := 0, fwCode := 0, commitRefused := false }
  .next { s with m := m, hub := { s.hub with power := p, boot := b } }

end Sys2Proof.Machine
end

