-- ==== Sys2Proof/Machine/Groups.lean ====
section
/-!
DEFINITION. Transaction groups (R371 to R375): a whole group is checked before any member acts, then acts in ring order,
and leaves all of its effects or none.
-/
namespace Sys2Proof.Machine

/-- The opcodes that can act in a group or whose refusal a group needs: all of Table HST-5. -/
def hostOps : List HostOp :=
  [nopDef, planLoadDef, planDropDef, jobAbortDef, exwinSetDef, copyInDef, copyOutDef]
  ++ [manifestPutDef, manifestDropDef, stoneWriteDef, stoneDeleteDef, stoneLoadDef, chainInstallDef]
  ++ [reqSubmitDef, reqCancelDef, reqPauseDef, reqResumeDef]
  ++ [partAdmitDef, partReleaseDef, nsCreateDef, nsDeleteDef, cxlWindowSetDef, domainPutDef, domainStartDef, servingPutDef]

/-- The definition of an opcode that a function knows. -/
def hostOp (f : Fn) (op : Nat) : Option HostOp := if opKnown f op then hostOps.find? (fun d => d.op == op) else none

/-- The first member whose checks fail, judged after the members before it: its place, status, DETAIL and RESULT. -/
def checkGroup (f : Fn) : List (Nat × Bytes) → Nat → Mod → Option (Nat × Nat × Nat × Nat)
  | [], _, _ => none
  | (_, b) :: rest, k, m =>
    match hostOp f (dOpcode b) with
    | none => some (k, hOpcode, 0, 0)
    | some d =>
      match d.checks f b m with
      | some (s, e) => some (k, s, e, d.refusalResult s f b m)
      | none => checkGroup f rest (k + 1) (d.leaves f b m)

/-- The completions of a group of which a member fails its checks. -/
def refuseGroup (r : RingPair) (bad : Nat × Nat × Nat × Nat) : RingPair :=
  { r with
    held := []
    post := r.held.mapIdx (fun i h =>
      if i = bad.1 then complOf r h.1 h.2 bad.2.1 bad.2.2.1 bad.2.2.2 else complOf r h.1 h.2 hGroupAborted 0 0) }

/-- The partitions that a group concerns, as they stand. -/
def groupParts (f : Fn) (ms : List (Nat × Bytes)) (m : Mod) : List (Nat × Partition) :=
  ((ms.filterMap (fun e => descPart f e.2)).eraseDups).map (fun p => (p.val, m.part p))

/-- A member becomes the operation that its ring has in progress. -/
def RingPair.begin (r : RingPair) (e : Nat × Bytes) (old : Busy) : RingPair :=
  let no := r.taken + 1
  let op : Busy := { old with no := no, opcode := dOpcode e.2, tag := dTag e.2, index := e.1, irq := dIrq e.2, body := e.2
                              fin := none }
  { r with taken := no, busy := some op }

/-- After a member has ended with success, its completion is kept and the next member begins. -/
def nextMember (f : Fn) (n : PairId) (m : Mod) : Option Mod :=
  let r := (m.func f).pair n
  match r.busy with
  | none => none
  | some b =>
    match b.fin, b.todo with
    | some (s, e, v), t :: rest =>
      let own : Compl := { tag := b.tag, index := b.index, head := r.head, status := s, detail := e, result := v, irq := b.irq }
      some (updPair f n (fun r => r.begin t { b with before := b.before ++ [own], todo := rest }) m)
    | _, _ => none

/-- The member in progress acts. -/
def actMember (f : Fn) (n : PairId) (m : Mod) : Mod :=
  match ((m.func f).pair n).busy with
  | none => m
  | some b =>
    match hostOp f b.opcode with
    | none => finishOp f n hOpcode 0 0 m
    | some d =>
      match d.act f n b.body m with
      | .done s e v m => finishOp f n s e v m
      | .long m => m

/-- The members act in order, up to one whose operation ends later. -/
def runMembers (f : Fn) (n : PairId) : Nat → Mod → Mod
  | 0, m => m
  | k + 1, m =>
    let done := actMember f n m
    match nextMember f n done with
    | some m => runMembers f n k m
    | none => done

/-- A whole group that its ring can take: nothing in progress, a place free for a completion, nothing it touches is held by
another group, and nothing of its partitions became whole before it. -/
def Mod.takesGroup (m : Mod) (f : Fn) (n : PairId) : Bool :=
  let r := (m.func f).pair n
  m.hostUp && m.fnLive f && decide (n.val < fnPairs f) && (r.st == .running || r.st == .draining) && r.busy.isNone
    && r.post.isEmpty && decide (r.cqUsed < r.size) && r.whole
    && !m.outrun f n r.wholeAt (r.held.filterMap (fun e => descPart f e.2))
    && r.held.all (fun e => !m.waitsGroup f n e.2 && !((hostOp f (dOpcode e.2)).any (fun d => d.waits f e.2 m)))

/-- Take a whole group: its checks, then its members. -/
def startGroup (f : Fn) (n : PairId) (m : Mod) : Mod :=
  let r := (m.func f).pair n
  match checkGroup f r.held 0 m, r.held with
  | some bad, _ => updPair f n (fun r => refuseGroup r bad) m
  | none, [] => m
  | none, e :: rest =>
    let old : Busy := { no := 0, opcode := 0, tag := 0, index := 0, irq := false, body := [], group := true, todo := rest
                        undo := groupParts f r.held m }
    runMembers f n 64 (updPair f n (fun r => { r.begin e old with held := [] }) m)

/-- TRANSACTION_GROUP (R372): a whole group begins, or one whose long member has ended goes on. -/
def execTransactionGroup (f : Fn) (n : PairId) (s : State) : Host.Outcome State Fault Refusal :=
  if s.hub.power.st != .ready then .next s
  else
    match nextMember f n s.m with
    | some m => .next { s with m := runMembers f n 64 m }
    | none => if s.m.takesGroup f n then .next { s with m := startGroup f n s.m } else .next s

end Sys2Proof.Machine
end

