-- ==== Sys2Proof/Machine/Dispatch.lean ====
section
/-!
DEFINITION. The dispatch: one arm for each row of the table, each one direct call of its meaning.
-/
namespace Sys2Proof.Machine

/-- The effect of a command on everything but the queue. -/
def exec (i : Instr) (s : State) : Host.Outcome State Fault Refusal :=
  match i with
  | .endCmd t st => Sys2Proof.Machine.execEnd t st s
  | .sync t st => Sys2Proof.Machine.execSync t st s
  | .repeatCmd t st => Sys2Proof.Machine.execRepeat t st s
  | .pset t st => Sys2Proof.Machine.execPset t st s
  | .fset t st => Sys2Proof.Machine.execFset t st s
  | .qpush t st => Sys2Proof.Machine.execQpush t st s
  | .loadHbm t => Sys2Proof.Machine.execLoadHbm t s
  | .storeHbm t => Sys2Proof.Machine.execStoreHbm t s
  | .pageGather t => Sys2Proof.Machine.execPageGather t s
  | .pageScatter t => Sys2Proof.Machine.execPageScatter t s
  | .send t => Sys2Proof.Machine.execSend t s
  | .release t => Sys2Proof.Machine.execRelease t s
  | .cxlRead t => Sys2Proof.Machine.execCxlRead t s
  | .cxlWrite t => Sys2Proof.Machine.execCxlWrite t s
  | .flashStage t => Sys2Proof.Machine.execFlashStage t s
  | .hostRead t => Sys2Proof.Machine.execHostRead t s
  | .hostWrite t => Sys2Proof.Machine.execHostWrite t s
  | .matmul t => Sys2Proof.Machine.execMatmul t s
  | .vload t => Sys2Proof.Machine.execVload t s
  | .vstore t => Sys2Proof.Machine.execVstore t s
  | .vop t => Sys2Proof.Machine.execVop t s
  | .trans t => Sys2Proof.Machine.execTrans t s
  | .accadd t => Sys2Proof.Machine.execAccadd t s
  | .select t => Sys2Proof.Machine.execSelect t s
  | .seedHw t => Sys2Proof.Machine.execSeedHw t s
  | .cxlGather t => Sys2Proof.Machine.execCxlGather t s
  | .commandComplete t st index => Sys2Proof.Machine.execCommandComplete t st index s
  | .vExternalComplete t index out off => Sys2Proof.Machine.execVExternalComplete t index out off s
  | .vCommandDeadline t index => Sys2Proof.Machine.execVCommandDeadline t index s
  | .t0Reached p => Sys2Proof.Machine.execT0Reached p s
  | .furlongBoundary p => Sys2Proof.Machine.execFurlongBoundary p s
  | .planEnd p => Sys2Proof.Machine.execPlanEnd p s
  | .streamDeadlock t => Sys2Proof.Machine.execStreamDeadlock t s
  | .booksCheck upset => Sys2Proof.Machine.execBooksCheck upset s
  | .plannedFlitWatch q => Sys2Proof.Machine.execPlannedFlitWatch q s
  | .vHoldCheck p rod => Sys2Proof.Machine.execVHoldCheck p rod s
  | .thermalHoldNotice p => Sys2Proof.Machine.execThermalHoldNotice p s
  | .holdStart p => Sys2Proof.Machine.execHoldStart p s
  | .holdEnd p => Sys2Proof.Machine.execHoldEnd p s
  | .linkSlot q => Sys2Proof.Machine.execLinkSlot q s
  | .flitReceive q flit fec => Sys2Proof.Machine.execFlitReceive q flit fec s
  | .holdNotice q => Sys2Proof.Machine.execHoldNotice q s
  | .init q => Sys2Proof.Machine.execInit q s
  | .kaReq q => Sys2Proof.Machine.execKaReq q s
  | .kaAck q => Sys2Proof.Machine.execKaAck q s
  | .kaReqRetry q => Sys2Proof.Machine.execKaReqRetry q s
  | .swapReq q => Sys2Proof.Machine.execSwapReq q s
  | .laneSwap q => Sys2Proof.Machine.execLaneSwap q s
  | .pv q => Sys2Proof.Machine.execPv q s
  | .nakResend q => Sys2Proof.Machine.execNakResend q s
  | .goBackReplay q => Sys2Proof.Machine.execGoBackReplay q s
  | .lossOfSymbolLock q lane => Sys2Proof.Machine.execLossOfSymbolLock q lane s
  | .prbs31Check q lane errors => Sys2Proof.Machine.execPrbs31Check q lane errors s
  | .alignLost q => Sys2Proof.Machine.execAlignLost q s
  | .trainStart q => Sys2Proof.Machine.execTrainStart q s
  | .trainComplete q rx tx roundTrip => Sys2Proof.Machine.execTrainComplete q rx tx roundTrip s
  | .trainFailed q laneOrder => Sys2Proof.Machine.execTrainFailed q laneOrder s
  | .calibrateTimeout q => Sys2Proof.Machine.execCalibrateTimeout q s
  | .keepaliveExit q => Sys2Proof.Machine.execKeepaliveExit q s
  | .pwrite q => Sys2Proof.Machine.execPwrite q s
  | .write q => Sys2Proof.Machine.execWrite q s
  | .read q => Sys2Proof.Machine.execRead q s
  | .rdata q => Sys2Proof.Machine.execRdata q s
  | .status q => Sys2Proof.Machine.execStatus q s
  | .chain q => Sys2Proof.Machine.execChain q s
  | .mcast q => Sys2Proof.Machine.execMcast q s
  | .packetRoute src => Sys2Proof.Machine.execPacketRoute src s
  | .requestTimeout p tag => Sys2Proof.Machine.execRequestTimeout p tag s
  | .prepare p src test => Sys2Proof.Machine.execPrepare p src test s
  | .vote p src => Sys2Proof.Machine.execVote p src s
  | .commit p src => Sys2Proof.Machine.execCommit p src s
  | .abandon p src => Sys2Proof.Machine.execAbandon p src s
  | .abort p src => Sys2Proof.Machine.execAbort p src s
  | .freeze p src => Sys2Proof.Machine.execFreeze p src s
  | .drained p src => Sys2Proof.Machine.execDrained p src s
  | .switch p src => Sys2Proof.Machine.execSwitch p src s
  | .counterSync value => Sys2Proof.Machine.execCounterSync value s
  | .prepareTimeout p => Sys2Proof.Machine.execPrepareTimeout p s
  | .voteTimeout p => Sys2Proof.Machine.execVoteTimeout p s
  | .reissueDelay p => Sys2Proof.Machine.execReissueDelay p s
  | .routeDrain p => Sys2Proof.Machine.execRouteDrain p s
  | .teardownComplete p => Sys2Proof.Machine.execTeardownComplete p s
  | .teardownTimeout p q => Sys2Proof.Machine.execTeardownTimeout p q s
  | .stepCommit p db => Sys2Proof.Machine.execStepCommit p db s
  | .outRelease p buf => Sys2Proof.Machine.execOutRelease p buf s
  | .stepGate p => Sys2Proof.Machine.execStepGate p s
  | .stepEnd p => Sys2Proof.Machine.execStepEnd p s
  | .firmwareCommit p => Sys2Proof.Machine.execFirmwareCommit p s
  | .resultRecordPost p => Sys2Proof.Machine.execResultRecordPost p s
  | .tierMoveComplete p handle => Sys2Proof.Machine.execTierMoveComplete p handle s
  | .ttlExpiry p handle => Sys2Proof.Machine.execTtlExpiry p handle s
  | .sqTailDoorbell f w => Sys2Proof.Machine.execSqTailDoorbell f w s
  | .cqHeadDoorbell f w => Sys2Proof.Machine.execCqHeadDoorbell f w s
  | .resultHeadDoorbell f w => Sys2Proof.Machine.execResultHeadDoorbell f w s
  | .nop f n => Sys2Proof.Machine.execNop f n s
  | .planLoad f n => Sys2Proof.Machine.execPlanLoad f n s
  | .planDrop f n => Sys2Proof.Machine.execPlanDrop f n s
  | .jobAbort f n => Sys2Proof.Machine.execJobAbort f n s
  | .exwinSet f n => Sys2Proof.Machine.execExwinSet f n s
  | .copyIn f n => Sys2Proof.Machine.execCopyIn f n s
  | .copyOut f n => Sys2Proof.Machine.execCopyOut f n s
  | .manifestPut f n => Sys2Proof.Machine.execManifestPut f n s
  | .manifestDrop f n => Sys2Proof.Machine.execManifestDrop f n s
  | .stoneWrite f n => Sys2Proof.Machine.execStoneWrite f n s
  | .stoneRecordEntered p foff => Sys2Proof.Machine.execStoneRecordEntered p foff s
  | .stoneDelete f n => Sys2Proof.Machine.execStoneDelete f n s
  | .stoneLoad f n => Sys2Proof.Machine.execStoneLoad f n s
  | .stoneRecordArrival p flashUe => Sys2Proof.Machine.execStoneRecordArrival p flashUe s
  | .loadZeroingComplete p => Sys2Proof.Machine.execLoadZeroingComplete p s
  | .chainInstall f n => Sys2Proof.Machine.execChainInstall f n s
  | .reqSubmit f n => Sys2Proof.Machine.execReqSubmit f n s
  | .reqCancel f n => Sys2Proof.Machine.execReqCancel f n s
  | .reqPause f n => Sys2Proof.Machine.execReqPause f n s
  | .reqResume f n => Sys2Proof.Machine.execReqResume f n s
  | .partAdmit f n => Sys2Proof.Machine.execPartAdmit f n s
  | .partRelease f n => Sys2Proof.Machine.execPartRelease f n s
  | .nsCreate f n => Sys2Proof.Machine.execNsCreate f n s
  | .nsDelete f n => Sys2Proof.Machine.execNsDelete f n s
  | .cxlWindowSet f n => Sys2Proof.Machine.execCxlWindowSet f n s
  | .domainPut f n => Sys2Proof.Machine.execDomainPut f n s
  | .domainStart f n => Sys2Proof.Machine.execDomainStart f n s
  | .servingPut f n => Sys2Proof.Machine.execServingPut f n s
  | .transactionGroup f n => Sys2Proof.Machine.execTransactionGroup f n s
  | .completionPost f n => Sys2Proof.Machine.execCompletionPost f n s
  | .ringDrainComplete f n => Sys2Proof.Machine.execRingDrainComplete f n s
  | .hostMemoryError f ring => Sys2Proof.Machine.execHostMemoryError f ring s
  | .msixCoalesceTimer f n => Sys2Proof.Machine.execMsixCoalesceTimer f n s
  | .hotReset => Sys2Proof.Machine.execHotReset s
  | .vfFlr p => Sys2Proof.Machine.execVfFlr p s
  | .pf0Flr => Sys2Proof.Machine.execPf0Flr s
  | .hostLinkDegraded => Sys2Proof.Machine.execHostLinkDegraded s
  | .ringsLost => Sys2Proof.Machine.execRingsLost s
  | .update f w => Sys2Proof.Machine.execUpdate f w s
  | .ringReset f ring w => Sys2Proof.Machine.execRingReset f ring w s
  | .eventWriteBack f w => Sys2Proof.Machine.execEventWriteBack f w s
  | .nodeAddr w => Sys2Proof.Machine.execNodeAddr w s
  | .portRelease w => Sys2Proof.Machine.execPortRelease w s
  | .holdReq w => Sys2Proof.Machine.execHoldReq w s
  | .tileRetire w => Sys2Proof.Machine.execTileRetire w s
  | .recoveryGo => Sys2Proof.Machine.execRecoveryGo s
  | .firmwareUpdate => Sys2Proof.Machine.execFirmwareUpdate s
  | .svnCommit => Sys2Proof.Machine.execSvnCommit s
  | .reqStandby w => Sys2Proof.Machine.execReqStandby w s
  | .standbyEntered => Sys2Proof.Machine.execStandbyEntered s
  | .reqWake w => Sys2Proof.Machine.execReqWake w s
  | .reqShutdown w => Sys2Proof.Machine.execReqShutdown w s
  | .restoreFactory w hbmStacks => Sys2Proof.Machine.execRestoreFactory w hbmStacks s
  | .registerWrite f off be w => Sys2Proof.Machine.execRegisterWrite f off be w s
  | .cfgParityCheck f upset => Sys2Proof.Machine.execCfgParityCheck f upset s
  | .clockLocked => Sys2Proof.Machine.execClockLocked s
  | .holdoverEntry why => Sys2Proof.Machine.execHoldoverEntry why s
  | .holdoverExit => Sys2Proof.Machine.execHoldoverExit s
  | .powerApplied mv present straps flow => Sys2Proof.Machine.execPowerApplied mv present straps flow s
  | .secureBoot flash => Sys2Proof.Machine.execSecureBoot flash s
  | .startNoReference => Sys2Proof.Machine.execStartNoReference s
  | .startupCalibration test found => Sys2Proof.Machine.execStartupCalibration test found s
  | .inputUv mv us present => Sys2Proof.Machine.execInputUv mv us present s
  | .inputOv mv us => Sys2Proof.Machine.execInputOv mv us s
  | .inputOc ma us => Sys2Proof.Machine.execInputOc ma us s
  | .leakDetected => Sys2Proof.Machine.execLeakDetected s
  | .thermalSample r => Sys2Proof.Machine.execThermalSample r s
  | .criticalSensorRead r => Sys2Proof.Machine.execCriticalSensorRead r s
  | .telemetryCapture m => Sys2Proof.Machine.execTelemetryCapture m s
  | .powerOn args => Sys2Proof.Machine.execPowerOn args s
  | .powerOff args => Sys2Proof.Machine.execPowerOff args s
  | .wake args => Sys2Proof.Machine.execWake args s
  | .i3cSelect args => Sys2Proof.Machine.execI3cSelect args s
  | .i3cDynamicAddress addr => Sys2Proof.Machine.execI3cDynamicAddress addr s
  | .scrub line => Sys2Proof.Machine.execScrub line s
  | .hbmPhyCalibration bay pc => Sys2Proof.Machine.execHbmPhyCalibration bay pc s
  | .correctedLineRewrite line => Sys2Proof.Machine.execCorrectedLineRewrite line s
  | .intervalCheck p => Sys2Proof.Machine.execIntervalCheck p s
  | .hbmRowRepair bay pc row => Sys2Proof.Machine.execHbmRowRepair bay pc row s
  | .reencryptionPage p => Sys2Proof.Machine.execReencryptionPage p s
  | .tierPageAck p page => Sys2Proof.Machine.execTierPageAck p page s
  | .cxlDeviceFail x => Sys2Proof.Machine.execCxlDeviceFail x s
  | .flashSpareExhausted => Sys2Proof.Machine.execFlashSpareExhausted s
  | .tileFailed t => Sys2Proof.Machine.execTileFailed t s
  | .contextSlice core => Sys2Proof.Machine.execContextSlice core s
  | .getVersion f msg => Sys2Proof.Machine.execGetVersion f msg s
  | .getCapabilities f msg => Sys2Proof.Machine.execGetCapabilities f msg s
  | .negotiateAlgorithms f msg => Sys2Proof.Machine.execNegotiateAlgorithms f msg s
  | .getDigests f msg => Sys2Proof.Machine.execGetDigests f msg s
  | .getCertificate f msg => Sys2Proof.Machine.execGetCertificate f msg s
  | .challenge f msg => Sys2Proof.Machine.execChallenge f msg s
  | .getMeasurements f msg => Sys2Proof.Machine.execGetMeasurements f msg s
  | .chunkSend f msg => Sys2Proof.Machine.execChunkSend f msg s
  | .chunkGet f msg => Sys2Proof.Machine.execChunkGet f msg s
  | .unsupportedRequest f msg => Sys2Proof.Machine.execUnsupportedRequest f msg s
  | .encapGet f msg => Sys2Proof.Machine.execEncapGet f msg s
  | .keyPut f msg => Sys2Proof.Machine.execKeyPut f msg s
  | .keyDrop f msg => Sys2Proof.Machine.execKeyDrop f msg s
  | .tierRotate f msg => Sys2Proof.Machine.execTierRotate f msg s
  | .keyStatus f msg => Sys2Proof.Machine.execKeyStatus f msg s
  | .oscFail => Sys2Proof.Machine.execOscFail s
  | .bayZeroingComplete bay => Sys2Proof.Machine.execBayZeroingComplete bay s
  | .namespaceEraseComplete p => Sys2Proof.Machine.execNamespaceEraseComplete p s
  | .windowZeroingComplete p => Sys2Proof.Machine.execWindowZeroingComplete p s
  | .copyComplete f n => Sys2Proof.Machine.execCopyComplete f n s
  | .tableBufferWrite p buf line data => Sys2Proof.Machine.execTableBufferWrite p buf line data s

end Sys2Proof.Machine
end

