-- ==== Sys2Proof/Machine/RegRead.lean ====
section
/-!
DEFINITION. What the host reads: BAR0 of a function and the management window of PF0 (R472 to R487, Tables HST-2, CHK-3,
CHK-4, OPS-9), and the status blocks of I3C (R465). A read changes no state, and the table has no row for one.
-/
namespace Sys2Proof.Machine

/-- A 32-bit word of a list of 64-bit fields placed at offsets; zero between them. -/
def wordAt (fields : List (Nat × Nat)) (off : Nat) : Reg :=
  match fields.find? (fun e => e.1 ≤ off && off < e.1 + 8) with
  | some (o, v) => BitVec.ofNat 32 (if off = o then v % 2 ^ 32 else v / 2 ^ 32)
  | none => 0

/-! ### Records (R444) -/

/-- The 8 bytes of a location. -/
def Loc.bytes (l : Option Loc) : Bytes :=
  match l with
  | none => leBytes 1 0xFF ++ leBytes 7 0
  | some l => leBytes 1 l.tile ++ leBytes 1 (if l.stream == .execute then 1 else 0) ++ leBytes 2 l.index
      ++ leBytes 2 l.iter0 ++ leBytes 2 l.iter1

/-- The OBJECT word of a record. R228 has a MEM_UE record name the partition-relative bay and Table CHK-3 gives no
field for it: of an HBM line the model puts it above bit 40 of OBJECT, where the UE log has it (DESIGN CHOICE, log
126). -/
def FaultRec.objectWord (r : FaultRec) : Nat := r.object + r.bay * 2 ^ 40

/-- The 64 bytes of a fault or hazard record; the physical tiles appear in the copy of PF0 alone (R100, R445). -/
def FaultRec.bytes (r : FaultRec) (pf : Bool) : Bytes :=
  let flags := (if r.locB.isSome then 1 else 0) + (if pf && r.ptileA.isSome then 2 else 0)
  let tile (t : Option Nat) : Bytes := leBytes 1 (if pf then t.getD 0xFF else 0)
  leBytes 2 r.code ++ leBytes 1 r.cause ++ leBytes 1 flags ++ leBytes 4 r.seq ++ leBytes 8 r.cycle ++ Loc.bytes r.locA
    ++ Loc.bytes r.locB ++ leBytes 8 r.objectWord ++ tile r.ptileA ++ tile r.ptileB ++ leBytes 22 0

/-- A word of a log of records. -/
def logWord (l : List FaultRec) (pf : Bool) (rel : Nat) : Reg :=
  match l[rel / 64]? with
  | some r => BitVec.ofNat 32 (leAt (r.bytes pf) (rel % 64) 4)
  | none => 0

/-! ### Telemetry (Tables REG-6, REG-7, REG-8) -/

/-- Code of a port state (PORT_STATE0). -/
def PortSt.code : PortSt → Nat
  | .down => 0
  | .train => 1
  | .calibrate => 2
  | .active => 3
  | .narrow => 4
  | .keepalive => 5
  | .isolated => 6

/-- The fields of a port block. -/
def portFields (q : Nat) (st : PortSt) (c : PortCnt) : List (Nat × Nat) :=
  [(0x00, c.corrupt.word)] ++ (List.range 5).map (fun l => (0x08 + 8 * l, (c.symbols[l]!).word))
  ++ [(0x30, c.uncorrectable.word), (0x38, c.duplicates.word), (0x40, c.beyond.word), (0x48, c.selReplays.word)]
  ++ [(0x50, c.goBacks.word), (0x58, c.stallRods.word), (0x60, c.displaced.word)]
  ++ (List.range 9).map (fun i => (0x68 + 8 * i, (c.violations[i]!).word))
  ++ [(0xB0, c.stateChanges.word), (0xB8, q + 16 * st.code)]

/-- An entry of the UE log: cycle, line, level, bay index, logical tile, valid. -/
def ueFields (x : Partition) (i : Nat) (e : UeEntry) : List (Nat × Nat) :=
  let index (b : Nat) : Nat := (x.bays.idxOf b)
  let (line, level, bay) := match e.ref with
    | .localStore q l => (l, 1, index (q.val / 9))
    | .hbm b l => (l, 2, index b.val)
  [(0x400 + 16 * i, e.cycle),
   (0x400 + 16 * i + 8, line + level * 2 ^ 32 + bay * 2 ^ 40 + e.tile * 2 ^ 48 + 2 ^ 56)]

/-- The fields of a partition's snapshot, from its offset 0x8000. -/
def snapFields (x : Partition) (s : Snapshot) : List (Nat × Nat) :=
  let t := s.tel
  let h := t.lastHold.getD { target := 0, ext := 0, reason := 0, origin := 0 }
  [(0x00, s.capture), (0x08, s.tick % 2 ^ 56), (0x10, t.holdCount.word), (0x18, t.holdExt.word), (0x20, t.holdRods.word)]
  ++ (List.range 4).map (fun c => (0x28 + 8 * c, (t.holdOrig[c]!).word))
  ++ [(0x48, h.target), (0x50, h.ext % 16 + h.reason * 2 ^ 8 + h.origin.toNat * 2 ^ 32), (0x58, t.selChoices.word)]
  ++ [(0x60, t.selDropped.word), (0x68, t.selRerouted.word), (0x70, t.satEvents.word), (0x78, t.invalidEvents.word)]
  ++ (List.range 4).map (fun v => (0x80 + 8 * v, (t.ce[v]!).word))
  ++ [(0xA0, t.queueResidue.word), (0xA8, t.stepsRun.word), (0xB0, t.stepsOff.word), (0xB8, t.checkPasses.word)]
  ++ [(0xC0, t.unchecked.word), (0xC8, t.mismatched.word), (0xD0, t.energy.word)]
  ++ [(0xD8, s.power + (s.step + (if s.emergency then 4 else 0)) * 2 ^ 32), (0xE0, t.fenceDrop.word), (0xE8, t.lateAnswer.word)]
  ++ [(0xF0, (t.holdOrig[4]!).word), (0x100, s.tileSat.toNat), (0x108, s.tileInvalid.toNat)]
  ++ s.builds.mapIdx (fun i b => (0x200 + 8 * i, b.toNat))
  ++ (t.ueLog.mapIdx (fun i e => ueFields x i e)).flatten
  ++ (s.ports.mapIdx (fun k (q, st, c) => (portFields q st c).map (fun e => (0x1000 + 0x100 * k + e.1, e.2)))).flatten
  ++ [(0x2000, s.capture)]

/-- A word of the snapshot that stands exchanged. -/
def snapWord (m : Mod) (x : Partition) (rel : Nat) : Reg := wordAt (snapFields x (x.snaps[m.regs.capture % 2]!)) rel

/-- The 24 values of 16 bits of a meter reading (Table REG-8, R465). -/
def meterValues (k : Meters) : List Nat :=
  let r := k.sensors
  let t (x : Int) : Nat := unsigned 16 x
  [k.volt, k.amp, k.watt] ++ r.compute.map t ++ r.base.map t ++ r.hbm.map t ++ [t r.hub, t r.inlet, t r.outlet, r.flow, r.pressure]

/-- The bytes of the meter values. -/
def meterBytes (k : Meters) : Bytes := (meterValues k).flatMap (fun v => leBytes 2 v)

/-- A word of the module snapshot. -/
def modSnapWord (m : Mod) (rel : Nat) : Reg :=
  let s := m.regs.snaps[m.regs.capture % 2]!
  if 0x10 ≤ rel && rel < 0x40 then BitVec.ofNat 32 (leAt (meterBytes s.meters) (rel - 0x10) 4)
  else if 0x48 ≤ rel && rel < 0x50 then BitVec.ofNat 32 (leAt (s.repairRows.flatMap (fun v => leBytes 1 v)) (rel - 0x48) 4)
  else if 0x80 ≤ rel && rel < 0xC0 then BitVec.ofNat 32 (leAt (s.tileMap.flatMap (fun v => leBytes 1 v)) (rel - 0x80) 4)
  else wordAt
    [(0x00, s.capture), (0x08, s.tick % 2 ^ 56), (0x40, s.tileSpare.toNat + s.laneSpare.toNat * 2 ^ 32),
     (0x50, s.meters.spareBlocks), (0x58, s.meters.flashWritten), (0x60, s.dbDropped.word), (0x68, s.dbInvalid.word),
     (0x70, s.meshFence.word), (0x78, s.ctxFence.word), (0xC0, s.replCause.toNat + s.replPort.toNat * 2 ^ 32),
     (0xC8, s.capture)] rel

/-- A log entry of a port: 16 bytes of a violation, or 32 of a fence record (R487). -/
def fenceBytes (r : FenceRec) : Bytes := leBytes 16 r.header.toNat ++ leBytes 2 r.domain.toNat ++ leBytes 1 r.vc ++ leBytes 13 0

/-- BAR2 of PF0 (R487). -/
def readBar2 (s : State) (off : Nat) : Reg :=
  let m := s.m
  if !s.pf0Live || off % 4 ≠ 0 then 0
  else if off < 0x40000 then snapWord m (m.part (toFin 8 (off / 0x8000))) (off % 0x8000)
  else if off < 0x41000 then modSnapWord m (off - 0x40000)
  else if 0x50000 ≤ off && off < 0x52000 then
    logWord (m.part (toFin 8 ((off - 0x50000) / 0x400))).faultLog true ((off - 0x50000) % 0x400)
  else if 0x52000 ≤ off && off < 0x53000 then
    let bytes := (m.port (toFin 16 ((off - 0x52000) / 0x100))).violLog.flatMap (fun b => sliceB b 0 12 ++ leBytes 4 0)
    BitVec.ofNat 32 (leAt bytes ((off - 0x52000) % 0x100) 4)
  else if 0x53000 ≤ off && off < 0x55000 then
    let bytes := (m.port (toFin 16 ((off - 0x53000) / 0x200))).fenceLog.flatMap fenceBytes
    BitVec.ofNat 32 (leAt bytes ((off - 0x53000) % 0x200) 4)
  else 0

/-! ### Rings and status words -/

/-- STATE of a ring (Table HST-2). -/
def RingSt.code : RingSt → Nat
  | .disabled => 0
  | .running => 1
  | .error => 2
  | .draining => 3

/-- A word of a ring pair. -/
def RingPair.word (r : RingPair) (k : Nat) : Reg :=
  match k with
  | 0 => r.sqLo.active
  | 1 => r.sqHi.active
  | 2 => r.cqLo.active
  | 3 => r.cqHi.active
  | 4 => r.ctrl.active
  | 5 => BitVec.ofNat 32 (r.head + r.st.code * 2 ^ 16)
  | _ => 0

/-- A word of the result ring. -/
def ResultRing.word (r : ResultRing) (k : Nat) : Reg :=
  match k with
  | 0 => r.lo.active
  | 1 => r.hi.active
  | 2 => r.wbLo.active
  | 3 => r.wbHi.active
  | 4 => r.ctrl.active
  | 5 => BitVec.ofNat 32 (r.tail + r.st.code * 2 ^ 16)
  | _ => 0

/-- PWR_STATUS (Table OPS-9); its STATE has three codes of a READY module, and STANDBY. -/
def pwrStatus (s : State) : Nat :=
  let p := s.hub.power
  let st := match p.st with
    | .standby => 1
    | .ready => s.m.runState
    | _ => 2
  st + p.result * 2 ^ 3 + p.thermStep * 2 ^ 6
    + (if s.m.regs.replCause != 0 || s.m.regs.replPort != 0 then 2 ^ 8 else 0) + (if p.userCalLost then 2 ^ 9 else 0)
    + p.lastWake * 2 ^ 10

/-- CLK_STATUS: the state and the recovery lane (R33). -/
def clkStatus (s : State) : Nat :=
  let st := match s.hub.clock with
    | .off => 0
    | .acquiring => 1
    | .locked => 2
    | .holdover => 3
  let q := fld s.m.regs.clk.active 4 1
  let lane := (minL (activeLanes (s.m.port (toFin 16 q)).rxLanes)).getD 0
  st + (5 * q + lane) * 2 ^ 2

/-- CHK_STATUS of a partition (Table CHK-4). -/
def chkStatus (x : Partition) : Nat :=
  min 65535 x.hazardCount + min 255 x.faultCount * 2 ^ 16 + (if x.flogOvf then 2 ^ 24 else 0) + (if x.hlogOvf then 2 ^ 25 else 0)

/-- What PF0 reads of the check registers of a partition (R447), which the spec places at no offset of PF0 (log 167). -/
def pf0Check (s : State) (p : Part) : Reg × Reg :=
  ((s.m.func (vfOf p)).chk.active, BitVec.ofNat 32 (chkStatus (s.m.part p)))

/-- ID_FUNC (Table REG-2). -/
def idFunc (m : Mod) (f : Fn) : Nat :=
  match partOfFn f with
  | none => 0xF * 2 ^ 4 + 0xFF * 2 ^ 8
  | some p => f.val + p.val * 2 ^ 4 + (if (m.part p).admitted then (m.part p).bayMask.toNat else 0) * 2 ^ 8

/-- The registers that every function carries, apart from its rings. -/
def readCommon (s : State) (f : Fn) (off : Nat) : Nat :=
  let x := s.m.func f
  match off with
  | 0x0000 => 0xA301
  | 0x0004 => s.m.stepping + s.m.option * 2 ^ 8 + 3 * 2 ^ 16
  | 0x0008 => idFunc s.m f
  | 0x0010 => Config.serial.toNat % 2 ^ 32
  | 0x0014 => Config.serial.toNat / 2 ^ 32
  | 0x0018 => ((partOfFn f).map (fun p => (s.m.part p).admissions.toNat)).getD 0
  | 0x0104 => x.parityInfo.toNat
  | 0x0108 => x.rejectInfo.toNat
  | 0x0200 => x.evtStatus
  | 0x0204 => x.evtMask.active.toNat
  | 0x0208 => x.thermStep
  | 0x020C => x.thermTick.toNat % 2 ^ 32
  | 0x0210 => x.thermTick.toNat / 2 ^ 32
  | 0x0214 => x.stalled
  | 0x0218 => x.stone
  | 0x021C => x.evtPort
  | 0x0220 => x.evtDomain.toNat
  | _ => 0

/-- The set-up registers of PF0 (Tables OPS-9 and REG-5). -/
def readPf0 (s : State) (off : Nat) : Nat :=
  let m := s.m
  let b := s.hub.boot
  let state (r : Nat) : Nat := ((List.range 8).map (fun i => (m.port (toFin 16 (8 * r + i))).st.code * 16 ^ i)).foldl (· + ·) 0
  let retired (j : Nat) : Nat :=
    ((List.range 32).map (fun i => if m.cal.retired.any (fun r => r.1 == 32 * j + i) then 2 ^ i else 0)).foldl (· + ·) 0
  if 0x0B20 ≤ off && off ≤ 0x0B5C then leAt (m.tileMap.toList.flatMap (fun v => leBytes 1 v)) (off - 0x0B20) 4
  else
    match off with
    | 0x0800 => (if s.hub.power.wakeDb then 2 ^ 3 else 0) + (if s.hub.power.wakeTtl then 2 ^ 4 else 0)
    | 0x0804 => pwrStatus s
    | 0x0808 => m.regs.replCause.toNat
    | 0x080C => m.regs.replPort.toNat
    | 0x0900 => m.regs.clk.active.toNat
    | 0x0904 => clkStatus s
    | 0x0908 => m.node.toNat + (if m.regs.nodeWritten then 2 ^ 31 else 0)
    | 0x0A00 => m.regs.portEn.active.toNat
    | 0x0A08 => state 0
    | 0x0A0C => state 1
    | 0x0B04 => m.regs.holdReq
    | 0x0B0C => retired 0
    | 0x0B10 => retired 1
    | 0x0B14 => retired 2
    | 0x0C00 => b.code + (if s.hub.power.st == .recovery then 2 ^ 8 else 0)
    | 0x0C04 => b.svn
    | 0x0C08 => b.svnMin
    | 0x0C0C => b.raises
    | 0x0C10 => b.fwAddr.toNat % 2 ^ 32
    | 0x0C14 => b.fwAddr.toNat / 2 ^ 32
    | 0x0C18 => b.fwLen.toNat
    | 0x0C20 => b.fwState + b.fwCode % 256 * 2 ^ 8 + (if b.commitRefused then 2 ^ 16 else 0)
    | _ => 0

/-- The registers of a VF apart from the common ones. -/
def readVf (s : State) (f : Fn) (p : Part) (off : Nat) : Reg :=
  let x := s.m.part p
  if off = 0x0700 then (s.m.func f).chk.active
  else if off = 0x0704 then BitVec.ofNat 32 (chkStatus x)
  else if off = 0x0710 then (s.m.func f).partCfg.active
  else if 0x2000 ≤ off && off < 0x2400 then logWord x.faultLog false (off - 0x2000)
  else if 0x2400 ≤ off && off < 0x3400 then logWord x.hazardLog false (off - 0x2400)
  else if 0x8000 ≤ off && off < 0x10000 then snapWord s.m x (off - 0x8000)
  else 0

/-- A read of BAR0: four bytes enabled and aligned, else zero; in RECOVERY the identification and firmware blocks of PF0
alone; a VF of no admitted partition reads zero. -/
def readBar0 (s : State) (f : Fn) (off : BitVec 16) (be : BitVec 4) : Reg :=
  let o := off.toNat
  let recovery := s.hub.power.st == .recovery && f == pf0 && s.m.hostUp && (o < 0x0100 || (0x0C00 ≤ o && o < 0x0D00))
  if be ≠ 0xF || o % 4 ≠ 0 || !(recovery || s.regLive f o) then 0
  else if o < 0x0300 then BitVec.ofNat 32 (readCommon s f o)
  else if 0x0400 ≤ o && o < 0x0600 then
    let n := (o - 0x0400) / 0x20
    if n < fnPairs f then ((s.m.func f).pair (toFin 16 n)).word (o % 0x20 / 4) else 0
  else
    match partOfFn f with
    | none => BitVec.ofNat 32 (readPf0 s o)
    | some p => if 0x0600 ≤ o && o < 0x0620 then (s.m.func f).result.word ((o - 0x0600) / 4) else readVf s f p o

/-! ### I3C (R463, R465) -/

/-- Status block 0 (Table PHY-5). -/
def i3cStatus (s : State) : Nat :=
  let p := s.hub.power
  s.hub.stateCode s.m + p.fault * 2 ^ 3 + (if p.latched then 2 ^ 8 else 0) + (if p.cmdErr then 2 ^ 9 else 0) + p.thermStep * 2 ^ 10

/-- What a private read returns: the block selected, block 1 from a meter reading; nothing without 56 V. -/
def i3cRead (s : State) (k : Meters) : Bytes :=
  if !s.hub.power.input then []
  else
    match s.hub.power.block with
    | 0 => leBytes 2 (i3cStatus s)
    | 1 => meterBytes k
    | _ => leBytes 4 0xA301 ++ leBytes 8 Config.serial.toNat ++ leBytes 1 s.m.stepping ++ leBytes 1 s.m.option

end Sys2Proof.Machine
end

