-- ==== Sys2Proof/Safety.lean ====
section
/-!
DEFINITION. What counts as a safe run: the canonical form of every memory, the relations that the hub's state keeps,
the moves that the spec allows to the power state, and what it is for a command to issue.
-/
namespace Sys2Proof.Machine

/-! ### Memories -/

/-- Every memory of the module stands in its canonical form. -/
def Mod.memWf (m : Mod) : Bool :=
  m.ls.toList.all Mem.wf && m.hbm.toList.all Mem.wf && Mem.wf m.hostMem && m.cxl.toList.all (fun d => Mem.wf d.data)

/-! ### The hub (Tables TIM-1, OPS-1, PHY-1, PHY-5; R388, R395, R417 to R420, R429, R436, R456, R464) -/

/-- What every step keeps of the power state, the fast clock, the fused minimum and the core rotation. -/
structure Hub.Inv (h : Hub) : Prop where
  /-- OFF: the fast clock is OFF, and no wake, STANDBY entry, shutdown or waiting doorbell stands. -/
  off : h.power.st = .off → h.clock = .off ∧ h.power.waking = false ∧ h.power.entering = false ∧ h.power.leaving = none
    ∧ h.power.doorbells = []
  /-- Without 56 V the module is OFF. -/
  input : h.power.input = false → h.power.st = .off
  /-- A latched input fault holds the module OFF (R456). -/
  latched : h.power.latched = true → h.power.st = .off
  /-- STANDBY: the fast clock is OFF unless the module wakes (Table OPS-1, R418). -/
  standby : h.power.st = .standby → (h.clock = .off ↔ h.power.waking = false)
  /-- READY: the fast clock is not OFF, and no wake stands. -/
  ready : h.power.st = .ready → h.clock ≠ .off ∧ h.power.waking = false
  /-- A wake stands in STANDBY alone, and a STANDBY entry in READY alone. -/
  waking : h.power.waking = true → h.power.st = .standby
  entering : h.power.entering = true → h.power.st = .ready
  /-- RECOVERY, and the first steps of start-up: the fast clock has not begun to acquire. -/
  recovery : h.power.st = .recovery → h.clock = .off
  startup : h.power.st = .startup → h.power.step ≤ 4 ∧ (h.power.step < 3 → h.clock = .off)
  /-- The thermal step is 0 to 3, its count of samples below 10 (R429). -/
  therm : h.power.thermStep ≤ 3 ∧ h.power.zeroRun < 10
  /-- At most 64 raises of the fused minimum (R395). -/
  raises : h.boot.raises ≤ 64
  /-- Each core is in slot 0, 1 or 2 of its rotation (R388). -/
  slices : ∀ k : Fin 4, h.slices.get k < 3
  /-- The codes of Tables REG-5 and PHY-5. -/
  codes : h.power.block ≤ 2 ∧ h.power.result ≤ 5 ∧ h.power.lastWake ≤ 5 ∧ h.power.fault ≤ 9

/-- The moves of the power state in one step that Table OPS-2, start-up and RECOVERY allow. -/
def powerMove : PowerSt → PowerSt → Bool
  | .off, .startup => true
  | .startup, .ready => true
  | .startup, .recovery => true
  | .recovery, .startup => true
  | .ready, .standby => true
  | .standby, .ready => true
  | _, .off => true
  | a, b => a == b

/-! ### Commands of the tile streams, as the statements speak of them -/

/-- Everything but the tiles, the partition p and the counts stands as before: the hub, the queue, the memories, the other
partitions and tiles, wall time and the plan counter. -/
structure TileFrame (p : Part) (t : TileId) (s s' : State) : Prop where
  hub : s'.hub = s.hub
  pending : s'.pending = s.pending
  wall : s'.m.wall = s.m.wall
  counter : (s'.m.part p).ctr = (s.m.part p).ctr
  tiles : ∀ u, u ≠ t → s'.m.tile u = s.m.tile u
  parts : ∀ q, q ≠ p → s'.m.part q = s.m.part q
  stores : s'.m.ls = s.m.ls
  hbmStacks : s'.m.hbm = s.m.hbm
  host : s'.m.hostMem = s.m.hostMem

/-- The command word that a stream comes to. -/
def nextWord (t : TileId) (st : Stream) (m : Mod) : CmdWord := (m.tile t).code st ((m.tile t).stream st).pc

/-- The plan cycle of a partition. -/
def nowOf (p : Part) (s : State) : Nat := (s.m.part p).ctr

/-- What a command sees as it issues in the present cycle: the header's view of the tile, and of the lines it reads those
that commands in flight write, as they stand for it (R85). -/
def issuedCtx (d : OpDef) (p : Part) (t : TileId) (st : Stream) (m : Mod) : Ctx := seeLines d (issueCtx d false p t st m)

/-- A stream comes to a command whose issue conditions of R64 hold in the present cycle: the plan runs, the word at the
program index carries the opcode and can be read. -/
structure ComesNow (d : OpDef) (p : Part) (t : TileId) (st : Stream) (s : State) : Prop where
  part : s.m.partOfTile t = some p
  live : (s.m.part p).live = true
  goes : ((s.m.tile t).stream st).ended = false
  inside : ((s.m.tile t).stream st).pc < 4096
  carried : d.carries st = true
  opcode : cmdOp (nextWord t st s.m) = d.op
  sound : (s.m.tile t).imemErr.any (fun e => e.1 == st && e.2.1 == ((s.m.tile t).stream st).pc && e.2.2) = false
  ready : readyAt d (s.m.tile t) st (nextWord t st s.m) (nowOf p s) = .inl (nowOf p s)

/-- The entries and the flag of its header can be read too, and its references resolve (R106). -/
structure ResolvesNow (d : OpDef) (p : Part) (t : TileId) (st : Stream) (s : State) : Prop extends ComesNow d p t st s where
  cells : (s.m.tile t).badCell (headerCells (s.m.tile t) (nextWord t st s.m)) = none
  refs : (checkRefs (issueCtx0 false p t st s.m) (d.refs (nextWord t st s.m))).1 = none

/-- The conditions under which the command that a stream comes to issues in the present cycle with its own effect: the
checks of its opcode find no fault either. -/
structure IssuesNow (d : OpDef) (p : Part) (t : TileId) (st : Stream) (s : State) : Prop extends ResolvesNow d p t st s where
  own : (d.effect (issuedCtx d p t st s.m)).fault = none

/-- Faults that wait for the end of their cycle, when they stop the plan, hold one with this code, cause, OBJECT, cycle and
location A (R141, R445); an HBM line comes with its bay above bit 40. -/
def dueAs (x : Partition) (code cause object cycle : Nat) (loc : Option Loc) : Prop :=
  ∃ r ∈ x.dueFaults, r.code = code ∧ r.cause = cause ∧ r.object = recordObject code cause object
    ∧ r.bay = x.recordBay code cause object ∧ r.cycle = cycle ∧ r.locA = loc

/-- Such a fault is due in a state, of a command at a location. -/
def FaultDue (p : Part) (code cause object cycle : Nat) (loc : Loc) (s' : State) : Prop :=
  dueAs (s'.m.part p) code cause object cycle (some loc)

/-- The location of the command that a stream comes to. -/
def nextLoc (t : TileId) (st : Stream) (m : Mod) : Loc :=
  { tile := t.val, stream := st, index := ((m.tile t).stream st).pc
    iter0 := ((m.tile t).stream st).iters.1, iter1 := ((m.tile t).stream st).iters.2.1 }

/-- A command has issued in the present cycle and completes at a cycle: program order has moved on, and it is the
youngest command in flight, with its queue reservation, the entry it pushes, its signal and what it lands. -/
structure IssuedAs (d : OpDef) (p : Part) (t : TileId) (st : Stream) (s : State) (loop : Option Loop) (done : Nat)
    (entry : BitVec 64) (land : Landing) (s' : State) : Prop where
  frame : TileFrame p t s s'
  stream : (s'.m.tile t).stream st
    = stepStream ((s.m.tile t).stream st) ((s.m.tile t).stream st).pc (nowOf p s) loop false
  flight : ∃ i, (s'.m.tile t).inflight.getLast? = some i ∧ i.stream = st ∧ i.index = ((s.m.tile t).stream st).pc
    ∧ i.op = d.op ∧ i.issue = nowOf p s ∧ i.complete = done ∧ i.sig = cmdSig (nextWord t st s.m)
    ∧ i.push = (cmdPush (nextWord t st s.m)).map (fun k => (k, (s.m.tile t).nextId, entry)) ∧ i.landing = land

/-- A command that a check stops at its issue: its fault is due in this cycle, and nothing of it is in flight or held. -/
structure StopsAs (p : Part) (t : TileId) (st : Stream) (s : State) (code cause object : Nat) (s' : State) : Prop where
  frame : TileFrame p t s s'
  fault : FaultDue p code cause object (nowOf p s) (nextLoc t st s.m) s'
  flight : (s'.m.tile t).inflight = (s.m.tile t).inflight
  held : (s'.m.tile t).ventries = (s.m.tile t).ventries

/-- The rows of the tile streams. -/
def streamRows : List (OpDef × (TileId → Stream → Instr)) :=
  [(endDef, .endCmd), (syncDef, .sync), (repeatDef, .repeatCmd), (psetDef, .pset), (fsetDef, .fset), (qpushDef, .qpush),
   (loadHbmDef, fun t _ => .loadHbm t), (storeHbmDef, fun t _ => .storeHbm t), (pageGatherDef, fun t _ => .pageGather t),
   (pageScatterDef, fun t _ => .pageScatter t), (sendDef, fun t _ => .send t), (releaseDef, fun t _ => .release t),
   (cxlReadDef, fun t _ => .cxlRead t), (cxlWriteDef, fun t _ => .cxlWrite t), (flashStageDef, fun t _ => .flashStage t),
   (hostReadDef, fun t _ => .hostRead t), (hostWriteDef, fun t _ => .hostWrite t), (seedHwDef, fun t _ => .seedHw t),
   (cxlGatherDef, fun t _ => .cxlGather t)]
  ++ [(matmulDef, fun t _ => .matmul t), (accaddDef, fun t _ => .accadd t), (vloadDef, fun t _ => .vload t),
   (vstoreDef, fun t _ => .vstore t), (vopDef, fun t _ => .vop t), (transDef, fun t _ => .trans t),
   (selectDef, fun t _ => .select t)]

/-- The hand-overs of the present furlong of partition p are made, and no fault of the module is due (R45). -/
structure HandedOver (p : Part) (m : Mod) : Prop where
  quiet : ∀ q, (m.part q).dueFaults = []
  released : ∀ t ∈ (m.part p).tiles, unreleased (m.tile t) (m.part p).furlong = []
  sent : ∀ e ∈ (m.part p).member.sched.sends (m.part p).furlong, some e.member = m.memberIndex p →
    ∀ t, (m.part p).tileAt e.tile = some t → (m.tile t).sends.contains e.xfer = true

/-- A planned flit is at risk: its wall slack is at most Theta (R48). -/
def atRisk (x : Partition) (wall : Nat) (f : TxFlit) : Prop :=
  f.planned = true ∧ wallSlack x wall f.deadline f.rem ≤ x.member.params.theta

/-- A domain fails in a partition: its plan has stopped, its member is in TEARDOWN since now, with the cause. -/
structure DomainFailed (p : Part) (cause : Nat) (s s' : State) : Prop where
  stopped : (s'.m.part p).running = false
  teardown : (s'.m.part p).member.st = .teardown
  cause : (s'.m.part p).member.failed = some cause
  since : (s'.m.part p).member.since = s.m.wall
  vfEvent : (s'.m.func (vfOf p)).events.any (fun e => e.1 == evDomainFailed) = true
  pfEvent : (s'.m.func pf0).events.any (fun e => e.1 == evDomainFailed) = true

/-- A V command issues: it is the youngest held V entry of its tile, with its deadline at the first cycle of furlong
f + DLF, nothing of it used and its external part not ended, or failed where its window is not set up (R133 to R137). -/
structure HeldAs (d : OpDef) (p : Part) (t : TileId) (s : State) (dlf : Nat) (s' : State) : Prop where
  hub : s'.hub = s.hub
  pending : s'.pending = s.pending
  wall : s'.m.wall = s.m.wall
  tiles : ∀ u, u ≠ t → s'.m.tile u = s.m.tile u
  stores : s'.m.ls = s.m.ls
  hbmStacks : s'.m.hbm = s.m.hbm
  flight : (s'.m.tile t).inflight.length = (s.m.tile t).inflight.length
  held : ∃ v, (s'.m.tile t).ventries.getLast? = some v
    ∧ (s'.m.tile t).ventries.length = (s.m.tile t).ventries.length + 1
    ∧ v.op = d.op ∧ v.index = ((s.m.tile t).stream .access).pc ∧ v.issue = nowOf p s ∧ v.used = 0 ∧ v.entered = false
    ∧ v.deadline = (s.m.part p).furStart ((s.m.part p).furlongOf (nowOf p s) + dlf)
    ∧ v.skipped = (issueCtx d false p t .access s.m).skip
    ∧ v.sig = cmdSig (nextWord t .access s.m)
    ∧ (v.ext = .pending ∨ ∃ o, v.ext = .failed vUnregistered o)

/-! ### What a row leaves alone -/

/-- The hub, the queue, wall time and every plan counter stand. -/
structure Still (s s' : State) : Prop where
  hub : s'.hub = s.hub
  pending : s'.pending = s.pending
  wall : s'.m.wall = s.m.wall
  counters : ∀ p, (s'.m.part p).ctr = (s.m.part p).ctr

/-- The local stores, the stacks, host memory and the CXL devices stand. -/
structure MemoriesStand (s s' : State) : Prop where
  stores : s'.m.ls = s.m.ls
  hbmStacks : s'.m.hbm = s.m.hbm
  host : s'.m.hostMem = s.m.hostMem
  cxl : s'.m.cxl = s.m.cxl

/-- A run of bytes that holds an address. -/
def covers (w : Nat × Bytes) (a : Nat) : Prop := w.1 ≤ a ∧ a < w.1 + w.2.length

/-- A memory in which a run of bytes stands at an address, and which is as it was outside it. -/
def Mem.became (old new : Mem) (a : Nat) (bs : Bytes) : Prop :=
  ∀ x, new.byte x = if a ≤ x ∧ x < a + bs.length then bs.getD (x - a) 0 else old.byte x

/-- A run of bytes stands at a place of a bay; all other bytes of the local stores and stacks are as before. -/
def BayBecame (m m' : Mod) (bay : Nat) (w : BayPlace) (bs : Bytes) : Prop :=
  match w with
  | .hbm a => m'.ls = m.ls ∧ (∀ b, b ≠ toFin 8 bay → m'.hbm.get b = m.hbm.get b)
      ∧ Mem.became (m.hbm.get (toFin 8 bay)) (m'.hbm.get (toFin 8 bay)) a bs
  | .store i a => m'.hbm = m.hbm
      ∧ (∀ k, k ≠ m.physOf (toFin 64 (8 * bay + i)) → m'.ls.get k = m.ls.get k)
      ∧ Mem.became (m.store (toFin 64 (8 * bay + i))) (m'.store (toFin 64 (8 * bay + i))) a bs

/-- The packet at the head of a receive queue has been taken, and nothing behind it. -/
def PacketTaken (q : PortId) (vc : Nat) (s s' : State) : Prop :=
  (s'.m.port q).pkts[vc]!.length + 1 = (s.m.port q).pkts[vc]!.length

/-- The requests of a member after its first one awaiting an answer with a tag has completed with a code; where none awaits
one, they stand, and the answer is counted as late (R288). -/
def Answered (p : Part) (tag : BitVec 12) (code : Nat) (s s' : State) : Prop :=
  (∀ pre r post, (s.m.part p).member.requests = pre ++ r :: post → (∀ k ∈ pre, ¬ (k.tag = tag ∧ k.done = none)) →
    r.tag = tag → r.done = none → (s'.m.part p).member.requests = pre ++ { r with done := some code } :: post) ∧
  ((∀ k ∈ (s.m.part p).member.requests, ¬ (k.tag = tag ∧ k.done = none)) →
    (s'.m.part p).member.requests = (s.m.part p).member.requests
      ∧ (s'.m.part p).tel.lateAnswer = (s.m.part p).tel.lateAnswer.add 1)

/-- A member awaits an answer with a tag. -/
def awaits (x : Partition) (tag : BitVec 12) : Prop := ∃ k ∈ x.member.requests, k.tag = tag ∧ k.done = none

/-- Nothing but one port, the partition that holds its bay, and what is reported of them differs. -/
structure PortFrame (q : PortId) (s s' : State) : Prop where
  still : Still s s'
  memories : MemoriesStand s s'
  tiles : s'.m.tiles = s.m.tiles
  ports : ∀ r, r ≠ q → s'.m.port r = s.m.port r

/-! ### Slots of a port, as the statements speak of them -/

/-- A slot of a port begins in the present cycle, and the port does not leave for KEEPALIVE in it (R243, R268). -/
structure SlotBegins (q : PortId) (s : State) : Prop where
  sends : (s.m.port q).st = .active ∨ (s.m.port q).st = .narrow ∨ (s.m.port q).st = .calibrate
  begins : s.m.nextSlot q (max (s.m.port q).slotAt s.m.wall) = s.m.wall
  stays : (s.m.port q).kaDue = false ∨ s.m.nextFrame q s.m.wall ≠ s.m.wall

/-- A new flit has left a port: it carries the next sequence number, is checked under it, and is kept for a replay (R246,
R254). -/
structure SentNew (q : PortId) (f : TxFlit) (s s' : State) : Prop where
  kept : (s'.m.port q).replayBuf
    = (s.m.port q).replayBuf ++ [{ seq := (s.m.port q).nextSeq, flit := { f with domain := (s.m.port q).domain } }]
  number : (s'.m.port q).nextSeq = ((s.m.port q).nextSeq + 1) % 4096
  sent : ∃ w, (s'.m.port q).sent = some w ∧ w.seq = (s.m.port q).nextSeq ∧ w.payload = sliceB f.payload 0 240
    ∧ w.check = flitCheck (leBytes 8 w.header.toNat ++ w.payload) (implicitWord (some (s.m.port q).nextSeq))

/-- An IDLE has left a port: it takes no number (R246). -/
structure SentIdle (q : PortId) (s s' : State) : Prop where
  kept : (s'.m.port q).replayBuf = (s.m.port q).replayBuf
  number : (s'.m.port q).nextSeq = (s.m.port q).nextSeq
  sent : ∃ w, (s'.m.port q).sent = some w ∧ w.seq = 0xFFFF ∧ w.payload = List.replicate 240 0

/-- Nothing of orders 1 to 6 of Table LNK-5 is ready for an unassigned slot of a port in ACTIVE or NARROW. -/
structure OrderSeven (q : PortId) (s : State) : Prop where
  carries : (s.m.port q).carries = true
  free : s.m.slotAssigned q = false
  unplanned : s.m.slotFlit q = none
  wide : (s.m.port q).wide = true → (s.m.port q).txHold = [] ∧ (s.m.port q).displacedQ = []
  replays : (s.m.port q).replays s.m.wall false = []
  lctl : (s.m.port q).nextLctl = none
  pv : (s.m.port q).txPv = []
  room : (s.m.port q).replayBuf.length < 1008

/-! ### Descriptors, as the statements speak of them -/

/-- The ring pair that has taken the descriptor at its head: HEAD has passed it, and its operation is in progress. -/
def RingPair.took (d : HostOp) (b : Bytes) (r : RingPair) : RingPair :=
  { r.advance with
    taken := r.taken + 1
    busy := some { no := r.taken + 1, opcode := d.op, tag := dTag b, index := r.head, irq := dIrq b, body := b } }

/-- A ring takes the single descriptor of an opcode that stands at its head (R368, R373). -/
structure TakesOp (d : HostOp) (f : Fn) (n : PairId) (b : Bytes) (s : State) : Prop where
  ready : s.hub.power.st = .ready
  takes : s.m.takes f n d.op = true
  fetched : s.m.headDesc f n = some b
  opcode : dOpcode b = d.op
  single : dGrp b = 0
  alone : s.m.waitsGroup f n b = false
  first : s.m.outrun f n ((s.m.func f).pair n).headAt (descPart f b).toList = false
  waits : d.waits f b s.m = false

/-- The operation that a ring has in progress under a record is no member of a group. -/
def AloneAt (k : Nat × Nat) (m : Mod) : Prop :=
  ∀ b, ((m.func (toFin 9 k.1)).pair (toFin 16 k.2)).busy = some b → b.group = false

/-- No deletion of a stone record waits at a ring of a partition. -/
def NoDeletionAt (f : Fn) (n : PairId) (x : Partition) : Prop :=
  ∀ ns, x.ns = some ns → ∀ r ∈ ns.dir, ∀ k, r.deleting = some k → ¬ (toFin 9 k.1 = f ∧ toFin 16 k.2 = n)

/-- The operation under a record, where its ring still holds it alone, has ended with a status, DETAIL and RESULT, and its
completion waits to be posted. -/
def EndedAt (k : Nat × Nat) (status detail result : Nat) (s s' : State) : Prop :=
  let r := (s.m.func (toFin 9 k.1)).pair (toFin 16 k.2)
  let r' := (s'.m.func (toFin 9 k.1)).pair (toFin 16 k.2)
  ∀ b, r.busy = some b → b.no = k.2 / 16 → b.group = false → b.lost = false →
    r'.busy = none ∧ r'.post = [{ tag := b.tag, index := b.index, head := r.head, status, detail, result, irq := b.irq }]

/-- No ring acts on a group, whose failure would undo what its members have done (R372). -/
def NoGroup (m : Mod) : Prop := ∀ f n b, ((m.func f).pair n).busy = some b → b.group = false

/-- The descriptor passes every check of R374. -/
structure PassesOp (d : HostOp) (f : Fn) (n : PairId) (b : Bytes) (s : State) : Prop where
  taken : TakesOp d f n b s
  passes : d.checks f b (updPair f n (·.took d b) s.m) = none

/-- The ring has taken its descriptor, and the completion with a status, DETAIL and RESULT waits to be posted. -/
structure OpEnded (f : Fn) (n : PairId) (b : Bytes) (status detail result : Nat) (s s' : State) : Prop where
  still : Still s s'
  stores : s'.m.ls = s.m.ls
  pair : (s'.m.func f).pair n = { ((s.m.func f).pair n).advance with
    taken := ((s.m.func f).pair n).taken + 1, busy := none
    post := [{ tag := dTag b, index := ((s.m.func f).pair n).head
               head := (((s.m.func f).pair n).head + 1) % ((s.m.func f).pair n).size
               status, detail, result, irq := dIrq b }] }

/-- The ring has taken its descriptor, and its operation is in progress. -/
structure OpBegun (d : HostOp) (f : Fn) (n : PairId) (b : Bytes) (s s' : State) : Prop where
  still : Still s s'
  stores : s'.m.ls = s.m.ls
  pair : (s'.m.func f).pair n = ((s.m.func f).pair n).took d b

/-- The record under which the operation waits that a ring takes next. -/
def nextKey (f : Fn) (n : PairId) (m : Mod) : Nat × Nat := (f.val, n.val + 16 * (((m.func f).pair n).taken + 1))

/-- The rows of Table HST-5. -/
def hostRows : List (HostOp × (Fn → PairId → Instr)) :=
  [(nopDef, .nop), (planLoadDef, .planLoad), (planDropDef, .planDrop), (jobAbortDef, .jobAbort), (exwinSetDef, .exwinSet),
   (copyInDef, .copyIn), (copyOutDef, .copyOut), (manifestPutDef, .manifestPut), (manifestDropDef, .manifestDrop),
   (stoneWriteDef, .stoneWrite), (stoneDeleteDef, .stoneDelete), (stoneLoadDef, .stoneLoad),
   (chainInstallDef, .chainInstall), (reqSubmitDef, .reqSubmit), (reqCancelDef, .reqCancel), (reqPauseDef, .reqPause),
   (reqResumeDef, .reqResume)]
  ++ [(partAdmitDef, .partAdmit), (partReleaseDef, .partRelease), (nsCreateDef, .nsCreate), (nsDeleteDef, .nsDelete),
   (cxlWindowSetDef, .cxlWindowSet), (domainPutDef, .domainPut), (domainStartDef, .domainStart),
   (servingPutDef, .servingPut)]

end Sys2Proof.Machine
end

