-- ==== Sys2Proof/Certificates/Slice0/Obligations.lean ====
section
/-!
DEFINITION. The statements for the provers. Each says what a row of the table, or the block as a whole, does; the
hypotheses speak of the state and of the operands alone.
-/
open Sys2Proof Sys2Proof.Machine

/-! ### The queue of commands -/

/-- A step takes the command at the front of the queue and runs it with the rest (the block's step; log 1). -/
def Obligations.StepRunsFrontCommand : Prop :=
  ∀ (c : Instr) (q : List Instr) (s : State), step { s with pending := c :: q } = exec c { s with pending := q }

/-- With no command waiting, one cycle of the module passes: wall time grows by one, the queue stays empty, and with no
shutdown under way the hub stands (log 2). -/
def Obligations.IdleStepPassesOneCycle : Prop :=
  ∀ s : State, s.pending = [] → s.hub.power.leaving = none →
    ∃ t, step s = .next t ∧ t.m.wall = s.m.wall + 1 ∧ t.pending = [] ∧ t.hub = s.hub
      ∧ ∀ p, (t.m.part p).ctr = (s.m.part p).ctr + (if (s.m.part p).counts then 1 else 0)

/-! ### Commands of the tile streams -/

/-- SYNC, REPEAT, FSET and QPUSH issue and complete one cycle later; SYNC pushes a copy of its POP_A entry, QPUSH its
ENTRY, FSET sets its flag unless it is skipped, REPEAT opens its body. PSET issues: its modes complete 1 cycle later, PVEC
6 cycles, PLOAD after the class has read its block; unless it is skipped it lands the bits it writes, and a PLOAD whose
block cannot be read lands nothing and raises MEM_UE. A command of any opcode of which the header meets an unreadable entry
or flag, or a reference fails, is stopped by that fault (R106, R109, R113 to R116, R227, Table CMD-6). -/
def Obligations.HeaderCommandsIssue : Prop :=
  ∀ (p : Part) (t : TileId) (st : Stream) (s : State),
    let w := nextWord t st s.m
    let now := nowOf p s
    (IssuesNow syncDef p t st s → ∃ s', exec (.sync t st) s = .next s' ∧
      IssuedAs syncDef p t st s none (now + 1)
        (mkEntry (entLine (issueCtx0 false p t st s.m).popA) (entCount (issueCtx0 false p t st s.m).popA) (cmdAux w)
          (entTag (issueCtx0 false p t st s.m).popA)) {} s') ∧
    (IssuesNow repeatDef p t st s → ∃ s', exec (.repeatCmd t st) s = .next s' ∧
      IssuedAs repeatDef p t st s
        (some { first := ((s.m.tile t).stream st).pc + 1, len := cb w 14 2, count := cb w 12 2, pass := 0
                skipped := (issueCtx repeatDef false p t st s.m).skip }) (now + 1) 0 {} s') ∧
    (IssuesNow fsetDef p t st s → ∃ s', exec (.fset t st) s = .next s' ∧
      IssuedAs fsetDef p t st s none (now + 1) 0
        (if (issueCtx fsetDef false p t st s.m).skip then {} else { fset := some (fld w 101 96, cb w 14 2) }) s') ∧
    (IssuesNow qpushDef p t st s → ∃ s', exec (.qpush t st) s = .next s' ∧
      IssuedAs qpushDef p t st s none (now + 1) (BitVec.ofNat 64 (cb w 12 8)) {} s') ∧
    (IssuesNow psetDef p t st s →
      let c := issuedCtx psetDef p t st s.m
      let r := c.resolve (cb w 18 4)
      let done := now + (if cb w 12 1 = 1 then occupancy r.sh (ploadUnit st).slots + 64
        else if cb w 12 1 = 5 then 6 else 1)
      let bad := if cb w 12 1 = 1 ∧ c.skip = false then c.badLine (blockRuns r.f r.sh) else none
      ∃ s', exec (.pset t st) s = .next s' ∧
        IssuedAs psetDef p t st s none done 0
          (if c.skip || bad.isSome then {} else { pred := some (psetValue c) }) s' ∧
        ∀ l, bad = some l → FaultDue p 0x0011 1 l done (nextLoc t st s.m) s') ∧
    (∀ row ∈ streamRows, ComesNow row.1 p t st s →
      let bad := (s.m.tile t).badCell (headerCells (s.m.tile t) w)
      (∀ k, bad = some k → ∃ s', exec (row.2 t st) s = .next s' ∧ StopsAs p t st s 0x0011 3 k s') ∧
      (∀ code cause object, bad = none →
        (checkRefs (issueCtx0 false p t st s.m) (row.1.refs w)).1 = some (code, cause, object) →
        ∃ s', exec (row.2 t st) s = .next s' ∧ StopsAs p t st s code cause object s'))

/-- END: the stream issues nothing further, and the signal of its header is added at the end of the cycle (R78). -/
def Obligations.EndEndsItsStream : Prop :=
  ∀ (p : Part) (t : TileId) (st : Stream) (s : State), IssuesNow endDef p t st s →
    ∃ s', exec (.endCmd t st) s = .next s' ∧ TileFrame p t s s'
      ∧ ((s'.m.tile t).stream st).ended = true
      ∧ (s'.m.tile t).inflight = (s.m.tile t).inflight
      ∧ (∀ k n, cmdSig (nextWord t st s.m) = some (k, n) →
          (s'.m.tile t).atEnd.getLast? = some (.flagAdd k n (issueCtx endDef false p t st s.m).loc))
      ∧ ∀ d, issueCmd d t st s'.m = s'.m

/-- LOAD_HBM and STORE_HBM issue: they occupy their class for the block and complete 64 cycles later; unless skipped, they
land the source block in the destination. A source line that cannot be read raises MEM_UE at the completion, and nothing is
landed; a block outside its stack, or in a bay that the partition does not hold, stops the command with ADDR_WINDOW (R117,
R118, R227, Table TIL-3). -/
def Obligations.HbmTransfersIssue : Prop :=
  ∀ (p : Part) (t : TileId) (s : State),
    (ResolvesNow loadHbmDef p t .access s →
      let c := issuedCtx loadHbmDef p t .access s.m
      let r := c.resolve (cb c.w 12 4)
      let b := hbmBlock c
      let done := nowOf p s + occupancy r.sh 16 + 64
      let bad := if c.skip then none else c.badHbm (toFin 8 (b.1.getD 0)) (blockRuns b.2.1 b.2.2)
      ((c.skip = true ∨ (b.1.isSome = true ∧ b.2.1 + b.2.2.extent ≤ hbmLines)) →
        ∃ s', exec (.loadHbm t) s = .next s' ∧
          IssuedAs loadHbmDef p t .access s none done (c.blockEntry r)
            (if c.skip || bad.isSome then {} else
              { writes := blockWrites r.f r.sh (s.m.readPlan p (b.1.getD 0) (blockRuns b.2.1 b.2.2)) }) s' ∧
          ∀ l, bad = some l → FaultDue p 0x0011 2 (l % 2 ^ 40 + 2 ^ 40 * b.1.getD 0) done (nextLoc t .access s.m) s') ∧
      (c.skip = false → (b.1 = none ∨ hbmLines < b.2.1 + b.2.2.extent) →
        ∃ s', exec (.loadHbm t) s = .next s' ∧ StopsAs p t .access s 0x0006 0 b.2.1 s')) ∧
    (ResolvesNow storeHbmDef p t .access s →
      let c := issuedCtx storeHbmDef p t .access s.m
      let r := c.resolve (cb c.w 12 4)
      let b := hbmBlock c
      let done := nowOf p s + occupancy r.sh 16 + 64
      let bad := if c.skip then none else c.badLine (blockRuns r.f r.sh)
      ((c.skip = true ∨ (b.1.isSome = true ∧ b.2.1 + b.2.2.extent ≤ hbmLines)) →
        ∃ s', exec (.storeHbm t) s = .next s' ∧
          IssuedAs storeHbmDef p t .access s none done (c.blockEntry r)
            (if c.skip || bad.isSome then {} else
              { hbmWrites := (blockWrites b.2.1 b.2.2 (c.readBytes r)).map (fun w => (b.1.getD 0, w.1, w.2)) }) s' ∧
          ∀ l, bad = some l → FaultDue p 0x0011 1 l done (nextLoc t .access s.m) s') ∧
      (c.skip = false → (b.1 = none ∨ hbmLines < b.2.1 + b.2.2.extent) →
        ∃ s', exec (.storeHbm t) s = .next s' ∧ StopsAs p t .access s 0x0006 0 b.2.1 s'))

/-- PAGE_GATHER and PAGE_SCATTER issue: 80 cycles for the entries, then the block, complete 64 cycles later. Each present
firkin outside the tier is landed at its place, unless the command is skipped, an entry faults (its fault is due in cycle
79, and no firkin moves), or a line that moves cannot be read: then MEM_UE is raised at the completion and nothing is landed
(R119, R161, R162, R227). -/
def Obligations.PagedTransfersIssue : Prop :=
  ∀ (p : Part) (t : TileId) (s : State),
    (IssuesNow pageGatherDef p t .access s →
      let c := issuedCtx pageGatherDef p t .access s.m
      let r := c.resolve (cb c.w 12 4)
      let e := c.resolve (cb c.w 16 4)
      let fl := pageFlines c.w
      let done := nowOf p s + 80 + occupancy r.sh 16 + 64
      let late := pageLate c e (pageFault c e)
      let mv := if c.skip || !late.isEmpty then [] else pageMoves c e
      let bad := mv.findSome? (fun k => (c.badHbm (toFin 8 k.2.1) [(k.2.2, fl)]).map (fun l => l % 2 ^ 40 + 2 ^ 40 * k.2.1))
      ∃ s', exec (.pageGather t) s = .next s' ∧
        IssuedAs pageGatherDef p t .access s none done (c.blockEntry r)
          (if bad.isSome then {} else
            { writes := mv.flatMap (fun k => partWrites r.f r.sh (k.1 * fl) fl (s.m.readPlan p k.2.1 [(k.2.2, fl)])) }) s' ∧
        (∀ f ∈ late, f.1 = nowOf p s + 79 ∧ FaultDue p f.2.1 f.2.2.1 f.2.2.2 f.1 (nextLoc t .access s.m) s') ∧
        ∀ l, bad = some l → FaultDue p 0x0011 2 l done (nextLoc t .access s.m) s') ∧
    (IssuesNow pageScatterDef p t .access s →
      let c := issuedCtx pageScatterDef p t .access s.m
      let r := c.resolve (cb c.w 12 4)
      let e := c.resolve (cb c.w 16 4)
      let fl := pageFlines c.w
      let done := nowOf p s + 80 + occupancy r.sh 16 + 64
      let late := pageLate c e (pageFault c e)
      let mv := if c.skip || !late.isEmpty then [] else pageMoves c e
      let lines (k : Nat) := (List.range fl).map (fun i => blockLine r.f r.sh (k * fl + i))
      let bad := c.badLine ((mv.flatMap (fun k => lines k.1)).map (·, 1))
      ∃ s', exec (.pageScatter t) s = .next s' ∧
        IssuedAs pageScatterDef p t .access s none done (c.blockEntry r)
          (if bad.isSome then {} else
            { hbmWrites := mv.map (fun k => (k.2.1, 64 * k.2.2, c.linesAt (lines k.1))) }) s' ∧
        (∀ f ∈ late, f.1 = nowOf p s + 79 ∧ FaultDue p f.2.1 f.2.2.1 f.2.2.2 f.1 (nextLoc t .access s.m) s') ∧
        ∀ l, bad = some l → FaultDue p 0x0011 1 l done (nextLoc t .access s.m) s')

/-- RELEASE of a bin whose half is valid, not released and not being read releases it at the end of its issue cycle, and
takes one cycle; a skipped one releases nothing. Of a half that is not valid it is stopped with BIN_NOT_VALID, and of one
that a command in flight or a V command reads, with BIN_STATE (R121, R122). -/
def Obligations.ReleaseIssues : Prop :=
  ∀ (p : Part) (t : TileId) (s : State), ResolvesNow releaseDef p t .access s →
    let c := issuedCtx releaseDef p t .access s.m
    let x := s.m.tile t
    let j := releaseBin c.w
    let valid := c.fur ≠ 0 ∧ x.released.contains j = false ∧ (x.bin j).isSome = true
    let beingRead := (∃ i ∈ x.inflight, j ∈ i.bins ∧ nowOf p s < i.complete) ∨ ∃ v ∈ x.ventries, j ∈ v.bins
    (c.skip = true ∨ (valid ∧ ¬ beingRead) →
      ∃ s', exec (.release t) s = .next s' ∧ IssuedAs releaseDef p t .access s none (nowOf p s + 1) 0 {} s' ∧
        (c.skip = false → (s'.m.tile t).atEnd.getLast? = some (.release j (nextLoc t .access s.m)))) ∧
    (c.skip = false → ¬ valid →
      ∃ s', exec (.release t) s = .next s' ∧ StopsAs p t .access s 0x0003 0 j s') ∧
    (c.skip = false → valid → beingRead →
      ∃ s', exec (.release t) s = .next s' ∧ StopsAs p t .access s 0x0004 0 j s')

/-- SEND of a transfer that the slot tables hold, before its first slot, issues: it completes at the end of its last rod, and
its flits wait on the first port of its route, each for its slot; on its own module it lands in the destination's local
store. A source that cannot be read raises MEM_UE at the end of its read, and nothing leaves; in or after the first cycle of
its first slot it is stopped with RELEASE_OVERRUN, cause SEND_LATE (R45, R123, R124, R227, R290). -/
def Obligations.SendIssues : Prop :=
  ∀ (p : Part) (t : TileId) (s : State) (e : SendPlan), ResolvesNow sendDef p t .access s →
    let c := issuedCtx sendDef p t .access s.m
    let r := c.resolve (cb c.w 12 4)
    let start := (s.m.part p).furStart c.fur
    let first := start + slotCycle (e.slots.headD 0)
    let bad := if c.skip then none else c.badLine (blockRuns r.f r.sh)
    sendPlan c = some e →
    (nowOf p s < first →
      ∃ s', exec (.send t) s = .next s' ∧
        IssuedAs sendDef p t .access s none (max (nowOf p s) (start + 5 * (maxL 0 e.slots / 2) + 4)) (c.blockEntry r)
          (if c.skip || bad.isSome then {} else
            match e.hops with
            | [] => { mesh := [(8 * e.dbay + (e.offsetIn c.fur - lsWindow) / lsBytes,
                                (e.offsetIn c.fur - lsWindow) % lsBytes, c.readBytes r)] }
            | h :: _ => { sentOn := some (h.2.1 % 16, c.fur, e.slots) }) s' ∧
        (∀ l, bad = some l → FaultDue p 0x0011 1 l (start + e.readEnd) (nextLoc t .access s.m) s') ∧
        (∀ h q k rest, e.hops = (h, q, k) :: rest →
          (s'.m.port (toFin 16 q)).planned = (s.m.port (toFin 16 q)).planned
            ++ (if c.skip || bad.isSome then [] else planFlits c e (c.readBytes r)))) ∧
    (first ≤ nowOf p s → ∃ s', exec (.send t) s = .next s' ∧ StopsAs p t .access s 0x0005 1 e.xfer s')

/-- Every V command that issues is held with its deadline (R132 to R138, R163, R164). -/
def Obligations.VCommandsAreHeld : Prop :=
  ∀ (p : Part) (t : TileId) (s : State),
    let w := nextWord t .access s.m
    (IssuesNow cxlReadDef p t .access s → ∃ s', exec (.cxlRead t) s = .next s' ∧ HeldAs cxlReadDef p t s (vDlf w) s') ∧
    (IssuesNow cxlWriteDef p t .access s → ∃ s', exec (.cxlWrite t) s = .next s' ∧ HeldAs cxlWriteDef p t s (vDlf w) s') ∧
    (IssuesNow flashStageDef p t .access s →
      ∃ s', exec (.flashStage t) s = .next s' ∧ HeldAs flashStageDef p t s (vDlf w) s') ∧
    (IssuesNow hostReadDef p t .access s → ∃ s', exec (.hostRead t) s = .next s' ∧ HeldAs hostReadDef p t s (vDlf w) s') ∧
    (IssuesNow hostWriteDef p t .access s →
      ∃ s', exec (.hostWrite t) s = .next s' ∧ HeldAs hostWriteDef p t s (vDlf w) s') ∧
    (IssuesNow seedHwDef p t .access s → ∃ s', exec (.seedHw t) s = .next s' ∧ HeldAs seedHwDef p t s (vDlf w) s') ∧
    (IssuesNow cxlGatherDef p t .access s →
      ∃ s', exec (.cxlGather t) s = .next s' ∧ HeldAs cxlGatherDef p t s (cb w 26 1) s')

/-- VOP and TRANS issue: VOP completes 6 cycles later, TRANS 3 cycles and the latency of the stepping later; unless
skipped, each lands the 512 results of its function in its destination register (R90, R130, R131, R3). -/
def Obligations.VectorFunctionsIssue : Prop :=
  ∀ (p : Part) (t : TileId) (s : State),
    let x := s.m.tile t
    let w := nextWord t .execute s.m
    (IssuesNow vopDef p t .execute s → ∃ s', exec (.vop t) s = .next s' ∧
      IssuedAs vopDef p t .execute s none (nowOf p s + 6) 0
        (if (issueCtx vopDef false p t .execute s.m).skip then {} else
          { vreg := some (fld w 108 104, vopLanes (cb w 12 1) (regOf x.vregs (fld w 116 112))
              (if bitN w.toNat 136 then List.replicate 512 (BitVec.ofNat 32 (cb w 20 4)) else regOf x.vregs (fld w 124 120))
              (regOf x.vregs (fld w 132 128))) }) s') ∧
    (IssuesNow transDef p t .execute s → ∃ s', exec (.trans t) s = .next s' ∧
      IssuedAs transDef p t .execute s none (nowOf p s + 3 + (if s.m.stepping = 0xC0 then 14 else 12)) 0
        (if (issueCtx transDef false p t .execute s.m).skip then {} else
          { vreg := some (fld w 108 104,
              (List.range 512).map (fun i => transFn (cb w 12 1) ((regOf x.vregs (fld w 116 112)).getD i 0))) }) s')

/-- VLOAD and VSTORE issue: they occupy their class for the block and complete 64 cycles later; unless skipped, VLOAD lands
its block converted in its register, and VSTORE its register converted in its block. A block of a VLOAD that cannot be read
raises MEM_UE at the completion, and nothing is landed (R129, R189 to R191, R227). -/
def Obligations.VectorTransfersIssue : Prop :=
  ∀ (p : Part) (t : TileId) (s : State),
    (IssuesNow vloadDef p t .execute s →
      let c := issuedCtx vloadDef p t .execute s.m
      let r := c.resolve (cb c.w 12 4)
      let done := nowOf p s + occupancy r.sh 6 + 64
      let bad := if c.skip then none else c.badLine (blockRuns r.f r.sh)
      ∃ s', exec (.vload t) s = .next s' ∧
        IssuedAs vloadDef p t .execute s none done (c.blockEntry r)
          (if c.skip || bad.isSome then {} else
            { vreg := some (vecReg c.w, vloadLanes (vecFmt c.w) (c.readBytes r)) }) s' ∧
        ∀ l, bad = some l → FaultDue p 0x0011 1 l done (nextLoc t .execute s.m) s') ∧
    (IssuesNow vstoreDef p t .execute s →
      let c := issuedCtx vstoreDef p t .execute s.m
      let r := c.resolve (cb c.w 12 4)
      let o := vstoreBlock (vecFmt c.w) (regOf c.x.vregs (vecReg c.w))
        (if vstoreSr c then takeDraws 512 c.x.seed else ([], c.x.seed)).1
      ∃ s', exec (.vstore t) s = .next s' ∧
        IssuedAs vstoreDef p t .execute s none (nowOf p s + occupancy r.sh 4 + 64) (c.blockEntry r)
          (if c.skip then {} else { writes := blockWrites r.f r.sh o.1, sat := o.2.1, invalid := o.2.2 }) s')

/-- MATMUL, ACCADD and SELECT issue. MATMUL that leaves its set open completes 88 cycles after its K ÷ ρ cycles, ACCADD 88
cycles after its block, a closing one 64 cycles after its drain; unless skipped, each lands its set with the cells after
accumulation, open or closed, and, closing, the drained block. SELECT completes 16 cycles after its rows, and lands its
groups, its gate block and the record lines of the entries it places. An operand that cannot be read raises MEM_UE when its
read ends, and nothing is landed. A set opened that stands open, added to that stands closed, or, in FJ3, added to under
another anchor, stops the command with ACC_STATE (R88, R125 to R128, R149, R156, R205, R209 to R216, R227). -/
def Obligations.EngineCommandsIssue : Prop :=
  ∀ (p : Part) (t : TileId) (s : State),
    let due (l : Nat) (cyc : Nat) (s' : State) := FaultDue p 0x0011 1 l cyc (nextLoc t .execute s.m) s'
    (IssuesNow matmulDef p t .execute s →
      let c := issuedCtx matmulDef p t .execute s.m
      let u := nowOf p s + matmulCycles c.w + 88
      let k := ctlK c.w
      let ra := c.resolve (cb c.w 12 4)
      let rb := c.resolve (cb c.w 16 4)
      let badA := if c.skip then none else c.badLine (lineRuns ra.f ra.sh (operandLines (ctlFa c.w) k k false))
      let badB := if c.skip then none else
        c.badLine (lineRuns rb.f rb.sh (operandLines (ctlFb c.w) k (if ctlSparse c.w then k / 2 else k) (ctlSparse c.w)))
      ∃ s', exec (.matmul t) s = .next s' ∧
        IssuedAs matmulDef p t .execute s none
          (if ctlClose c.w then max u c.x.units.matWrite + 256 * resultSize c.w + 64 else u)
          (c.blockEntry (c.resolve (cb c.w 20 4)))
          (if c.skip || badA.isSome || badB.isSome then {} else
            accLand c (matmulCells (ctlFa c.w) (ctlFb c.w) k (ctlSparse c.w) (c.readBytes ra).toArray (c.readBytes rb).toArray
              (ctlRows c.w) (ctlCols c.w) (accAnchor c) (gridW c.gen) (accBase c))) s' ∧
        (∀ l, badA = some l → due l (nowOf p s + occupancy ra.sh 15 + 64) s') ∧
        ∀ l, badB = some l → due l (nowOf p s + occupancy rb.sh 15 + 64) s') ∧
    (IssuesNow accaddDef p t .execute s →
      let c := issuedCtx accaddDef p t .execute s.m
      let r := c.resolve (cb c.w 12 4)
      let u := nowOf p s + occupancy r.sh 15 + 88
      let bad := if c.skip then none else c.badLine (blockRuns r.f r.sh)
      ∃ s', exec (.accadd t) s = .next s' ∧
        IssuedAs accaddDef p t .execute s none
          (if ctlClose c.w then max u c.x.units.matWrite + 256 * resultSize c.w + 64 else u)
          (c.blockEntry (c.resolve (cb c.w 20 4)))
          (if c.skip || bad.isSome then {} else
            accLand c (accaddCells (c.readBytes r).toArray (ctlRows c.w) (ctlCols c.w) (gridW c.gen) (accBase c), false)) s' ∧
        ∀ l, bad = some l → due l (nowOf p s + occupancy r.sh 15 + 64) s') ∧
    (∀ row ∈ [(matmulDef, Instr.matmul t), (accaddDef, Instr.accadd t)], ResolvesNow row.1 p t .execute s →
      let c := issuedCtx row.1 p t .execute s.m
      let v := (s.m.tile t).set (ctlSet c.w)
      let stops (cause : Nat) := ∃ s', exec row.2 s = .next s' ∧ StopsAs p t .execute s 0x0009 cause (ctlSet c.w) s'
      c.skip = false →
        (ctlZero c.w = true → v.isOpen = true → stops 1) ∧
        (ctlZero c.w = false → v.isOpen = false → stops 2) ∧
        (ctlZero c.w = false → v.isOpen = true → c.gen = 3 → v.anchor ≠ ctlAnchor c.w → stops 3)) ∧
    (IssuesNow selectDef p t .execute s →
      let c := issuedCtx selectDef p t .execute s.m
      let r := c.resolve (cb c.w 12 4)
      let gr := c.resolve (cb c.w 24 4)
      let b1 := selBush c.w
      let b2 := selBush2 c.w
      let d1 := (c.x.decl b1).getD default
      let d2 := (c.x.decl b2).getD default
      let g1 := if selClear c.w then {} else c.x.workGroup b1
      let g2 := if selSpill c.w && selClear2 c.w then {} else c.x.workGroup b2
      let o := selectFill d1 d2 g1 g2 (selK c.w) (selSpill c.w) (selScores c r)
      let bad := if c.skip then none else c.badLine (blockRuns r.f r.sh)
      ∃ s' l, exec (.select t) s = .next s' ∧
        IssuedAs selectDef p t .execute s none (nowOf p s + r.sh.rows * (ceilDiv (selC c.w) 32 + selK c.w) + 16)
          (c.blockEntry gr) l s' ∧
        (c.skip = true → l = { groups := (b1, { g1 with rowNext := min 65536 (g1.rowNext + r.sh.rows) })
            :: (if selSpill c.w && selClear2 c.w then [(b2, g2)] else []) }) ∧
        (c.skip = false → bad = none →
          l.groups = (b1, o.g1) :: (if selSpill c.w then [(b2, o.g2)] else [])
          ∧ l.selChoices = o.choices ∧ l.selDropped = o.dropped ∧ l.selRerouted = o.rerouted
          ∧ (∀ w ∈ blockWrites gr.f gr.sh (gateBlock o.gate (selK c.w) r.sh.rows), w ∈ l.writes)
          ∧ (o.placed1 ≠ [] → ∀ w ∈ groupWrites d1 o.g1 o.placed1, w ∈ l.writes)
          ∧ (selSpill c.w = true → o.placed2 ≠ [] → ∀ w ∈ groupWrites d2 o.g2 o.placed2, w ∈ l.writes)) ∧
        (∀ k, bad = some k → l = {} ∧ due k (nowOf p s + occupancy r.sh 2 + 64) s'))

/-! ### Completions and V deadlines -/

/-- COMMAND_COMPLETE of a command that completes in the present cycle: it leaves the commands in flight, what it lands stands
in its register, its set, the local stores and the stacks, its entry is written to its reservation, its flag signalled at the
end of the cycle. A register that a later-issued command writes in the same cycle keeps that one's result, a line that
another write reaches last keeps that one's; of the local store of its tile every byte outside the runs it lands reads as
before, and no other tile changes (R65, R67, R70, R74, R85). -/
def Obligations.CommandCompletes : Prop :=
  ∀ (p : Part) (t : TileId) (st : Stream) (k : Nat) (s : State) (i : Inflight),
    s.m.partOfTile t = some p → (s.m.part p).live = true →
    (s.m.tile t).inflight.find? (fun i => i.stream == st && i.index == k) = some i →
    i.complete = nowOf p s →
    let l := finalLanding p t i s.m
    let ws := keepLines i.lost l.writes
    let store (m : Mod) := l.mesh.foldl (fun m w => writeStore (toFin 64 w.1) [w.2] m)
      (l.hbmWrites.foldl (fun m w => writePlan p w.1 w.2.1 w.2.2 m) (writeStore t ws m))
    ∃ s', exec (.commandComplete t st k) s = .next s' ∧ Still s s'
      ∧ (s'.m.tile t).inflight.length + 1 = (s.m.tile t).inflight.length
      ∧ (i.wreg.isSome = true → ∀ r v, l.vreg = some (r, v) → (s'.m.tile t).vregs = alPut (s.m.tile t).vregs r v)
      ∧ (i.wreg = none ∨ l.vreg = none → (s'.m.tile t).vregs = (s.m.tile t).vregs)
      ∧ (∀ a v, l.acc = some (a, v) → a < 2 → (s'.m.tile t).set a = v)
      ∧ (∀ f n, i.sig = some (f, n) → .flagAdd f n (i.loc t) ∈ (s'.m.tile t).atEnd)
      ∧ (∀ f v, l.fset = some (f, v) → .flagSet f v (i.loc t) ∈ (s'.m.tile t).atEnd)
      ∧ (∀ m v, l.pred = some (m, v) → .pred st m v (i.loc t) ∈ (s'.m.tile t).atEnd)
      ∧ (∀ q id e, i.push = some (q, id, e) → ((s.m.tile t).acc.ended && (s.m.tile t).exe.ended) = false →
          (s'.m.tile t).queue q = ((s.m.tile t).queue q).fill id e (nowOf p s))
      ∧ s'.m.ls = (store s.m).ls ∧ s'.m.hbm = (store s.m).hbm ∧ s'.m.hostMem = s.m.hostMem ∧ s'.m.cxl = s.m.cxl
      ∧ (l.mesh = [] → (s.m.store t).wf = true → ∀ a, (∀ w ∈ l.writes, ¬ covers w a) →
          (s'.m.store t).byte a = (s.m.store t).byte a)
      ∧ (l.hbmWrites = [] → s'.m.hbm = s.m.hbm)
      ∧ (∀ u, u ≠ t → s'.m.tile u = s.m.tile u)

/-- V_EXTERNAL_COMPLETE of a held V command whose external part runs: the part has ended as the outcome says. An error that
the access met at its issue stands, unless the outcome fails at or below its page; with none, a failed outcome fails the
part with its cause, a good one ends it: HOST_READ with the bytes of the exchange window, HOST_WRITE with them written,
SEED_HW with a fresh seed of 32 bytes, a CXL or flash access with its data, or with its first absent page. Nothing of the
tile moves otherwise (R135, R137, R163, R165, R231). -/
def Obligations.ExternalPartEnds : Prop :=
  ∀ (p : Part) (t : TileId) (k off : Nat) (out : ExtOutcome) (s : State) (v : VEntry),
    s.m.partOfTile t = some p → (s.m.tile t).ventries.find? (·.awaits k) = some v → outcomeFits v.op out = true →
    let base := ((s.m.part p).exwin.getD (0, 0)).1
    let clear := v.error = none ∧ out = .ok
    let host (n : Nat) := s.m.hostFault base v.xaddr n
    ∃ s' e, exec (.vExternalComplete t k out off) s = .next s' ∧ Still s s'
      ∧ (s'.m.tile t).ventries = updFirst (·.awaits k) (fun v => { v with ext := e }) (s.m.tile t).ventries
      ∧ e ≠ .pending
      ∧ (v.error = none → out ≠ .ok → e = .failed (outcomeCause out) off)
      ∧ (∀ c o, v.error = some (c, o) → e = if out ≠ .ok && off ≤ o then .failed (outcomeCause out) off else .failed c o)
      ∧ (clear → v.op = 0x1A → e = .done v.data)
      ∧ (clear → v.op = 0x1B → e = match host (64 * v.rows * v.cols) with
          | some o => .failed 3 o
          | none => .done (s.m.hostMem.read (base + v.xaddr) (64 * v.rows * v.cols)))
      ∧ (clear → v.op = 0x1C →
          (∀ o, host v.data.length = some o → e = .failed 3 o ∧ s'.m.hostMem = s.m.hostMem) ∧
          (host v.data.length = none → e = .done [] ∧ s'.m.hostMem = s.m.hostMem.write (base + v.xaddr) v.data))
      ∧ (clear → v.op = 0x1D → ∃ bs, e = .done bs ∧ bs.length = 32)
      ∧ (clear → v.op ≠ 0x1A → v.op ≠ 0x1B → v.op ≠ 0x1C → v.op ≠ 0x1D →
          e = match v.absent s.m ((s.m.part p).extents.getD []) with
            | some o => .failed 3 o
            | none => .done v.data)
      ∧ (¬ (clear ∧ v.op = 0x1C) → s'.m.hostMem = s.m.hostMem)
      ∧ (¬ (v.error = none ∧ out = .writeRejected ∧ v.op = 0x19) → s'.m.cxl = s.m.cxl)
      ∧ (s'.m.tile t).inflight = (s.m.tile t).inflight ∧ s'.m.ls = s.m.ls ∧ s'.m.hbm = s.m.hbm
      ∧ (∀ u, u ≠ t → s'.m.tile u = s.m.tile u)

/-- V_COMMAND_DEADLINE in the present cycle: a read whose data has come, or that is skipped, enters the mesh-in class behind
what is on it, to complete 64 cycles after its block; a write that is acknowledged, or skipped, completes, pushes its entry,
signals its flag and frees its place, and a SEED_HW sets its seed at the end of the cycle; one whose external part has not
ended raises V_DEADLINE and leaves the CXL tier as it found it, and one that failed V_DATA_ERROR with its cause (R133 to
R138, R163). -/
def Obligations.DeadlineSettlesVCommand : Prop :=
  ∀ (p : Part) (t : TileId) (k : Nat) (s : State) (v : VEntry),
    s.m.partOfTile t = some p → (s.m.part p).live = true →
    (s.m.tile t).ventries.find? (fun v => v.index == k && !v.entered) = some v → v.deadline = nowOf p s →
    let freed := removeFirst (fun w => w.index == v.index && w.entered == false) (s.m.tile t).ventries
    ∃ s', exec (.vCommandDeadline t k) s = .next s' ∧ Still s s'
      ∧ (∀ bs, (v.skipped = true ∨ v.ext = .done bs) → isVRead v.op = true →
          ∃ i, (s'.m.tile t).inflight.getLast? = some i ∧ i.op = v.op ∧ i.push = v.push ∧ i.sig = v.sig
            ∧ i.complete = max (nowOf p s) (s.m.tile t).units.meshIn
                + occupancy { rows := v.rows, cols := v.cols, stride := v.stride } 16 + 64
            ∧ i.landing = (if v.skipped then {} else v.landing bs)
            ∧ (s'.m.tile t).ventries.length = (s.m.tile t).ventries.length)
      ∧ (∀ bs, (v.skipped = true ∨ v.ext = .done bs) → isVRead v.op = false →
          (s'.m.tile t).ventries = freed
          ∧ (∀ f n, v.sig = some (f, n) → ∃ l, EndEffect.flagAdd f n l ∈ (s'.m.tile t).atEnd)
          ∧ (∀ q id e, v.push = some (q, id, e) → ((s.m.tile t).acc.ended && (s.m.tile t).exe.ended) = false →
              (s'.m.tile t).queue q = ((s.m.tile t).queue q).fill id e (nowOf p s))
          ∧ (v.skipped = false → v.op = 0x1D →
              (s'.m.tile t).atEnd.getLast? = some (.seed (BitVec.ofNat 256 (leNat bs)) (v.loc t))))
      ∧ (v.skipped = false → v.ext = .pending → (s'.m.tile t).ventries = freed
          ∧ s'.m.cxl = (discardWrite p v.undo s.m).cxl
          ∧ FaultDue p 0x000B 0 ((s.m.part p).furlongOf v.deadline) (nowOf p s) (v.loc t) s')
      ∧ (∀ c o, v.skipped = false → v.ext = .failed c o → (s'.m.tile t).ventries = freed
          ∧ FaultDue p 0x000C c o (nowOf p s) (v.loc t) s')
      ∧ s'.m.hbm = s.m.hbm ∧ s'.m.ls = s.m.ls ∧ s'.m.hostMem = s.m.hostMem ∧ ∀ u, u ≠ t → s'.m.tile u = s.m.tile u

/-! ### Plan time -/

/-- T0_REACHED of a COMMITTED member whose counter stands at T0. A ready one, of which no port that its plan uses has lost
its alignment, is RUNNING in furlong 0 with both streams of its tiles at index 0, the logs of its last job gone and its seal
retained; a port that has lost it fails the domain with ALIGN_LOST, 0x0026; a member that is not ready fails with T0_UNREADY,
0x0035 (R36, R38, R73, R297, R298, R307). -/
def Obligations.T0StartsThePlan : Prop :=
  ∀ (p : Part) (s : State), (s.m.part p).member.st = .committed → (s.m.part p).member.t0 = (s.m.part p).ctr →
    let lost := (s.m.domainPorts p).any (fun q => (s.m.port q).alignLost && s.m.planUses p q)
    ((s.m.part p).member.ready = true → lost = false →
      ∃ s', exec (.t0Reached p) s = .next s' ∧ s'.hub = s.hub ∧ s'.m.wall = s.m.wall
        ∧ (s'.m.part p).running = true ∧ (s'.m.part p).member.st = .running ∧ (s'.m.part p).furlong = 0
        ∧ (s'.m.part p).furlongs = imgFurlongs (((s.m.part p).plans[(s.m.part p).slot]?).join.getD [])
        ∧ (s'.m.part p).dueFaults = [] ∧ (s'.m.part p).faultLog = [] ∧ (s'.m.part p).hazardLog = []
        ∧ (s'.m.part p).member.retained = some {
            sealDigest := (s.m.part p).member.sealDigest, params := (s.m.part p).member.params
            latency := (s.m.part p).member.latency, sched := (s.m.part p).member.sched, valid := true }
        ∧ (∀ t ∈ (s.m.part p).tiles, ∀ st, ((s'.m.tile t).stream st).pc = 0 ∧ ((s'.m.tile t).stream st).ended = false)
        ∧ ∀ q, q ≠ p → (s'.m.part q).member = (s.m.part q).member) ∧
    ((s.m.part p).member.ready = true → lost = true →
      ∃ s', exec (.t0Reached p) s = .next s' ∧ s'.hub = s.hub ∧ DomainFailed p 0x0026 s s') ∧
    ((s.m.part p).member.ready = false →
      ∃ s', exec (.t0Reached p) s = .next s' ∧ s'.hub = s.hub ∧ DomainFailed p 0x0035 s s')

/-- FURLONG_BOUNDARY in the first cycle of the next furlong, with the hand-overs made and no fault due, advances the furlong
index, and no bin of the partition's tiles counts as released; PLAN_END, at the cycle past the last of the plan, ends the
plan, and the member is in TEARDOWN. Where a half of a bin is not released, or a planned SEND has not issued, either row
fails the domain with RELEASE_OVERRUN, 0x0005 (R44, R45, R297). -/
def Obligations.FurlongBoundaryAdvances : Prop :=
  ∀ (p : Part) (s : State), (s.m.part p).live = true →
    let x := s.m.part p
    let turns := x.ctr = x.furStart (x.furlong + 1) ∧ x.ctr < x.planEnd
    let ends := x.furlong + 1 = x.furlongs ∧ x.ctr = x.planEnd
    let failed (s' : State) := Still s s' ∧ MemoriesStand s s' ∧ DomainFailed p 0x0005 s s' ∧ ∀ q, q ≠ p → s'.m.part q = s.m.part q
    (HandedOver p s.m →
      (turns → ∃ s', exec (.furlongBoundary p) s = .next s' ∧ Still s s' ∧ MemoriesStand s s'
        ∧ (s'.m.part p).furlong = x.furlong + 1 ∧ (s'.m.part p).running = true
        ∧ (∀ t ∈ x.tiles, (s'.m.tile t).released = [])
        ∧ (∀ t, t ∉ x.tiles → s'.m.tile t = s.m.tile t)) ∧
      (ends → ∃ s', exec (.planEnd p) s = .next s' ∧ Still s s' ∧ MemoriesStand s s'
        ∧ (s'.m.part p).running = false ∧ (s'.m.part p).member.st = .teardown
        ∧ (s'.m.part p).member.failed = x.member.failed
        ∧ (s'.m.part p).member.since = s.m.wall ∧ s'.m.tiles = s.m.tiles
        ∧ ∀ q, q ≠ p → s'.m.part q = s.m.part q)) ∧
    ((∀ q, (s.m.part q).dueFaults = []) → x.member.st = .running →
      ((∃ t ∈ x.tiles, unreleased (s.m.tile t) x.furlong ≠ [])
        ∨ ∃ e ∈ x.member.sched.sends x.furlong, some e.member = s.m.memberIndex p ∧
            ∃ t, x.tileAt e.tile = some t ∧ (s.m.tile t).sends.contains e.xfer = false) →
      (turns → ∃ s', exec (.furlongBoundary p) s = .next s' ∧ failed s') ∧
      (ends → ∃ s', exec (.planEnd p) s = .next s' ∧ failed s'))

/-- STREAM_DEADLOCK at the last cycle of the furlong of a dead tile, and BOOKS_CHECK of each book that is out of balance, in
the state or by the operand: each raises its fault, 0x0010 and 0x0014, at the present cycle, and changes no memory; where
every book balances BOOKS_CHECK changes nothing (R446, R451, R452). -/
def Obligations.WatchdogAndBooksRaise : Prop :=
  ∀ (p : Part) (s : State),
    (∀ t, s.m.partOfTile t = some p → (s.m.part p).live = true → (s.m.tile t).deadRaised = false →
      (deadState (s.m.tile t) (s.m.part p).ctr).isSome = true →
      (s.m.part p).ctr = (s.m.part p).furStart ((s.m.part p).furlong + 1) - 1 →
      ∃ s', exec (.streamDeadlock t) s = .next s' ∧ Still s s' ∧ MemoriesStand s s'
        ∧ (s'.m.tile t).deadRaised = true
        ∧ ∃ r, (s'.m.part p).dueFaults = (s.m.part p).dueFaults ++ [r] ∧ r.code = 0x0010 ∧ r.cycle = (s.m.part p).ctr) ∧
    (∀ k o, (∀ q, s.m.booksOut q = []) → (s.m.part p).admitted = true → 1 ≤ k → k ≤ 8 →
      ∃ s', exec (.booksCheck (some { part := p, quantity := k, object := o })) s = .next s' ∧ Still s s'
        ∧ MemoriesStand s s' ∧ s'.m.tiles = s.m.tiles
        ∧ (k = 8 → (s'.m.part p).keys.rotation = none)
        ∧ ∃ r, (s'.m.part p).dueFaults = (s.m.part p).dueFaults ++ [r] ∧ r.code = 0x0014 ∧ r.cause = k ∧ r.object = o) ∧
    ((∀ q, s.m.booksOut q = []) → exec (.booksCheck none) s = .next s) ∧
    (∀ u ∈ s.m.booksOut p, ∃ s', exec (.booksCheck none) s = .next s' ∧ Still s s' ∧ MemoriesStand s s'
      ∧ s'.m.tiles = s.m.tiles ∧ (u.quantity = 8 → (s'.m.part p).keys.rotation = none)
      ∧ ∃ r ∈ (s'.m.part p).dueFaults, r.code = 0x0014 ∧ r.cause = u.quantity ∧ r.object = u.object
          ∧ r.cycle = (s.m.part p).ctr)

/-! ### Holds -/

/-- HOLD_START at the TARGET of the first recorded hold ahead: the counter stands there from now, and HOLD_COUNT has counted
it; at a furlong boundary the hand-overs of the furlong are made. HOLD_END of a stand that has lasted (e + 1) × H rods, e
being the largest extension recorded for its TARGET: the entry goes, the counter resumes, and HOLD_EXT and HOLD_RODS take
what it stood (R45, R53, R57). -/
def Obligations.HoldsStopTheCounter : Prop :=
  ∀ (p : Part) (s : State),
    (∀ t, (s.m.part p).counts = true →
      ((s.m.part p).member.st = .committed ∨ (s.m.part p).member.st = .running) →
      (s.m.part p).nextHold = some t → (s.m.part p).ctr = t →
      ((s.m.part p).running = true → t = (s.m.part p).furStart ((s.m.part p).furlong + 1) → HandedOver p s.m) →
      ∃ s', exec (.holdStart p) s = .next s' ∧ Still s s' ∧ MemoriesStand s s' ∧ s'.m.tiles = s.m.tiles
        ∧ (s'.m.part p).standing = some { target := t, since := s.m.wall } ∧ (s'.m.part p).counts = false
        ∧ (s'.m.part p).tel.holdCount = (s.m.part p).tel.holdCount.add 1 ∧ (s'.m.part p).holds = (s.m.part p).holds
        ∧ ∀ q, q ≠ p → s'.m.part q = s.m.part q) ∧
    (∀ st, (s.m.part p).standing = some st →
      let e := (((s.m.part p).hold st.target).map (·.ext)).getD 0
      s.m.wall = st.since + 5 * (e + 1) * (s.m.part p).member.params.h →
      ∃ s', exec (.holdEnd p) s = .next s' ∧ Still s s' ∧ MemoriesStand s s' ∧ s'.m.tiles = s.m.tiles
        ∧ (s'.m.part p).standing = none
        ∧ (s'.m.part p).holds = (s.m.part p).holds.filter (fun g => g.target != st.target)
        ∧ (s'.m.part p).tel.holdExt = (s.m.part p).tel.holdExt.add e
        ∧ (s'.m.part p).tel.holdRods = (s.m.part p).tel.holdRods.add ((e + 1) * (s.m.part p).member.params.h)
        ∧ ∀ q, q ≠ p → s'.m.part q = s.m.part q)

/-- The rows that issue hold notices. PLANNED_FLIT_WATCH: the first planned flit of the port that is at risk has a hold
recorded at the TARGET that choose_notice gives it, and where it gives none the domain fails with HOLD_LIMIT, 0x0022; with no
flit at risk nothing moves. V_HOLD_CHECK: a held V command whose check falls in this rod, of a plan or of a stand, has its
hold recorded and one of its V holds used; in a stand at its TARGET with G rods left it extends the hold by one.
THERMAL_HOLD_NOTICE in its plan rod, and HOLD_REQ with GO for a running plan, record theirs. A HOLD notice accepted on a port
of a COMMITTED or RUNNING member, good under R52 and ahead of the counter, is taken from the port; it is recorded where its
TARGET has no hold, raises a smaller extension, and changes nothing where the recorded one is no smaller (R48 to R53, R136,
R430, R483). -/
def Obligations.HoldNoticesAreIssued : Prop :=
  ∀ (p : Part) (s : State),
    let x := s.m.part p
    (∀ q, s.m.partOfPort q = some p → x.running = true →
      let flits := (s.m.port q).replayBuf.map (·.flit) ++ (s.m.port q).displacedQ
      ((∀ y ∈ flits, ¬ atRisk x s.m.wall y) → exec (.plannedFlitWatch q) s = .next s) ∧
      ∀ pre f post, flits = pre ++ f :: post → (∀ y ∈ pre, ¬ atRisk x s.m.wall y) → atRisk x s.m.wall f →
        (∀ tgt e, chooseNotice x f.deadline f.rem = some (tgt, e) →
          ∃ s', exec (.plannedFlitWatch q) s = .next s' ∧ Still s s' ∧ MemoriesStand s s' ∧ s'.m.tiles = s.m.tiles
            ∧ ((s'.m.part p).hold tgt).isSome = true
            ∧ (post = [] → (s'.m.part p).serial = (x.serial + 1) % 2 ^ 16)) ∧
        (chooseNotice x f.deadline f.rem = none → x.member.st = .running →
          ∃ s', exec (.plannedFlitWatch q) s = .next s' ∧ Still s s' ∧ MemoriesStand s s' ∧ DomainFailed p 0x0022 s s')) ∧
    (∀ t i v rod, t ∈ x.tiles → (s.m.tile t).ventries[i]? = some v → v.ext = .pending → v.skipped = false →
      v.entered = false → 0 < v.vhold → x.running = true →
      (match x.standing with
        | none => x.live = true ∧ rod = x.rod
        | some st => st.target / 5 ≤ rod ∧ s.m.wall = st.since + 5 * (rod - st.target / 5) ∧ s.m.wall < x.holdEndsAt st) →
      (v.used = 0 → v.deadline / 5 = x.rod + x.member.params.g + 64 →
        ∃ s', exec (.vHoldCheck p rod) s = .next s' ∧ Still s s' ∧ MemoriesStand s s'
          ∧ (s'.m.tile t).ventries[i]? = some { v with used := 1 }
          ∧ ((s'.m.part p).hold (5 * (v.deadline / 5 - 64))).isSome = true) ∧
      (∀ st h, x.standing = some st → st.target = 5 * (v.deadline / 5 - 64) → x.hold st.target = some h →
        v.deadline / 5 ≠ x.rod + x.member.params.g + 64 → v.used < v.vhold → h.ext < 15 →
        (h.ext + 1) * x.member.params.h - (s.m.wall - st.since) / 5 = x.member.params.g → 64 < v.deadline / 5 →
        (∀ u ∈ x.tiles, ∀ (j : Nat) w, (s.m.tile u).ventries[j]? = some w → (u, j) ≠ (t, i) → w.deadline / 5 ≠ v.deadline / 5) →
        ∃ s', exec (.vHoldCheck p rod) s = .next s' ∧ Still s s' ∧ MemoriesStand s s'
          ∧ (s'.m.tile t).ventries[i]? = some { v with used := v.used + 1 }
          ∧ ((s'.m.part p).hold st.target).map (·.ext) = some (h.ext + 1))) ∧
    (∀ k, x.thermNext = some k → x.running = true → s.hub.power.thermStep ≠ 0 →
      5 * (k - x.member.params.g) ≤ x.ctr →
      ∃ s', exec (.thermalHoldNotice p) s = .next s' ∧ Still s s' ∧ MemoriesStand s s'
        ∧ (s'.m.part p).thermPrev = some k ∧ (s'.m.part p).thermNext = none
        ∧ ((s'.m.part p).hold (5 * k)).isSome = true) ∧
    (∀ w : Reg, s.regLive pf0 0x0B00 = true → w.getLsbD 31 = true → toFin 8 (fld w 2 0) = p →
      ∃ s', exec (.holdReq w) s = .next s' ∧ Still s s' ∧ MemoriesStand s s'
        ∧ s'.m.regs.holdReq = (if x.running && !x.failing then 1 else 2)
        ∧ (x.running = true → x.failing = false →
            ((s'.m.part p).hold (5 * gridAhead x.rod x.member.params.g)).isSome = true)
        ∧ (x.running = false ∨ x.failing = true → s'.m.parts = s.m.parts)) ∧
    (∀ (q : PortId) (b : Bytes) (h : BitVec 64) (n : Nat) (rest : List (Bytes × BitVec 64 × Nat)),
      let tgt := (Notice.parse b).target
      let new : HoldEntry := { target := tgt, ext := (Notice.parse b).ext, reason := (Notice.parse b).reason
                               origin := (Notice.parse b).origin }
      (s.m.port q).rxHold = (b, h, n) :: rest → noticeGood b (s.m.port q).domain = true → s.m.partOfPort q = some p →
      (x.member.st = .committed ∨ x.member.st = .running) →
      (x.ctr < tgt ∨ (∃ st, x.standing = some st ∧ st.target = tgt)) →
      ∃ s', exec (.holdNotice q) s = .next s' ∧ Still s s' ∧ MemoriesStand s s' ∧ s'.m.tiles = s.m.tiles
        ∧ (s'.m.port q).rxHold = rest ∧ (s'.m.part p).member = x.member ∧ (s'.m.part p).standing = x.standing
        ∧ (x.hold tgt = none → (s'.m.part p).hold tgt = some new)
        ∧ (∀ e, x.hold tgt = some e →
            (e.ext < new.ext → (s'.m.part p).hold tgt = some new)
            ∧ (new.ext ≤ e.ext → (s'.m.part p).holds = x.holds))
        ∧ (∀ k ∈ s.m.domainPorts p, k ≠ q → (x.hold tgt = none ∨ ∃ e, x.hold tgt = some e ∧ e.ext < new.ext) →
            (s'.m.port k).txHold = (s.m.port k).txHold ++ [holdFlit b (s.m.port k).domain]))

/-! ### Links -/

/-- LINK_SLOT in a slot that begins now. A waiting HOLD goes first, in an assigned slot too, and the planned flit of that slot
is displaced; with none, nor a PL replay, the planned flit goes in its assigned slot; in CALIBRATE a waiting LCTL goes.
Each is a new flit. In an unassigned slot of a port with nothing to send an IDLE goes (R246, R249 to R251). -/
def Obligations.LinkSlotSendsHoldFirst : Prop :=
  ∀ (q : PortId) (s : State), SlotBegins q s →
    let x := s.m.port q
    let w := s.m.wall
    (∀ f rest, x.wide = true → x.txHold = f :: rest → x.replayBuf.length < 1024 →
      (s.m.slotFlit q = none →
        ∃ s', exec (.linkSlot q) s = .next s' ∧ PortFrame q s s' ∧ SentNew q f s s' ∧ (s'.m.port q).txHold = rest
          ∧ (s'.m.port q).displacedQ = x.displacedQ ∧ (s'.m.port q).slotAt = w + 1) ∧
      (∀ e, s.m.slotFlit q = some e → x.displacedQ.length < 256 →
        ∃ s', exec (.linkSlot q) s = .next s' ∧ PortFrame q s s' ∧ SentNew q f s s' ∧ (s'.m.port q).txHold = rest
          ∧ (s'.m.port q).displacedQ = x.displacedQ ++ [e.flit] ∧ e ∉ (s'.m.port q).planned)) ∧
    (∀ e, x.carries = true → (x.wide = true → x.txHold = [] ∧ x.replays w true = []) → s.m.slotAssigned q = true →
      s.m.slotFlit q = some e → x.replayBuf.length < 1008 →
      ∃ s', exec (.linkSlot q) s = .next s' ∧ PortFrame q s s' ∧ SentNew q e.flit s s' ∧ e ∉ (s'.m.port q).planned
        ∧ (s'.m.port q).displacedQ = x.displacedQ ∧ (s'.m.port q).txHold = x.txHold) ∧
    (∀ f, x.st = .calibrate → x.nextLctl = some f → x.initRcvd = none → s.m.slotFlit q = none →
      ∃ s', exec (.linkSlot q) s = .next s' ∧ PortFrame q s s' ∧ SentNew q f s s' ∧ (s'.m.port q).st = .calibrate
        ∧ (s'.m.port q).txLctl = removeFirst (· == f) x.txLctl
        ∧ (s'.m.port q).initSent = (x.initSent || leAt f.payload 0 1 == 1)) ∧
    (x.carries = true → s.m.slotAssigned q = false → s.m.slotFlit q = none → x.pick w false none = .idle →
      ∃ s', exec (.linkSlot q) s = .next s' ∧ PortFrame q s s' ∧ SentIdle q s s')

/-- Order 7 of Table LNK-5, in an unassigned slot that nothing of orders 1 to 6 takes: the first VC after the one last served
that has a flit ready and a credit sends its oldest flit and spends a credit; with no such VC an IDLE goes, and the turn
stays (R264). A COMMIT alone leaves with another payload than it waited with, since its STAMP is taken as it is sent (R301). -/
def Obligations.VcsAreServedInTurn : Prop :=
  ∀ (q : PortId) (s : State), SlotBegins q s → OrderSeven q s →
    let x := s.m.port q
    let vc (i : Nat) : Nat := (x.lastVc + i) % 5 + 1
    let able (v : Nat) : Prop := x.txVc[v - 1]! ≠ [] ∧ 0 < x.creditOf v s.m.wall
    (∀ i, i < 5 → able (vc i) → (∀ j, j < i → ¬ able (vc j)) →
      ∃ s' w f rest, exec (.linkSlot q) s = .next s' ∧ x.txVc[vc i - 1]! = f :: rest
        ∧ (s'.m.port q).txVc = x.txVc.set! (vc i - 1) rest ∧ (s'.m.port q).lastVc = vc i
        ∧ (s'.m.port q).creditOf (vc i) s.m.wall + 1 = x.creditOf (vc i) s.m.wall
        ∧ (s'.m.port q).sent = some w ∧ w.seq = x.nextSeq
        ∧ (¬ (vc i = 5 ∧ f.sop = true ∧ leAt f.payload 16 1 = 3) → w.payload = sliceB f.payload 0 240)) ∧
    ((∀ i, i < 5 → ¬ able (vc i)) →
      ∃ s', exec (.linkSlot q) s = .next s' ∧ SentIdle q s s' ∧ (s'.m.port q).txVc = x.txVc
        ∧ (s'.m.port q).lastVc = x.lastVc ∧ (s'.m.port q).credits = x.credits)

/-- FLIT_RECEIVE in CALIBRATE, ACTIVE or NARROW, where the markers agree with the lanes and no lane passes its symbol limit.
A flit that an uncorrectable codeword or a discarded frame touches, or that checks under no member of the window or several,
is corrupt: counted, and the next number expected is NAKed. A good IDLE has its ACK taken, and its domain ID. A good flit of
the number expected is delivered: LCTL, HOLD and PV to their queues, the first DATA flit of a packet opens it. A good flit of
an older number is a duplicate, and one ahead is held while a hole stands before it (R244, R248, R255 to R258). -/
def Obligations.ReceivedFlitIsClassified : Prop :=
  ∀ (q : PortId) (v : BitVec 2048) (fec : FecReport) (s : State),
    let x := s.m.port q
    let bytes := leBytes 256 v.toNat
    let h := BitVec.ofNat 64 (leAt bytes 0 8)
    let body := sliceB bytes 8 240
    let spoiled := (decide (x.rxSlots % 34 ≠ 0) && x.rxDiscard) || (x.slotErrors fec).any (fun e => symbolErrors e > 15)
    let hits := windowHits x (sliceB bytes 0 248) (BitVec.ofNat 64 (leAt bytes 248 8))
    let good (n : Option Nat) : Prop := spoiled = false ∧ hits = [n] ∧ headerFault x h = none ∧ contentFault x h body = none
    (x.carries = true ∨ x.st = .calibrate) → (∀ ps, fec.markers = some ps → mapAgrees x.rxLanes ps = true) →
    (∀ i, i < 5 → x.winSymbols[i]! + 30 ≤ 131072) → x.winCorrupt < 4096 → x.ack < 4096 →
    ((spoiled = true ∨ ∀ n, hits ≠ [n]) →
      ∃ s', exec (.flitReceive q v fec) s = .next s' ∧ PortFrame q s s'
        ∧ (s'.m.port q).counts.corrupt = x.counts.corrupt.add 1 ∧ (s'.m.port q).st = x.st
        ∧ (s'.m.port q).next = x.next ∧ (s'.m.port q).ack = x.ack
        ∧ (s'.m.port q).nakQ.any (fun n => n.1 == x.next) = true) ∧
    (good none → hType h = 0 →
      ∃ s', exec (.flitReceive q v fec) s = .next s' ∧ PortFrame q s s'
        ∧ (s'.m.port q).rxDomain = hDomain h ∧ (s'.m.port q).counts.corrupt = x.counts.corrupt
        ∧ (s'.m.port q).next = x.next ∧ (s'.m.port q).ack = x.ack
        ∧ (s'.m.port q).replayBuf = (if seqDist (hAck h) x.ackTaken = 0 then x.replayBuf
            else x.replayBuf.filter (fun o => seqDist (hAck h) x.ackTaken ≤ seqDist o.seq x.ackTaken))) ∧
    (good (some x.ack) → hType h ≠ 0 → (∀ k ∈ x.held, k.1 ≠ x.ack ∧ k.1 ≠ (x.ack + 1) % 4096) →
      (2 ≤ hType h →
        ∃ s', exec (.flitReceive q v fec) s = .next s' ∧ PortFrame q s s' ∧ (s'.m.port q).ack = (x.ack + 1) % 4096
          ∧ (s'.m.port q).held = x.held
          ∧ (s'.m.port q).rxHold = x.rxHold ++ (if hType h = 2 then [(body, h, x.ack)] else [])
          ∧ (s'.m.port q).rxLctl = x.rxLctl ++ (if hType h = 3 then [(body, h, x.ack)] else [])
          ∧ (s'.m.port q).rxPv = x.rxPv ++ (if hType h = 4 then [body] else [])) ∧
      (hType h = 1 → 1 ≤ hVc h → hSop h = true → hEop h = false → x.partials[hVc h]! = none →
        ∃ s', exec (.flitReceive q v fec) s = .next s' ∧ PortFrame q s s' ∧ (s'.m.port q).ack = (x.ack + 1) % 4096
          ∧ (s'.m.port q).held = x.held ∧ (s'.m.port q).used = x.used.set! (hVc h - 1) (x.used[hVc h - 1]! + 1)
          ∧ (s'.m.port q).partials[hVc h]! = some { payload := body, flits := 1, domain := hDomain h, first := s.m.wall })) ∧
    (∀ n, good (some n) → hType h ≠ 0 →
      ((3072 ≤ seqDist n x.ack ∨ ∃ k ∈ x.held, k.1 = n) →
        ∃ s', exec (.flitReceive q v fec) s = .next s' ∧ PortFrame q s s'
          ∧ (s'.m.port q).counts.duplicates = x.counts.duplicates.add 1 ∧ (s'.m.port q).held = x.held
          ∧ (s'.m.port q).ack = x.ack ∧ (s'.m.port q).next = x.next) ∧
      (1 ≤ seqDist n x.ack → seqDist n x.ack < 64 → (∀ k ∈ x.held, k.1 ≠ n ∧ k.1 ≠ x.ack) →
        ∃ s', exec (.flitReceive q v fec) s = .next s' ∧ PortFrame q s s' ∧ (s'.m.port q).held = x.held ++ [(n, h, body)]
          ∧ (s'.m.port q).ack = x.ack ∧ (s'.m.port q).holes.any (fun k => k.seq == x.ack) = true))

/-- A notice whose TARGET the counter has passed, or has reached with no hold recorded at it, where the counter does not
stand there: whether it asks for a new hold or for an extension of an ended one, the module records HOLD_LATE, its plan stops, no hold is recorded, and the
domain fails as for a failed node: DOMAIN_FAILED is posted and an ABORT with this cause waits for every domain port (R54). -/
def Obligations.LateHoldFailsTheDomain : Prop :=
  ∀ (q : PortId) (p : Part) (s : State) (b : Bytes) (h : BitVec 64) (n : Nat) (rest : List (Bytes × BitVec 64 × Nat)),
    (s.m.port q).rxHold = (b, h, n) :: rest → noticeGood b (s.m.port q).domain = true → s.m.partOfPort q = some p →
    ((s.m.part p).member.st = .running ∨ (s.m.part p).member.st = .committed) →
    (∀ st, (s.m.part p).standing = some st → st.target ≠ (Notice.parse b).target) →
    ((Notice.parse b).target < (s.m.part p).ctr
      ∨ ((Notice.parse b).target = (s.m.part p).ctr ∧ (s.m.part p).hold (Notice.parse b).target = none)) →
    ∃ s', exec (.holdNotice q) s = .next s' ∧ Still s s' ∧ MemoriesStand s s' ∧ s'.m.tiles = s.m.tiles
      ∧ (s'.m.port q).rxHold = rest ∧ (s'.m.part p).holds = (s.m.part p).holds
      ∧ ((s.m.part p).faultLog.length < 16 → ∃ r, (s'.m.part p).faultLog = (s.m.part p).faultLog ++ [r]
          ∧ r.code = 0x0023 ∧ r.object = q.val ∧ r.cycle = (s.m.part p).ctr)
      ∧ (16 ≤ (s.m.part p).faultLog.length → (s'.m.part p).flogOvf = true)
      ∧ (s'.m.part p).running = false ∧ (s'.m.part p).member.st = .teardown
      ∧ (s'.m.part p).member.failed = some 0x0023 ∧ (s'.m.part p).member.since = s.m.wall
      ∧ (s'.m.func (vfOf p)).events.any (fun e => e.1 == evDomainFailed) = true
      ∧ (s'.m.func pf0).events.any (fun e => e.1 == evDomainFailed) = true
      ∧ (∀ k, s.m.isDomainPort p k = true → (s'.m.port k).txVc[4]! ≠ [])
      ∧ ∀ k, k ≠ p → s'.m.part k = s.m.part k

/-- The LCTL rows of a port. INIT in CALIBRATE with buffers no larger than the table's is taken; where this end's INIT has left
it completes the exchange: ACTIVE, or NARROW where the port is built narrow; larger buffers are a violation. KA_REQ at a
drained end is answered by KA_ACK, unless this end has sent a KA_REQ itself, and waits at another; KA_ACK is the answer to
this end's KA_REQ; a port that has sent and received both, drained, enters KEEPALIVE at its next frame boundary; a KA_REQ
unanswered for 400 rods is sent again; PV is counted and dropped (R266, R268, R273). -/
def Obligations.LctlRowsAct : Prop :=
  ∀ (q : PortId) (s : State),
    let x := s.m.port q
    (∀ b h n rest, x.rxLctl = (b, h, n) :: rest → leAt b 0 1 = 1 →
      let bufs := (List.range 5).map (fun i => leAt b (5 + 2 * i) 2)
      ((bufs.zip vcBuffers).any (fun e => e.1 > e.2) = true → x.winViol < 64 →
        ∃ s', exec (.init q) s = .next s' ∧ PortFrame q s s' ∧ s'.m.parts = s.m.parts ∧ (s'.m.port q).rxLctl = rest
          ∧ (s'.m.port q).st = x.st ∧ (s'.m.port q).initRcvd = x.initRcvd
          ∧ (s'.m.port q).txPv = x.txPv ++ [pvFlit 9 h n]) ∧
      ((bufs.zip vcBuffers).any (fun e => e.1 > e.2) = false → x.st = .calibrate →
        (x.initSent = false →
          ∃ s', exec (.init q) s = .next s' ∧ PortFrame q s s' ∧ s'.m.parts = s.m.parts
            ∧ s'.m.port q = { x with rxLctl := rest, initRcvd := some bufs
                                     partner := some (BitVec.ofNat 24 (leAt b 1 3), leAt b 4 1) }) ∧
        (x.initSent = true → (x.narrowBuild = true ∨ (wantsNarrow x.rxLanes = false ∧ wantsNarrow x.txLanes = false)) →
          ∃ s', exec (.init q) s = .next s' ∧ PortFrame q s s'
            ∧ (s'.m.port q).st = (if x.narrowBuild then .narrow else .active)
            ∧ (s'.m.port q).partner = some (BitVec.ofNat 24 (leAt b 1 3), leAt b 4 1)
            ∧ (s'.m.port q).credits = Vector.ofFn (fun i => leAt b (5 + 2 * i.val) 2)
            ∧ (s'.m.port q).nextSeq = 0 ∧ (s'.m.port q).replayBuf = []))) ∧
    (∀ b h n rest, x.rxLctl = (b, h, n) :: rest → leAt b 0 1 = 2 →
      (x.drained = true →
        ∃ s', exec (.kaReq q) s = .next s' ∧ PortFrame q s s' ∧ s'.m.parts = s.m.parts
          ∧ s'.m.port q = { x with rxLctl := rest, kaRcvd := true
                                   txLctl := x.txLctl ++ (if x.kaSent.isSome then [] else [lctlFlit 3 []]) }) ∧
      (x.drained = false → exec (.kaReq q) s = .next s)) ∧
    (∀ b h n rest, x.rxLctl = (b, h, n) :: rest → leAt b 0 1 = 3 →
      ∃ s', exec (.kaAck q) s = .next s' ∧ PortFrame q s s' ∧ s'.m.parts = s.m.parts
        ∧ s'.m.port q = { x with rxLctl := rest, kaRcvd := x.kaRcvd || x.kaSent.isSome }) ∧
    (x.kaDue = true → s.m.nextSlot q (max x.slotAt s.m.wall) = s.m.wall → s.m.nextFrame q s.m.wall = s.m.wall →
      ∃ s', exec (.linkSlot q) s = .next s' ∧ Still s s' ∧ MemoriesStand s s' ∧ (s'.m.port q).st = .keepalive
        ∧ (s'.m.port q).enteredAt = s.m.wall ∧ (s'.m.port q).latency = x.latency) ∧
    (∀ t, x.kaSent = some t → x.st = .active → x.kaRcvd = false → t + 2000 ≤ s.m.wall →
      ∃ s', exec (.kaReqRetry q) s = .next s' ∧ PortFrame q s s' ∧ s'.m.parts = s.m.parts
        ∧ s'.m.port q = { x with kaSent := some s.m.wall, txLctl := x.txLctl ++ [lctlFlit 2 []] }) ∧
    (∀ b rest, x.rxPv = b :: rest →
      ∃ s', exec (.pv q) s = .next s' ∧ PortFrame q s s' ∧ s'.m.parts = s.m.parts
        ∧ s'.m.port q = { x with rxPv := rest, counts := { x.counts with pvReceived := x.counts.pvReceived.add 1 } })

/-- The lane rows. A SWAP_REQ for an active transmit lane of a port with a spare waits for its frame: in a hold, new or in
progress with 85 rods left, where the running plan uses the port. With no spare, or a swap waiting, the lane fails and the
port runs NARROW. LANE_SWAP at a frame boundary gives the lane's data to the spare and marks the lane failed, or takes the
partner's new mapping of a bad receive lane. A PRBS31 window beyond 131,072 errors marks a lane DEGRADED; a lane without
lock is FAILED, and where it carries data a swap is asked for (R269 to R272). -/
def Obligations.LanesAreSwapped : Prop :=
  ∀ (q : PortId) (s : State),
    let x := s.m.port q
    (∀ b h n rest, x.rxLctl = (b, h, n) :: rest → leAt b 0 1 = 4 → leAt b 17 1 ≤ 4 →
      let lane := leAt b 17 1
      (x.txLanes[lane]!).active = true → x.swapLane ≠ some lane →
      (x.st ≠ .narrow → (spareLane x.txLanes).isSome = true → x.swapLane = none →
        ((∀ p, s.m.partOfPort q = some p → (s.m.part p).running = false ∨ s.m.planUses p q = false) →
          ∃ s', exec (.swapReq q) s = .next s' ∧ PortFrame q s s' ∧ s'.m.parts = s.m.parts
            ∧ s'.m.port q = { x with rxLctl := rest, swapLane := some lane, swapTarget := none }) ∧
        (∀ p, s.m.partOfPort q = some p → (s.m.part p).running = true → s.m.planUses p q = true →
          (∀ st, (s.m.part p).standing = some st → s.m.wall + 425 ≤ (s.m.part p).holdEndsAt st →
            ∃ s', exec (.swapReq q) s = .next s' ∧ PortFrame q s s' ∧ s'.m.parts = s.m.parts
              ∧ s'.m.port q = { x with rxLctl := rest, swapLane := some lane, swapTarget := some st.target }) ∧
          ((∀ st, (s.m.part p).standing = some st → (s.m.part p).holdEndsAt st < s.m.wall + 425) →
            let tgt := 5 * gridAhead (s.m.part p).rod (s.m.part p).member.params.g
            ∃ s', exec (.swapReq q) s = .next s' ∧ Still s s' ∧ MemoriesStand s s' ∧ s'.m.tiles = s.m.tiles
              ∧ (s'.m.port q).swapLane = some lane ∧ (s'.m.port q).swapTarget = some tgt
              ∧ ((s'.m.part p).hold tgt).isSome = true))) ∧
      (x.carries = true → (x.st = .narrow ∨ (spareLane x.txLanes).isNone = true ∨ x.swapLane.isSome = true) →
        let vt := narrowRoles (x.failTx (lane :: x.swapLane.toList)).txLanes
        activeLanes vt ≠ [] → activeLanes (narrowRoles x.rxLanes) ≠ [] →
        ∃ s', exec (.swapReq q) s = .next s' ∧ Still s s' ∧ MemoriesStand s s' ∧ (s'.m.port q).st = .narrow
          ∧ (s'.m.port q).txLanes = vt ∧ (s'.m.port q).swapLane = none)) ∧
    (s.m.nextFrame q s.m.wall = s.m.wall → ∀ lane, x.swapLane = some lane → lane < 5 →
      (swapMay q s.m = false → exec (.laneSwap q) s = .next s) ∧
      (∀ k, swapMay q s.m = true → spareLane x.txLanes = some k → k ≠ lane →
        ∃ s', exec (.laneSwap q) s = .next s' ∧ PortFrame q s s' ∧ s'.m.parts = s.m.parts ∧ (s'.m.port q).swapLane = none
          ∧ ((s'.m.port q).txLanes[lane]!).active = false ∧ ((s'.m.port q).txLanes[lane]!).failed = true
          ∧ ((s'.m.port q).txLanes[k]!).active = true
          ∧ (∀ i, i < 5 → i ≠ lane → i ≠ k → (s'.m.port q).txLanes[i]! = x.txLanes[i]!)
          ∧ (s'.m.port q).rxLanes = x.rxLanes)) ∧
    (∀ lane rest, x.swapLane = none → badLanes x.rxLanes = lane :: rest →
      ∃ s', exec (.laneSwap q) s = .next s' ∧ PortFrame q s s' ∧ s'.m.parts = s.m.parts
        ∧ s'.m.port q = { x with rxLanes := swapRoles x.rxLanes lane }) ∧
    (∀ (lane : Fin 5) n, 131072 < n → ((x.carries = true ∧ (x.rxLanes[lane.val]!).active = false) ∨ x.st = .keepalive) →
      (x.rxLanes[lane.val]!).failed = false →
      ∃ s', exec (.prbs31Check q lane n) s = .next s' ∧ PortFrame q s s' ∧ s'.m.parts = s.m.parts
        ∧ s'.m.port q = { x with rxLanes := x.rxLanes.set! lane.val { (x.rxLanes[lane.val]!) with degraded := true } }) ∧
    (∀ (lane : Fin 5), x.locked = true → (x.rxLanes[lane.val]!).failed = false →
      (∃ s', exec (.lossOfSymbolLock q lane) s = .next s' ∧ Still s s' ∧ MemoriesStand s s'
        ∧ ((s'.m.port q).rxLanes[lane.val]!).failed = true) ∧
      (x.st = .active → (x.rxLanes[lane.val]!).active = true → badLanes x.rxLanes = [] →
        (spareLane x.rxLanes).isSome = true →
        ∃ s', exec (.lossOfSymbolLock q lane) s = .next s' ∧ PortFrame q s s' ∧ s'.m.parts = s.m.parts
          ∧ (s'.m.port q).st = .active
          ∧ (s'.m.port q).txLctl = x.txLctl ++ [lctlFlit 4 (List.replicate 16 0 ++ leBytes 1 lane.val)]))

/-- The replay rows. A hole is NAKed again 2h + 6 rods after its last NAK, the one longest due first, unless a NAK of it
waits. With the ACK standing for 400 rods every outstanding flit is replayed at the end of that rod, up to four times
running, and then the port enters DOWN (R257, R259, R277). -/
def Obligations.ReplaysAreTimed : Prop :=
  ∀ (q : PortId) (s : State),
    let x := s.m.port q
    (∀ h ∈ x.holes, ∀ t, h.lastNak = some t → (∀ k ∈ x.holes, ∀ u, k.lastNak = some u → k = h ∨ t < u) →
      t + 5 * (2 * x.hop + 6) ≤ s.m.wall →
      ∃ s', exec (.nakResend q) s = .next s' ∧ PortFrame q s s' ∧ s'.m.parts = s.m.parts
        ∧ s'.m.port q = { x with nakQ := x.nakQ
            ++ (if x.nakQ.any (fun n => n.1 == h.seq) then [] else [(h.seq, s.m.wall + 5)]) }) ∧
    (x.replayBuf ≠ [] → x.carries = true → x.ackSince + 2000 ≤ s.m.wall → (s.m.wall + s.m.rodPhase q) % 5 = 4 →
      (x.goBackRun < 4 →
        ∃ s', exec (.goBackReplay q) s = .next s' ∧ PortFrame q s s' ∧ s'.m.parts = s.m.parts
          ∧ (∀ o ∈ x.replayBuf, (s'.m.port q).replayQ.any (fun r => r.1 == o.seq && r.2.2) = true)
          ∧ (∀ r ∈ x.replayQ, r ∈ (s'.m.port q).replayQ)
          ∧ (s'.m.port q).replayBuf = x.replayBuf ∧ (s'.m.port q).goBackRun = x.goBackRun + 1
          ∧ (s'.m.port q).ackSince = s.m.wall ∧ (s'.m.port q).counts.goBacks = x.counts.goBacks.add 1) ∧
      (4 ≤ x.goBackRun →
        ∃ s', exec (.goBackReplay q) s = .next s' ∧ Still s s' ∧ MemoriesStand s s' ∧ (s'.m.port q).st = .down
          ∧ (s'.m.port q).replayBuf = []))

/-- The training rows. TRAIN_START takes a DOWN port of an addressed module with its clock running to TRAIN; TRAIN_COMPLETE
with a lane left in each direction and a round trip of at most 198 rods a way takes it to CALIBRATE with half the round trip,
rounded up, as its latency and its INIT waiting, and with a longer one to DOWN; TRAIN_FAILED, and CALIBRATE for 100 us, take
it to DOWN; KEEPALIVE_EXIT to CALIBRATE with the latency it had, and a module in STANDBY wakes; ALIGN_LOST leaves it
unplanned traffic alone, and fails a domain whose plan uses it (R36, R260, R265, R279, R418). -/
def Obligations.PortsTrain : Prop :=
  ∀ (q : PortId) (s : State),
    let x := s.m.port q
    (x.st = .down → s.m.regs.nodeWritten = true → s.hub.clock ≠ .off →
      ∃ s', exec (.trainStart q) s = .next s' ∧ PortFrame q s s' ∧ s'.m.parts = s.m.parts ∧ (s'.m.port q).st = .train
        ∧ (s'.m.port q).enteredAt = s.m.wall ∧ (s'.m.port q).stored = x.latency.isSome) ∧
    (∀ (rx tx : BitVec 5) n, x.st = .train → activeLanes (trainedRoles x.rxLanes rx) ≠ [] →
      activeLanes (trainedRoles x.txLanes tx) ≠ [] →
      (hopRods (ceilDiv n 2) ≤ 198 →
        ∃ s', exec (.trainComplete q rx tx n) s = .next s' ∧ PortFrame q s s' ∧ s'.m.parts = s.m.parts
          ∧ (s'.m.port q).st = .calibrate ∧ (s'.m.port q).latency = some (ceilDiv n 2)
          ∧ (s'.m.port q).rxLanes = trainedRoles x.rxLanes rx ∧ (s'.m.port q).txLanes = trainedRoles x.txLanes tx
          ∧ (s'.m.port q).alignLost = false ∧ (s'.m.port q).txLctl = [s'.m.initFlit q]) ∧
      (198 < hopRods (ceilDiv n 2) →
        ∃ s', exec (.trainComplete q rx tx n) s = .next s' ∧ PortFrame q s s' ∧ (s'.m.port q).st = .down
          ∧ (s'.m.port q).trainReport = 3)) ∧
    (∀ order, x.st = .train → (order = true ∨ x.enteredAt + 3 * (if x.stored then ms 2 else ms 100) ≤ s.m.wall) →
      ∃ s', exec (.trainFailed q order) s = .next s' ∧ PortFrame q s s' ∧ (s'.m.port q).st = .down
        ∧ (s'.m.port q).trainReport = (if order then 2 else 1)) ∧
    (x.st = .calibrate → x.enteredAt + us 100 ≤ s.m.wall →
      ∃ s', exec (.calibrateTimeout q) s = .next s' ∧ PortFrame q s s' ∧ (s'.m.port q).st = .down) ∧
    (x.st = .keepalive →
      ∃ s', exec (.keepaliveExit q) s = .next s' ∧ s'.hub = s.hub.beginWake 5 s.m.wall ∧ s'.pending = s.pending
        ∧ s'.m.wall = s.m.wall ∧ MemoriesStand s s' ∧ s'.m.parts = s.m.parts
        ∧ (s'.m.port q).st = .calibrate ∧ (s'.m.port q).latency = x.latency) ∧
    (x.st = .active →
      ((∀ p, s.m.partOfPort q = some p → s.m.planUses p q = false) →
        ∃ s', exec (.alignLost q) s = .next s' ∧ PortFrame q s s' ∧ s'.m.parts = s.m.parts
          ∧ s'.m.port q = { x with alignLost := true, planned := [], displacedQ := [], txHold := [] }) ∧
      (∀ p, s.m.partOfPort q = some p → s.m.planUses p q = true →
        ∃ s', exec (.alignLost q) s = .next s' ∧ Still s s' ∧ MemoriesStand s s' ∧ DomainFailed p 0x0026 s s'
          ∧ (s'.m.port q).st = .active ∧ (s'.m.port q).alignLost = true))


/-! ### Packets -/

/-- A packet whose target lies in its place is written there, every other byte standing: PWRITE in the receiving half of a bin
of a running plan, RDATA for the first request that awaits it, which completes with OK, MCAST at each member of its line,
which sends it on toward the next, and CHAIN. A PWRITE of an earlier furlong fails the domain with LATE_FLIT, 0x0021, and one
with another target with 0x0025; an RDATA that no request awaits is dropped and counted (R47, R286 to R288, R295, R352). -/
def Obligations.ArrivedPacketsLand : Prop :=
  ∀ (q : PortId) (p : Part) (vc : Nat) (pk : Packet) (s : State), s.m.memWf = true → s.m.partOfPort q = some p →
    let x := s.m.part p
    let h := pk.header
    let tag := BitVec.ofNat 12 (pkTag h)
    (arrived q kPwrite [0] s.m = some (vc, pk) → x.running = true → x.member.st = .running →
      (∀ i a, packetTarget x (pkDbay h) (pkOffset h) pk.body.length = .ok (.store i a) →
        ((∀ e, s.m.planOf p h = some e → x.furlong ≤ e.1) →
          inReceiving (s.m.tile (toFin 64 (8 * pkDbay h + i))) x.furlong (a / 64) (pk.body.length / 64) = true →
          ∃ s', exec (.pwrite q) s = .next s' ∧ Still s s' ∧ BayBecame s.m s'.m (pkDbay h) (.store i a) pk.body
            ∧ (x.standing = none → s'.m.tiles = s.m.tiles)) ∧
        ((∀ e, s.m.planOf p h = some e → x.furlong ≤ e.1) →
          inReceiving (s.m.tile (toFin 64 (8 * pkDbay h + i))) x.furlong (a / 64) (pk.body.length / 64) = false →
          ∃ s', exec (.pwrite q) s = .next s' ∧ Still s s' ∧ MemoriesStand s s' ∧ DomainFailed p 0x0025 s s') ∧
        (∀ e, s.m.planOf p h = some e → e.1 < x.furlong →
          ∃ s', exec (.pwrite q) s = .next s' ∧ Still s s' ∧ MemoriesStand s s' ∧ DomainFailed p 0x0021 s s')) ∧
      ((∀ i a, packetTarget x (pkDbay h) (pkOffset h) pk.body.length ≠ .ok (.store i a)) →
        ∃ s', exec (.pwrite q) s = .next s' ∧ Still s s' ∧ MemoriesStand s s' ∧ DomainFailed p 0x0025 s s')) ∧
    (arrived q kRdata [2] s.m = some (vc, pk) →
      (∀ w, packetTarget x (pkDbay h) (pkOffset h) pk.body.length = .ok w → awaits x tag →
        ∃ s', exec (.rdata q) s = .next s' ∧ Still s s' ∧ BayBecame s.m s'.m (pkDbay h) w pk.body
          ∧ Answered p tag 0 s s' ∧ s'.m.tiles = s.m.tiles) ∧
      (¬ awaits x tag →
        ∃ s', exec (.rdata q) s = .next s' ∧ Still s s' ∧ MemoriesStand s s' ∧ Answered p tag 0 s s')) ∧
    (∀ b w, arrived q kMcast [3] s.m = some (vc, pk) → x.bayAt (pkDbay h) = some b →
      packetTarget x b (pkOffset h) pk.body.length = .ok w →
      (pkDnode h = s.m.node →
        ∃ s', exec (.mcast q) s = .next s' ∧ Still s s' ∧ BayBecame s.m s'.m b w pk.body
          ∧ (s'.m.part p).member = x.member ∧ s'.m.tiles = s.m.tiles) ∧
      (∀ d me t, pkDnode h ≠ s.m.node → x.member.desc = some d → s.m.memberIndex p = some me →
        d.memberOf (pkDnode h) = some t → mcReaches d me t (pkMcdir h) = true →
        ∃ s' k, exec (.mcast q) s = .next s' ∧ Still s s' ∧ BayBecame s.m s'.m b w pk.body ∧ s'.m.tiles = s.m.tiles
          ∧ (s'.m.part p).member.originQ = x.member.originQ ++ [k] ∧ k.vc = 3 ∧ k.body = pk.body
          ∧ k.header = packetHeader (pkDnode h) (pkDbay h) kMcast (pkOffset h) s.m.node b (pkLines h)
              (x.member.nextTag % 4096) (pkMcdir h))) ∧
    (∀ w, packetTarget x (pkDbay h) (pkOffset h) pk.body.length = .ok w → arrived q kChain [3, 4] s.m = some (vc, pk) →
      NoGroup s.m →
      ∃ s', exec (.chain q) s = .next s' ∧ Still s s' ∧ BayBecame s.m s'.m (pkDbay h) w pk.body ∧ s'.m.tiles = s.m.tiles)

/-- A WRITE and a READ of a member are served where the answer has its credit, and wait without it: the WRITE lands and is
answered by STATUS OK, within the clean array of the lead each entry taking the larger value; the READ by RDATA with its
lines to the return bay and offset of its body, or by MEM_UE, 3, where one cannot be read; a target outside the bays or
windows by STATUS with its code, nothing being written. STATUS completes the first request that awaits it with its code; a
request unanswered for 10 ms after it was sent completes with TIMEOUT, 4 (R286 to R288, R296, R324). -/
def Obligations.RequestsAreAnswered : Prop :=
  ∀ (q : PortId) (p : Part) (vc k e : Nat) (pk : Packet) (s : State), s.m.memWf = true → s.m.partOfPort q = some p →
    NoGroup s.m →
    let x := s.m.part p
    let h := pk.header
    let queued (s' : State) (hdr : BitVec 128) (bs : Bytes) : Prop :=
      (s'.m.port (toFin 16 e)).txVc[1]! = (s.m.port (toFin 16 e)).txVc[1]! ++ packetFlits 2 (s.m.domainId p) hdr bs
    (s.m.sourceOf p pk = some k → s.m.escapePort p k = some e → answerCredit p k s.m = true →
      (arrived q kWrite [1, 4] s.m = some (vc, pk) →
        (∀ w, packetTarget x (pkDbay h) (pkOffset h) pk.body.length = .ok w →
          let clean (v : ServingDesc) (n a : Nat) : Prop :=
            64 * v.clean ≤ a ∧ a + pk.body.length ≤ 64 * (v.clean + ceilDiv n 8)
          ((∀ v n a, s.m.servingWindow p = some (v, n, pkDbay h) → w = .hbm a → ¬ clean v n a) →
            ∃ s', exec (.write q) s = .next s' ∧ Still s s' ∧ BayBecame s.m s'.m (pkDbay h) w pk.body
              ∧ queued s' (statusHeader s.m h 0) []) ∧
          (∀ v n a, s.m.servingWindow p = some (v, n, pkDbay h) → w = .hbm a → clean v n a → 8 ∣ pk.body.length →
            ∃ s', exec (.write q) s = .next s' ∧ Still s s' ∧ queued s' (statusHeader s.m h 0) []
              ∧ ∀ i, 8 * i < pk.body.length →
                  leNat ((s'.m.hbm.get (toFin 8 (pkDbay h))).read (a + 8 * i) 8)
                    = max (leAt pk.body (8 * i) 8) (leNat ((s.m.hbm.get (toFin 8 (pkDbay h))).read (a + 8 * i) 8)))) ∧
        (∀ c, packetTarget x (pkDbay h) (pkOffset h) pk.body.length = .error c →
          ∃ s', exec (.write q) s = .next s' ∧ Still s s' ∧ MemoriesStand s s' ∧ queued s' (statusHeader s.m h c) [])) ∧
      (arrived q kRead [1, 4] s.m = some (vc, pk) →
        let n := 64 * (pkLines h + 1)
        (∀ w bs, packetTarget x (pkDbay h) (pkOffset h) n = .ok w → readBay s.m (pkDbay h) w n = some bs →
          ∃ s', exec (.read q) s = .next s' ∧ Still s s' ∧ MemoriesStand s s' ∧ PacketTaken q vc s s'
            ∧ queued s' (packetHeader (pkSnode h) (leAt pk.body 5 1 % 8) kRdata (leAt pk.body 0 5) s.m.node (pkDbay h)
                (pkLines h) (pkTag h) 0) bs) ∧
        (∀ w, packetTarget x (pkDbay h) (pkOffset h) n = .ok w → readBay s.m (pkDbay h) w n = none →
          ∃ s', exec (.read q) s = .next s' ∧ Still s s' ∧ MemoriesStand s s' ∧ queued s' (statusHeader s.m h 3) []) ∧
        (∀ c, packetTarget x (pkDbay h) (pkOffset h) n = .error c →
          ∃ s', exec (.read q) s = .next s' ∧ Still s s' ∧ MemoriesStand s s' ∧ queued s' (statusHeader s.m h c) []))) ∧
    (s.m.sourceOf p pk = some k → answerCredit p k s.m = false → arrived q kRead [1, 4] s.m = some (vc, pk) →
      exec (.read q) s = .next s) ∧
    (arrived q kStatus [2] s.m = some (vc, pk) →
      ∃ s', exec (.status q) s = .next s' ∧ Still s s' ∧ MemoriesStand s s'
        ∧ Answered p (BitVec.ofNat 12 (pkTag h)) (pkOffset h % 256) s s') ∧
    (∀ pre r post, x.member.requests = pre ++ r :: post → (∀ k ∈ pre, ¬ (k.tag = r.tag ∧ k.done = none)) →
      r.done = none → x.member.unsent r.tag = false → r.sentAt + 10000000 ≤ s.m.wall →
      ∃ s', exec (.requestTimeout p r.tag) s = .next s' ∧ Still s s' ∧ MemoriesStand s s' ∧ s'.m.ports = s.m.ports
        ∧ (s'.m.part p).member.requests = pre ++ { r with done := some 4 } :: post)

/-- PACKET_ROUTE: a packet that `route_unplanned` sends on leaves its queue, and its flits are queued on the port and VC
chosen; one that waits, or has arrived, stays; one to no member is dropped; a member that is running and not frozen sends the
first packet of its origination queue in the same way, and a frozen one sends none (R293, R299, R300). -/
def Obligations.PacketsAreRouted : Prop :=
  ∀ (p : Part) (pk : Packet) (k v : Nat) (s : State),
    let flits (s' : State) : Prop := (s'.m.port (toFin 16 k)).txVc[v - 1]!
      = (s.m.port (toFin 16 k)).txVc[v - 1]! ++ packetFlits v pk.domain pk.header pk.body
    (∀ (q : PortId) (vc : Fin 6), vc.val ≠ 0 → vc.val ≠ 5 → s.m.partOfPort q = some p →
      headPacket q vc.val s.m = some pk →
      (1 ≤ v → v ≤ 5 → routeOf s.m p pk false = some (.go k v) →
        ∃ s', exec (.packetRoute (.rx q vc)) s = .next s' ∧ Still s s' ∧ MemoriesStand s s'
          ∧ PacketTaken q vc.val s s' ∧ flits s') ∧
      (routeOf s.m p pk false = some .wait ∨ routeOf s.m p pk false = some .deliver →
        exec (.packetRoute (.rx q vc)) s = .next s) ∧
      (routeOf s.m p pk false = none →
        ∃ s', exec (.packetRoute (.rx q vc)) s = .next s' ∧ Still s s' ∧ MemoriesStand s s' ∧ PacketTaken q vc.val s s'
          ∧ ∀ j, (s'.m.port j).txVc = (s.m.port j).txVc)) ∧
    (∀ rest, (s.m.part p).member.originQ = pk :: rest →
      ((s.m.part p).member.frozen = false → (s.m.part p).member.st = .running →
        (1 ≤ v → v ≤ 5 → routeOf s.m p pk true = some (.go k v) →
          ∃ s', exec (.packetRoute (.origin p)) s = .next s' ∧ Still s s' ∧ MemoriesStand s s' ∧ flits s'
            ∧ (s'.m.part p).member.originQ.map (·.header) = rest.map (·.header)) ∧
        (routeOf s.m p pk true = some .wait → exec (.packetRoute (.origin p)) s = .next s)) ∧
      ((s.m.part p).member.frozen = true → exec (.packetRoute (.origin p)) s = .next s))

/-! ### Starting, failing and ending a job domain -/

/-- PREPARE, of two in one cycle the lower port's first, at a member that holds none as new. An admitted IDLE member that
finds no cause, with a parent or a tree child whose edge is ACTIVE, is PREPARED with the attempt and its place in the tree;
one that finds a cause, or is of another job or not admitted, where BUSY is the cause, keeps its state and records it.
PREPARED for 200 ms, or an ABANDON of the attempt, takes the member back to IDLE (R303, R306, R370, Tables FAB-8, FAB-11,
FAB-12). -/
def Obligations.MembersPrepare : Prop :=
  ∀ (p : Part) (src : Option PortId) (s : State) (m : Mod) (test : SelfTest) (i : MgIn),
    let mb := (m.part p).member
    (takeMg p src 1 s.m = some (i, m) → (∀ k, src = some k → rivalPorts k 1 s.m = []) →
      (∀ r, mb.start = some r → r.holds i.line m.wall = false) → mb.st ≠ .prepared →
      (∀ d me, mb.descFor m.node i.digest = some d → d.memberOf m.node = some me → (m.part p).admitted = true →
        mb.st = .idle → mb.since ≤ m.wall →
        memberCause s.hub p i.line i.sealWord (some d) (jobStart p test m) = suOk →
        let place := treePlace d (i.excl d.links.length) me
        (place.2.isSome = true ∨ ∃ c ∈ place.1, (m.port (toFin 16 c.2)).st = .active) →
        ∃ s' r, exec (.prepare p src test) s = .next s' ∧ s'.hub = s.hub ∧ (s'.m.part p).member.st = .prepared
          ∧ (s'.m.part p).member.attempt = i.line.attempt ∧ (s'.m.part p).member.start = some r ∧ r.cause = 0
          ∧ r.attempt = i.line.attempt ∧ (s'.m.part p).member.children = place.1
          ∧ (s'.m.part p).member.parentPort = place.2 ∧ (s'.m.part p).holds = [] ∧ (s'.m.part p).ctrOn = false) ∧
      (∀ k, src = some k → (∀ r, mb.start = some r → r.domain = i.line.domain ∨ r.voted = true) →
        let d := mb.descFor m.node i.digest
        (∀ e me, d = some e → e.memberOf m.node = some me → (treePlace e (i.excl e.links.length) me).2.isSome = true) →
        let free := (m.part p).admitted = true ∧ mb.st = .idle ∧ mb.since ≤ m.wall
        (∀ c, free → memberCause s.hub p i.line i.sealWord d (jobStart p test m) = c → c ≠ suOk →
          ∃ s' r, exec (.prepare p src test) s = .next s' ∧ s'.hub = s.hub ∧ (s'.m.part p).member.st = .idle
            ∧ (s'.m.part p).member.start = some r ∧ r.cause = c ∧ r.attempt = i.line.attempt) ∧
        (¬ free →
          ∃ s' r, exec (.prepare p src test) s = .next s' ∧ s'.hub = s.hub ∧ (s'.m.part p).member.st = mb.st
            ∧ (s'.m.part p).member.start = some r ∧ r.cause = suBusy ∧ r.attempt = i.line.attempt))) ∧
    ((s.m.part p).member.st = .prepared → (s.m.part p).member.since + 200000000 ≤ s.m.wall →
      ∃ s', exec (.prepareTimeout p) s = .next s' ∧ Still s s' ∧ MemoriesStand s s' ∧ (s'.m.part p).member.st = .idle
        ∧ (s'.m.part p).member.start = none ∧ (s'.m.part p).member.children = []
        ∧ (s'.m.part p).member.abortHeld = none ∧ ∀ q ∈ (s.m.part p).ports, (s'.m.port q).domain = 0) ∧
    (∀ r, takeMg p src 4 s.m = some (i, m) → mb.start = some r → r.attempt = i.line.attempt → r.domain = i.line.domain →
      ∃ s', exec (.abandon p src) s = .next s' ∧ Still s s' ∧ MemoriesStand s s'
        ∧ (s'.m.part p).member.st = (if mb.st = .prepared then .idle else mb.st) ∧ (s'.m.part p).member.start = none)

/-- VOTE of a tree child of the attempt held, its first. While another is awaited it is kept; the last lets the member vote,
on the MG channel of its parent port, and the root decide: with no cause, every member counted and a set-up, it is
COMMITTED, with T0 by R304; with a cause it refuses. VOTE_TIMEOUT at the root, with no VOTE waiting at 100 ms, refuses too.
A refused attempt below the eighth, for a cause marked Reissue, is begun again 16 ms later; any other ends the start.
REISSUE_DELAY begins it with a PREPARE to the root itself (R303, R304, R306, Table FAB-11). -/
def Obligations.VotesAreGathered : Prop :=
  ∀ (p : Part) (s : State),
    let refused (m : Mod) (cause : Nat) (s' : State) : Prop :=
      let mb := (m.part p).member
      s'.hub = s.hub ∧ s'.m.wall = s.m.wall ∧ (s'.m.part p).member.preparedAt = none ∧ (s'.m.part p).member.start = none
        ∧ (s'.m.part p).member.st = (if mb.st = .prepared then .idle else mb.st)
        ∧ (reissues cause = true ∧ mb.rootAttempt < 8 →
            (s'.m.part p).member.reissueAt = some (s.m.wall + 16000000)
            ∧ (s'.m.part p).member.rootAttempt = mb.rootAttempt)
        ∧ (¬ (reissues cause = true ∧ mb.rootAttempt < 8) →
            (s'.m.part p).member.rootAttempt = 0 ∧ (s'.m.part p).member.startRing = none)
    (∀ q m i r c, takeMg p (some q) 2 s.m = some (i, m) → NoGroup s.m →
      let mb := (m.part p).member
      mb.start = some r →
      r.children.find? (fun c => c.2 == q.val) = some c → r.voted = false → i.line.attempt = r.attempt →
      i.line.domain = r.domain → r.votes.any (fun v => v.child == c.1) = false →
      let r' := { r with votes := r.votes ++ [VoteRec.parse c.1 i.line i.body] }
      let b := ballot p r' m
      (r'.complete m = false →
        ∃ s', exec (.vote p (some q)) s = .next s' ∧ s'.hub = s.hub ∧ (s'.m.part p).member = { mb with start := some r' }) ∧
      (r'.complete m = true →
        (∀ k, r'.parentPort = some k →
          ∃ s' fs, exec (.vote p (some q)) s = .next s' ∧ s'.hub = s.hub
            ∧ (s'.m.part p).member = { mb with start := some { r' with voted := true } }
            ∧ (s'.m.port (toFin 16 k)).txVc[4]! = (m.port (toFin 16 k)).txVc[4]! ++ fs ∧ fs ≠ []) ∧
        (∀ d, r'.parentPort = none → mb.desc = some d →
          (b.cause ≠ 0 → ∃ s', exec (.vote p (some q)) s = .next s' ∧ refused m b.cause s') ∧
          (b.cause = 0 → b.count = d.xw * d.yw →
            (∀ k, (if r.sealed then retainedSetUp mb else rootSetUp p d b m) = .error k →
              ∃ s', exec (.vote p (some q)) s = .next s' ∧ refused m k s') ∧
            (∀ u, (if r.sealed then retainedSetUp mb else rootSetUp p d b m) = .ok u → mb.abortHeld = none →
              mb.unlocked = false → (m.part p).ctrOn = false →
              ∃ s', exec (.vote p (some q)) s = .next s' ∧ s'.hub = s.hub ∧ (s'.m.part p).member.st = .committed
                ∧ (s'.m.part p).member.params = u.params ∧ (s'.m.part p).member.latency = u.latency
                ∧ (s'.m.part p).member.start = none ∧ (s'.m.part p).member.startRing = none
                ∧ ∃ depth, (s'.m.part p).member.t0
                    = firstT0 d.fexp depth (maxL 0 (u.latency.map hopRods)) r.sealed))))) ∧
    (let mb := (s.m.part p).member
      ∀ w, mb.preparedAt = some w → w + 100000000 ≤ s.m.wall → NoGroup s.m →
      (∀ r, mb.start = some r → ∀ c ∈ r.children, takeMg p (some (toFin 16 c.2)) 2 s.m = none) →
      ∃ s', exec (.voteTimeout p) s = .next s' ∧ refused s.m suVoteTimeout s') ∧
    (let mb := (s.m.part p).member
      ∀ w d, mb.reissueAt = some w → w ≤ s.m.wall → mb.desc = some d →
      ∃ s' b, exec (.reissueDelay p) s = .next s' ∧ Still s s' ∧ MemoriesStand s s' ∧ s'.m.ports = s.m.ports
        ∧ (s'.m.part p).member = { mb with rootAttempt := mb.rootAttempt + 1, reissueAt := none
                                           preparedAt := some s.m.wall, inbox := mb.inbox ++ [b] })

/-- COMMIT of the attempt of a PREPARED member that no ABORT has reached, sealed or not: with its own seal equal it is
COMMITTED, its plan counter loaded with STAMP plus the latency of the port and the cycles since, its T0 and parameters those
of the message. With another seal its domain fails with 0x0030, with a JOB_ABORT held with 0x0033, having lost lock with
0x0020, and past its T0 with 0x0035. An ABORT of its domain takes a COMMITTED or RUNNING member to TEARDOWN with the cause
given, and is logged by one in PREPARED or TEARDOWN (R61, R297, R298, R305, R307, R308, R370, Table FAB-12). -/
def Obligations.MembersCommitAndAbort : Prop :=
  ∀ (p : Part) (q : PortId) (s : State) (m : Mod) (i : MgIn),
    let mb := (m.part p).member
    (∀ d u, takeMg p (some q) 3 s.m = some (i, m) → NoGroup s.m → mb.desc = some d →
      mb.st = .prepared → mb.attempt = i.line.attempt → i.line.domain = d.domain → mb.aborts = [] →
      i.line.t0 % (5 * 2 ^ i.line.fexp) = 0 → i.line.t0 < 2 ^ 63 →
      (if i.line.sealed then retainedSetUp mb else .ok (memberSetUp d ((m.part p).imageOf d) i)) = .ok u →
      let ctr := i.line.stamp + (m.port q).latency.getD 0 + (m.wall - i.first)
      let fails (k : Nat) : Prop := ∃ s', exec (.commit p (some q)) s = .next s' ∧ s'.hub = s.hub ∧ DomainFailed p k s s'
      (sealOf d i.line u.latency = i.sealWord →
        (mb.abortHeld = none → mb.unlocked = false → ctr ≤ i.line.t0 →
          ∃ s', exec (.commit p (some q)) s = .next s' ∧ s'.hub = s.hub ∧ (s'.m.part p).member.st = .committed
            ∧ (s'.m.part p).ctrOn = true ∧ (s'.m.part p).ctr = ctr ∧ (s'.m.part p).member.t0 = i.line.t0
            ∧ (s'.m.part p).member.params = u.params ∧ (s'.m.part p).member.sched = u.sched
            ∧ (s'.m.part p).member.ready = true) ∧
        (mb.abortHeld.isSome = true → fails 0x0033) ∧
        (mb.abortHeld = none → mb.unlocked = true → fails 0x0020) ∧
        (mb.abortHeld = none → mb.unlocked = false → i.line.t0 < ctr → fails 0x0035)) ∧
      (sealOf d i.line u.latency ≠ i.sealWord → fails 0x0030)) ∧
    (∀ src, takeMg p src 5 s.m = some (i, m) → i.line.domain = m.domainId p →
      (mb.st = .committed ∨ mb.st = .running →
        ∃ s', exec (.abort p src) s = .next s' ∧ Still s s' ∧ MemoriesStand s s' ∧ DomainFailed p i.line.cause s s') ∧
      (mb.st = .teardown ∨ mb.st = .prepared → mb.aborts.length < 16 →
        ∃ s', exec (.abort p src) s = .next s' ∧ Still s s' ∧ MemoriesStand s s'
          ∧ (s'.m.part p).member = { mb with aborts := mb.aborts ++ [i.body.take 64] }) ∧
      (mb.st = .idle → exec (.abort p src) s = .next { s with m := m }))

/-- The change of routes of a COMMITTED or RUNNING member. A FREEZE of a new generation from the parent, or at the root,
freezes it, and from elsewhere goes up to the parent; DRAINED of a child is noted; once every child has drained and its own
queues are empty the member sends DRAINED up, and the root switches; SWITCH drops the lost links and lets the member
originate again; ROUTE_DRAIN, 20 ms after the root's FREEZE, fails the domain with 0x0031 (R300). -/
def Obligations.RoutesChange : Prop :=
  ∀ (p : Part) (s : State) (m : Mod) (i : MgIn),
    let mb := (m.part p).member
    let frozen (k : Nat) : Member :=
      { mb with freezeGen := k, frozen := true, drained := [], drainedSent := false, freezeAt := some m.wall }
    let switched (b : Member) : Member :=
      { b with dropped := b.dropped ++ b.dropPending, dropPending := [], frozen := false, freezeAt := none, drained := []
               drainedSent := false }
    let answers (c : Instr) (b : Member) : Prop :=
      ∃ s', exec c s = .next s' ∧ Still s s' ∧ MemoriesStand s s' ∧ (s'.m.part p).member = b
    ((mb.st = .running ∨ mb.st = .committed) → i.line.domain = m.domainId p →
      (∀ src, takeMg p src 6 s.m = some (i, m) → mb.freezeGen < i.line.count →
        let here := m.isRoot p = true ∨ (mb.parentPort.isSome = true ∧ mb.parentPort = src.map (·.val))
        (here → (mb.children ≠ [] ∨ m.quiet p = false) → answers (.freeze p src) (frozen i.line.count)) ∧
        (here → mb.children = [] → m.quiet p = true →
          (m.isRoot p = true → answers (.freeze p src) (switched (frozen i.line.count))) ∧
          (m.isRoot p = false → answers (.freeze p src) { frozen i.line.count with drainedSent := true })) ∧
        (∀ k, ¬ here → mb.parentPort = some k →
          ∃ s' fs, exec (.freeze p src) s = .next s' ∧ Still s s' ∧ MemoriesStand s s' ∧ (s'.m.part p).member = mb
            ∧ (s'.m.port (toFin 16 k)).txVc[4]! = (m.port (toFin 16 k)).txVc[4]! ++ fs ∧ fs ≠ [])) ∧
      (∀ q c, takeMg p (some q) 7 s.m = some (i, m) → mb.frozen = true → i.line.count = mb.freezeGen →
        mb.children.find? (fun c => c.2 == q.val) = some c → mb.drainedSent = false →
        let noted := { mb with drained := (mb.drained ++ [c.1]).eraseDups }
        let all := (∀ o ∈ mb.children, o.1 = c.1 ∨ mb.drained.contains o.1 = true) ∧ m.quiet p = true
        (¬ all → answers (.drained p (some q)) noted) ∧
        (all → m.isRoot p = true → answers (.drained p (some q)) (switched noted)) ∧
        (∀ k, all → m.isRoot p = false → mb.parentPort = some k →
          answers (.drained p (some q)) { noted with drainedSent := true })) ∧
      (∀ src, takeMg p src 8 s.m = some (i, m) → mb.frozen = true → i.line.count = mb.freezeGen →
        answers (.switch p src) (switched mb))) ∧
    (∀ w, (s.m.part p).member.freezeAt = some w → s.m.isRoot p = true →
      ((s.m.part p).member.st = .running ∨ (s.m.part p).member.st = .committed) → w + 20000000 ≤ s.m.wall →
      ∃ s', exec (.routeDrain p) s = .next s' ∧ Still s s' ∧ MemoriesStand s s' ∧ DomainFailed p 0x0031 s s')

/-- TEARDOWN_COMPLETE of a drained member, of a module that is not on its way to OFF: it is IDLE at the end of the cycle, its
plan counter stops and the always-on domain keeps the counter's last value, no request or message is left; a job that ended
by itself is posted with DOMAIN_ENDED, the end of a failed one with DOMAIN_FAILED. A domain port that has not drained 12 ms
after the entry to TEARDOWN is taken to DOWN (R58, R299; log 135). -/
def Obligations.TeardownCompletes : Prop :=
  ∀ (p : Part) (s : State), (s.m.part p).member.st = .teardown → s.hub.power.leaving = none →
    let posted (e : Nat) (s' : State) : Prop :=
      (s'.m.func (vfOf p)).events.any (fun k => k.1 == e) = true ∧ (s'.m.func pf0).events.any (fun k => k.1 == e) = true
    (s.m.tornDown p = true → NoGroup s.m →
      ∃ s', exec (.teardownComplete p) s = .next s' ∧ s'.hub = s.hub ∧ (s'.m.part p).ctrOn = false
        ∧ (s'.m.part p).holds = [] ∧ (s'.m.part p).member.st = .idle ∧ (s'.m.part p).member.since = s.m.wall + 1
        ∧ (s'.m.part p).member.requests = [] ∧ (s'.m.part p).member.originQ = [] ∧ (s'.m.part p).member.inbox = []
        ∧ (s'.m.part p).chain = none
        ∧ (∃ e, s'.m.epochs.getLast? = some e ∧ e.1 = s.m.domainId p ∧ e.2.1 = (s.m.part p).ctr)
        ∧ ((s.m.part p).member.failed = none → posted evDomainEnded s')
        ∧ ((s.m.part p).member.failed.isSome = true → posted evDomainFailed s')) ∧
    (∀ q, s.m.isDomainPort p q = true → (s.m.part p).member.since + 12000000 ≤ s.m.wall →
      ((s.m.port q).empty = true → exec (.teardownTimeout p q) s = .next s) ∧
      ((s.m.port q).empty = false → (s.m.port q).st ≠ .down →
        ∃ s', exec (.teardownTimeout p q) s = .next s' ∧ Still s s' ∧ MemoriesStand s s' ∧ (s'.m.port q).st = .down
          ∧ (s'.m.port q).replayBuf = []))

/-! ### Serving -/

/-- The steps of the lead. STEP_COMMIT of a table that breaks no rule of R318 is the accepted commit, with its buffer,
PREVSTEP and NREQS records, and each QUEUED request that it names goes to PREFILL; one that breaks a rule is refused with its
number, and so is every commit without a job. At its gate cycle a step without a commit is late; one whose predecessor did
not run is stale; one whose output buffer is held, or was released only then, meets backpressure; and every other runs, on
its table and output buffer. STEP_END counts the step and raises the member's clean entry, or sends it to the lead. The
firmware writes a line of a table buffer that is not locked, from a context that has the window (R318 to R320, R324, R330,
R390). -/
def Obligations.StepsRun : Prop :=
  ∀ (p : Part) (v : ServingDesc) (s : State),
    let x := s.m.part p
    let y := x.serving
    (∀ n b db, s.m.servingWindow p = some (v, n, b) →
      let m := refuseFresh p v b (fld db 40 40) s.m
      (commitRule m (m.part p) v b db = none →
        ∃ s' c, exec (.stepCommit p db) s = .next s' ∧ Still s s' ∧ (s'.m.part p).serving.commit = some c
          ∧ c.buf = fld db 40 40 ∧ c.prev = leAt (m.tableLine v b c.buf 0) 8 8
          ∧ c.names.length = leAt (m.tableLine v b c.buf 0) 16 2
          ∧ (∀ i r, c.names[i]? = some r → r.handle = (m.nameRec v b c.buf i).handle ∧ r.kind = (m.nameRec v b c.buf i).kind
              ∧ ∀ q, y.live r.handle = some q → r.id = q.id ∧ (q.st = .queued →
                  ∀ q' ∈ (s'.m.part p).serving.requests, q'.id = q.id → q'.st ≠ .queued))
          ∧ (s'.m.part p).serving.events = y.events) ∧
      (∀ r, commitRule m (m.part p) v b db = some r →
        ∃ s', exec (.stepCommit p db) s = .next s' ∧ Still s s' ∧ MemoriesStand s s'
          ∧ (s'.m.part p).serving = { y with events := y.events ++ [.commitRefused r] }) ∧
      (x.member.st ≠ .committed → x.member.st ≠ .running → commitRule m (m.part p) v b db = some 1)) ∧
    (∀ n b, s.m.servingWindow p = some (v, n, b) → x.running = true → y.nextStep < x.stepCount v →
      x.furStart (v.firstFurlong y.nextStep) ≤ x.ctr → v.firstFurlong y.nextStep ≤ x.furlong →
      let stale (k : TableCommit) : Prop := k.prev ≠ noStep ∧ (x.closeStep v).serving.lastRun.map (·.1) ≠ some k.prev
      let held : Prop := y.nextOut ∈ y.outBusy
        ∨ ∃ e ∈ y.releasedAt, e.1 = y.nextOut ∧ x.furStart (v.firstFurlong y.nextStep) ≤ e.2
      (∀ e, ((y.commit = none ∧ e = .stepLate y.nextStep)
          ∨ (∃ k, y.commit = some k ∧ stale k ∧ e = .stepStale y.nextStep)
          ∨ (∃ k, y.commit = some k ∧ ¬ stale k ∧ held ∧ e = .stepBackpressure y.nextStep)) →
        ∃ s' c, exec (.stepGate p) s = .next s' ∧ Still s s' ∧ (s'.m.part p).serving.current = some c
          ∧ c.step = y.nextStep ∧ c.ran = false ∧ (s'.m.part p).serving.nextStep = y.nextStep + 1
          ∧ (s'.m.part p).serving.commit = none ∧ (s'.m.part p).serving.outBusy = y.outBusy
          ∧ (s'.m.part p).serving.events = y.events ++ [e]
          ∧ (s'.m.part p).tel.stepsOff = x.tel.stepsOff.add 1) ∧
      (∀ k, y.commit = some k → ¬ stale k → ¬ held →
        ∃ s' c, exec (.stepGate p) s = .next s' ∧ Still s s' ∧ (s'.m.part p).serving.current = some c
          ∧ c.step = y.nextStep ∧ c.ran = true ∧ c.buf = k.buf ∧ c.out = y.nextOut ∧ c.names = k.names
          ∧ (s'.m.part p).serving.nextStep = y.nextStep + 1 ∧ (s'.m.part p).serving.commit = none
          ∧ (s'.m.part p).serving.outBusy = y.outBusy ++ [y.nextOut]
          ∧ (s'.m.part p).serving.events = y.events ++ [.stepRan y.nextStep]
          ∧ (s'.m.part p).tel.stepsRun = x.tel.stepsRun.add 1)) ∧
    (∀ me, s.m.servingAs p = some (v, me) → v.firstFurlong (y.ended + 1) ≤ x.furlongsDone → y.ended < x.stepCount v →
      (me = v.lead → y.ended < y.nextStep) →
      let calm := ∀ q ∈ y.requests, q.st ≠ .ending ∧ q.freeAfter = []
      ∃ s', exec (.stepEnd p) s = .next s' ∧ Still s s' ∧ s'.m.ls = s.m.ls
        ∧ (s'.m.part p).serving.ended = y.ended + 1
        ∧ (s'.m.part p).serving.events = y.events ++ [.stepEnd y.ended]
        ∧ (∀ n b, s.m.servingWindow p = some (v, n, b) → (s.m.hbm.get (toFin 8 b)).wf = true →
            y.ended + 1 < 2 ^ 64 → calm →
            leNat ((s'.m.hbm.get (toFin 8 b)).read (64 * v.clean + 8 * me) 8)
              = max (y.ended + 1) (leNat ((s.m.hbm.get (toFin 8 b)).read (64 * v.clean + 8 * me) 8)))
        ∧ (∀ d e, s.m.servingWindow p = none → x.member.desc = some d → d.members[v.lead]? = some e →
            ∃ pk, (s'.m.part p).member.originQ = x.member.originQ ++ [pk] ∧ pk.vc = 1 ∧ (calm → s'.m.hbm = s.m.hbm))) ∧
    (∀ n b (buf : Fin 2) line data, s.m.servingWindow p = some (v, n, b) → line < v.tlines →
      (x.ctx.windows.contains .servingWindow = false →
        ∃ s', exec (.tableBufferWrite p buf line data) s = .next s' ∧ Still s s' ∧ MemoriesStand s s'
          ∧ s'.m.parts = s.m.parts ∧ s'.m.regs.ctxFence = s.m.regs.ctxFence.add 1) ∧
      (x.ctx.windows.contains .servingWindow = true → x.tableLocked v buf.val = false → s.m.memWf = true →
        ∃ s', exec (.tableBufferWrite p buf line data) s = .next s' ∧ Still s s'
          ∧ BayBecame s.m s'.m b (.hbm (64 * (v.tableBuf buf.val + line))) (leBytes 64 data.toNat)) ∧
      (x.ctx.windows.contains .servingWindow = true → x.tableLocked v buf.val = true →
        ∃ s', exec (.tableBufferWrite p buf line data) s = .next s' ∧ Still s s' ∧ MemoriesStand s s'
          ∧ (s'.m.part p).serving = { y with refused := y.refused + 1 }))

/-- The firmware's work on requests. FIRMWARE_COMMIT of a clean step takes it from the list and posts one record for each
request that it names: an advance by the output record, cut at the first stop token or limit, or END 5 where that record is
bad, or the record of one that had ended; OUT_RELEASE frees its buffer once no record of it waits; RESULT_RECORD_POST writes
as many records as the ring has room for, and its tail, to host memory; a pausing request whose firkins have moved is PAUSED
with its timer set, and at its expiry ends with END 4, or wakes a module in STANDBY (R325 to R327, R331 to R333, R364, R379,
R390, R418). -/
def Obligations.RequestsAreServed : Prop :=
  ∀ (p : Part) (v : ServingDesc) (s : State),
    let x := s.m.part p
    let y := x.serving
    (∀ n b st rest, s.m.servingWindow p = some (v, n, b) → y.steps = st :: rest → st.step < y.ended →
      s.m.allClean p st.step = true →
      (x.ctx.windows.contains .servingWindow = false →
        ∃ s', exec (.firmwareCommit p) s = .next s' ∧ Still s s' ∧ MemoriesStand s s' ∧ s'.m.parts = s.m.parts
          ∧ s'.m.regs.ctxFence = s.m.regs.ctxFence.add 1) ∧
      (x.ctx.windows.contains .servingWindow = true → NoGroup s.m →
        ∃ s', exec (.firmwareCommit p) s = .next s' ∧ Still s s' ∧ (s'.m.part p).serving.steps = rest
          ∧ (s'.m.part p).serving.toRelease
              = (if y.outBusy.contains st.out then y.toRelease ++ [st.out] else y.toRelease)
          ∧ y.records <+: (s'.m.part p).serving.records
          ∧ (∀ i nr q, st.names[i]? = some nr → y.numbered nr.id = some q →
              (∀ j k, st.names[j]? = some k → j ≠ i → k.id ≠ nr.id) →
              let o := s.m.outRec v b st.out i
              let kept := keepTokens x.gen q ({ y with steps := rest }.bound { q with k := q.k + o.kadv }) o
              let last (q' : Request) : Prop := ∃ k ∈ (s'.m.part p).serving.requests, k.id = q.id ∧ k.k = q'.k
                ∧ k.total = q'.total ∧ k.st = q'.st
              ∃ r ∈ (s'.m.part p).serving.records, r.handle = q.handle ∧ r.step = st.step ∧ r.out = some st.out ∧
                (q.endPosted = true → r.ntok = 0 ∧ r.k = q.k ∧ r.endCode = q.endCode) ∧
                (q.endPosted = false → outGood nr q o = false → r.ntok = 0 ∧ r.k = q.k ∧ r.endCode = 5) ∧
                (q.endPosted = false → outGood nr q o = true →
                  r.tokens = kept.1 ∧ r.ntok = kept.1.length ∧ r.endCode = kept.2 ∧ r.k = q.k + o.kadv
                    ∧ r.total = q.total + o.ntok
                    ∧ (kept.2 = 0 → q.st = .decode ∨ q.st = .paused ∨ (q.st = .prefill ∧ nr.kind ≠ 2) →
                        last { q with k := r.k, total := r.total })
                    ∧ (kept.2 = 0 → q.st = .prefill → nr.kind = 2 →
                        last { q with k := r.k, total := r.total, st := .decode }))))) ∧
    (∀ buf : Fin 2, y.toRelease.contains buf.val = true → y.records.any (fun r => r.out == some buf.val) = false →
      ∃ s', exec (.outRelease p buf) s = .next s' ∧ Still s s' ∧ MemoriesStand s s' ∧ s'.m.funcs = s.m.funcs
        ∧ (s'.m.part p).serving = { y with
            toRelease := y.toRelease.filter (· != buf.val), outBusy := y.outBusy.filter (· != buf.val)
            releasedAt := y.releasedAt.filter (fun e => e.1 != buf.val) ++ [(buf.val, x.ctr)] }) ∧
    (let g := (s.m.func (vfOf p)).result;
      let place (i : Nat) := g.base + 64 * ((g.tail + i) % g.size)
      (∀ rs rest, s.hub.power.st = .ready → g.st = .running → y.records = rs ++ rest → rs ≠ [] →
        (∀ r ∈ rs, s.m.holdsBack p r = false) → (rest.head?.all (s.m.holdsBack p) = true ∨ g.used + rs.length = g.size) →
        g.tail < g.size → g.used + rs.length ≤ g.size →
        (∀ i < rs.length, s.m.dmaFails (place i) 64 = false) → s.m.dmaFails g.wb 8 = false →
        ∃ s', exec (.resultRecordPost p) s = .next s' ∧ Still s s' ∧ (s'.m.part p).serving.records = rest
          ∧ s'.m.hostMem = ((rs.zipIdx).foldl (fun h e => h.write (place e.2) e.1.bytes) s.m.hostMem).write g.wb
              (leBytes 8 ((g.tail + rs.length) % g.size))
          ∧ ((s'.m.func (vfOf p)).result).tail = (g.tail + rs.length) % g.size
          ∧ ((s'.m.func (vfOf p)).result).used = g.used + rs.length) ∧
      (∀ r rest, s.hub.power.st = .ready → g.st = .running → y.records = r :: rest → s.m.holdsBack p r = false →
        g.used < g.size → s.m.dmaFails (g.base + 64 * g.tail) 64 = true →
        ∃ s', exec (.resultRecordPost p) s = .next s' ∧ Still s s' ∧ MemoriesStand s s' ∧ s'.m.parts = s.m.parts
          ∧ (s'.m.func (vfOf p)).result = { g with st := .error }
          ∧ (s'.m.func (vfOf p)).events.any (fun e => e.1 == evRingError) = true) ∧
      (g.st = .draining →
        ∃ s', exec (.resultRecordPost p) s = .next s' ∧ Still s s' ∧ MemoriesStand s s' ∧ s'.m.parts = s.m.parts
          ∧ (s'.m.func (vfOf p)).result = { g with st := .disabled })) ∧
    (∀ q es, y.live q.handle = some q → y.desc = some v → x.extents = some es → s.hub.power.st = .ready →
      x.ctx.windows.contains .tierMover = true →
      (q.st = .endingPause → q.held x v = false → NoGroup s.m →
        ∃ s' q', exec (.tierMoveComplete p q.handle) s = .next s' ∧ Still s s' ∧ s'.m.ls = s.m.ls
          ∧ q' ∈ (s'.m.part p).serving.requests ∧ q'.id = q.id ∧ q'.handle = q.handle ∧ q'.st = .paused
          ∧ q'.expiry = some (s.m.second + q.ttl + 1) ∧ q'.inHbm = []) ∧
      (q.st = .decode →
        ∃ s' q', exec (.tierMoveComplete p q.handle) s = .next s' ∧ Still s s' ∧ s'.m.ls = s.m.ls
          ∧ q' ∈ (s'.m.part p).serving.requests ∧ q'.id = q.id ∧ q'.st = .decode
          ∧ q'.tierFirkins = q.tierFirkins ++ q.oldest)) ∧
    (∀ q e, y.live q.handle = some q → q.st = .paused → q.expiry = some e → s.m.aonAt + e * 10 ^ 9 ≤ s.m.wall →
      (s.hub.power.st = .ready →
        ∃ s', exec (.ttlExpiry p q.handle) s = .next s' ∧ Still s s' ∧ s'.m.ls = s.m.ls
          ∧ (s'.m.part p).serving.requests.any (fun k => k.id == q.id && k.st != .ended) = false
          ∧ (s'.m.part p).serving.expired = y.expired ++ [q.handle]
          ∧ (q.endPosted = false → (s'.m.part p).serving.records = y.records ++ [q.endRecord 4])) ∧
      (s.hub.power.st = .standby → s.hub.power.wakeTtl = true → s.hub.power.waking = false →
        ∃ s', exec (.ttlExpiry p q.handle) s = .next s' ∧ s'.m = s.m ∧ s'.hub.power.waking = true
          ∧ s'.hub.power.lastWake = 3 ∧ s'.hub.clock = .acquiring))

/-! ### Descriptors of the host -/

/-- A single descriptor that fails a check of R374 has no effect but its completion, with the status and DETAIL of the
first check that fails; this holds of every row of Table HST-5 (R374, R377). -/
def Obligations.FailedChecksRefuse : Prop :=
  ∀ r ∈ hostRows, ∀ (f : Fn) (n : PairId) (b : Bytes) (s : State) (st e : Nat), TakesOp r.1 f n b s →
    r.1.checks f b (updPair f n (·.took r.1 b) s.m) = some (st, e) →
    ∃ s' v, exec (r.2 f n) s = .next s' ∧ OpEnded f n b st e v s s' ∧ MemoriesStand s s' ∧ s'.m.parts = s.m.parts
      ∧ ∀ g, g ≠ f → s'.m.func g = s.m.func g

/-- The rows of plans, windows and copies that pass their checks: NOP ends with OK; PLAN_LOAD makes an image that passes
its load check resident, and ends with the status of the check where it fails; PLAN_DROP empties its slot; JOB_ABORT fails
a COMMITTED or RUNNING member with 0x0033, waits in PREPARED, and ends with OK elsewhere; EXWIN_SET sets or removes the
window; the copies begin (R369, R370). -/
def Obligations.PlanRowsAct : Prop :=
  ∀ (f : Fn) (n : PairId) (p : Part) (b : Bytes) (s : State),
    let x := s.m.part p
    (PassesOp nopDef f n b s → ∃ s', exec (.nop f n) s = .next s' ∧ OpEnded f n b 0 0 0 s s' ∧ MemoriesStand s s'
      ∧ s'.m.parts = s.m.parts) ∧
    (partOfFn f = some p →
      (PassesOp planLoadDef f n b s →
        let img := s.m.hostMem.read (leAt b 16 8) (leAt b 24 4)
        (planVerdict x (planSlotOf b) img (leAt b 24 4) s.m.stepping = none →
          ∃ s', exec (.planLoad f n) s = .next s' ∧ OpEnded f n b 0 0 0 s s' ∧ MemoriesStand s s'
            ∧ s'.m.part p = setPlan (planSlotOf b) img x ∧ ∀ q, q ≠ p → s'.m.part q = s.m.part q) ∧
        (∀ st v, planVerdict x (planSlotOf b) img (leAt b 24 4) s.m.stepping = some (st, v) →
          ∃ s', exec (.planLoad f n) s = .next s' ∧ OpEnded f n b st 0 v s s' ∧ MemoriesStand s s'
            ∧ s'.m.parts = s.m.parts)) ∧
      (PassesOp planDropDef f n b s →
        ∃ s', exec (.planDrop f n) s = .next s' ∧ OpEnded f n b 0 0 0 s s' ∧ MemoriesStand s s'
          ∧ (s'.m.part p).plans = x.plans.set! (planSlotOf b) none ∧ (s'.m.part p).member = x.member) ∧
      (PassesOp jobAbortDef f n b s →
        (x.member.st = .committed ∨ x.member.st = .running →
          ∃ s', exec (.jobAbort f n) s = .next s' ∧ OpEnded f n b 0 0 0 s s' ∧ (s'.m.part p).member.st = .teardown
            ∧ (s'.m.part p).member.failed = some 0x0033 ∧ (s'.m.part p).running = false) ∧
        (x.member.st = .prepared →
          ∃ s', exec (.jobAbort f n) s = .next s' ∧ OpBegun jobAbortDef f n b s s'
            ∧ (s'.m.part p).member = { x.member with abortHeld := some (nextKey f n s.m) }) ∧
        (x.member.st = .idle ∨ x.member.st = .teardown →
          ∃ s', exec (.jobAbort f n) s = .next s' ∧ OpEnded f n b 0 0 0 s s' ∧ s'.m.parts = s.m.parts)) ∧
      (PassesOp exwinSetDef f n b s →
        ∃ s', exec (.exwinSet f n) s = .next s' ∧ OpEnded f n b 0 0 0 s s' ∧ MemoriesStand s s'
          ∧ s'.m.part p = { x with exwin := if leAt b 24 8 = 0 then none else some (leAt b 16 8, leAt b 24 8) }) ∧
      (PassesOp copyInDef f n b s →
        ∃ s', exec (.copyIn f n) s = .next s' ∧ OpBegun copyInDef f n b s s' ∧ MemoriesStand s s'
          ∧ s'.m.parts = s.m.parts) ∧
      (PassesOp copyOutDef f n b s →
        ∃ s', exec (.copyOut f n) s = .next s' ∧ OpBegun copyOutDef f n b s s' ∧ MemoriesStand s s'
          ∧ s'.m.parts = s.m.parts))

/-- The rows of PF0 that pass their checks: PART_ADMIT forms the partition with its bays, power, TTL share, one more
admission and the windows of its context; PART_RELEASE destroys its keys and begins to zero its bays; NS_CREATE and NS_DELETE
make a namespace and destroy its key; CXL_WINDOW_SET records its extents; DOMAIN_PUT and SERVING_PUT hold their descriptors;
DOMAIN_START begins attempt 1 with a PREPARE to itself, and ends as DESC_MISMATCH without a descriptor (R303, R306, R311,
R369, R370, R385, R387, R390, R391). -/
def Obligations.PartitionRowsAct : Prop :=
  ∀ (n : PairId) (p : Part) (b : Bytes) (s : State),
    let x := s.m.part p
    let f := pf0
    descPart f b = some p →
    (PassesOp partAdmitDef f n b s →
      ∃ s', exec (.partAdmit f n) s = .next s' ∧ OpEnded f n b 0 0 0 s s' ∧ MemoriesStand s s'
        ∧ (s'.m.part p).admitted = true ∧ (s'.m.part p).bayMask = BitVec.ofNat 8 (leAt b 17 1)
        ∧ (s'.m.part p).power = leAt b 18 2 ∧ (s'.m.part p).ttlShare = leAt b 20 2
        ∧ (s'.m.part p).admissions = x.admissions + 1 ∧ (s'.m.part p).member = {}
        ∧ (s'.m.part p).keys.cur = 0 ∧ (s'.m.part p).keys.tier[1]! = none ∧ (s'.m.part p).ns = x.ns
        ∧ (s'.m.part p).ctx.windows = partWindows ∧ (s'.m.part p).ctx.mail = [.power (leAt b 18 2)]) ∧
    (PassesOp partReleaseDef f n b s → (∀ k o, ((s.m.func (vfOf p)).pair k).busy = some o → o.group = false) →
      ∃ s', exec (.partRelease f n) s = .next s' ∧ OpBegun partReleaseDef f n b s s' ∧ MemoriesStand s s'
        ∧ (s'.m.part p).admitted = false ∧ (s'.m.part p).keys = { flashKey := x.keys.flashKey }
        ∧ (s'.m.part p).bayMask = x.bayMask ∧ (s'.m.part p).releasing = some (nextKey f n s.m)
        ∧ (s'.m.part p).ctx = {} ∧ s'.m.zeroing = s.m.zeroing ||| x.bayMask
        ∧ ∀ k, ((s'.m.func (vfOf p)).pair k).st = .disabled) ∧
    (PassesOp nsCreateDef f n b s →
      ∃ s' w, exec (.nsCreate f n) s = .next s' ∧ OpEnded f n b 0 0 0 s s' ∧ MemoriesStand s s'
        ∧ (s'.m.part p).ns = some { granules := leAt b 20 4 } ∧ (s'.m.part p).wrapped = some w
        ∧ (s'.m.part p).keys = { x.keys with flashKey := some w.key }) ∧
    (PassesOp nsDeleteDef f n b s →
      (x.ns.isSome = true →
        ∃ s', exec (.nsDelete f n) s = .next s' ∧ OpBegun nsDeleteDef f n b s s' ∧ MemoriesStand s s'
          ∧ (s'.m.part p).keys = { x.keys with flashKey := none } ∧ (s'.m.part p).wrapped = none
          ∧ (s'.m.part p).nsErasing = some (nextKey f n s.m)) ∧
      (x.ns = none →
        ∃ s', exec (.nsDelete f n) s = .next s' ∧ OpEnded f n b 0 0 0 s s' ∧ MemoriesStand s s'
          ∧ s'.m.parts = s.m.parts)) ∧
    (PassesOp cxlWindowSetDef f n b s →
      ∃ s', exec (.cxlWindowSet f n) s = .next s' ∧ OpBegun cxlWindowSetDef f n b s s' ∧ MemoriesStand s s'
        ∧ (s'.m.part p).window = some {
            extents := extentList (extentBytes s.m b), registered := false, waiting := some (nextKey f n s.m) }) ∧
    (PassesOp domainPutDef f n b s →
      ∃ s', exec (.domainPut f n) s = .next s' ∧ OpEnded f n b 0 0 0 s s' ∧ MemoriesStand s s'
        ∧ (s'.m.part p).member.desc = some (DomainDesc.parse (putBytes s.m b))
        ∧ (s'.m.part p).member.st = x.member.st) ∧
    (PassesOp domainStartDef f n b s →
      (∀ d, x.member.desc = some d →
        ∃ s' k, exec (.domainStart f n) s = .next s' ∧ OpBegun domainStartDef f n b s s' ∧ MemoriesStand s s'
          ∧ (s'.m.part p).member = { x.member with
              startRing := some (nextKey f n s.m), rootAttempt := 1, rootExcl := [], rootSealed := d.sealUse
              preparedAt := some s.m.wall, reissueAt := none, inbox := x.member.inbox ++ [k] }) ∧
      (x.member.desc = none →
        ∃ s', exec (.domainStart f n) s = .next s' ∧ OpEnded f n b 0x0063 1 0 s s' ∧ MemoriesStand s s'
          ∧ s'.m.parts = s.m.parts)) ∧
    (PassesOp servingPutDef f n b s →
      ∃ s', exec (.servingPut f n) s = .next s' ∧ OpEnded f n b 0 0 0 s s' ∧ MemoriesStand s s'
        ∧ (s'.m.part p).serving.desc = some (ServingDesc.parse (sliceB b 32 32))
        ∧ (s'.m.part p).serving.requests = x.serving.requests)

/-- The rows of weights that pass their checks: a manifest that verifies is resident, one that does not is refused; stone
writes, loads and chain installs begin, a load with the key slot of its MODEL; an install of one member ends at once; a record
that nothing reads is deleted, one that is read is to be deleted, and none is no failure (R337, R338, R340, R345, R351, R352,
R400). -/
def Obligations.WeightRowsAct : Prop :=
  ∀ (f : Fn) (n : PairId) (p : Part) (b : Bytes) (s : State),
    let x := s.m.part p
    partOfFn f = some p →
    (PassesOp manifestPutDef f n b s →
      let g := Manifest.parse (manifestBytes s.m b)
      (manifestGood x (manifestBytes s.m b) = true →
        ∃ s', exec (.manifestPut f n) s = .next s' ∧ MemoriesStand s s'
          ∧ (s'.m.part p).manifests = x.manifests.filter (fun k => k.model != g.model) ++ [g]
          ∧ OpEnded f n b 0 0 (s'.m.part p).manifests.length s s') ∧
      (manifestGood x (manifestBytes s.m b) = false →
        ∃ s', exec (.manifestPut f n) s = .next s' ∧ OpEnded f n b 0x0050 0 0 s s' ∧ MemoriesStand s s'
          ∧ s'.m.parts = s.m.parts)) ∧
    (PassesOp manifestDropDef f n b s →
      ∃ s', exec (.manifestDrop f n) s = .next s' ∧ OpEnded f n b 0 0 0 s s' ∧ MemoriesStand s s'
        ∧ s'.m.part p = { x with manifests := x.manifests.filter (fun k => k.model != bodyModel b 16) }) ∧
    (PassesOp stoneWriteDef f n b s →
      ∃ s', exec (.stoneWrite f n) s = .next s' ∧ OpBegun stoneWriteDef f n b s s' ∧ MemoriesStand s s'
        ∧ s'.m.part p = { x with stoneWrites := x.stoneWrites ++ [(stoneFoff b, leAt b 16 8, nextKey f n s.m)] }) ∧
    (PassesOp stoneDeleteDef f n b s → ∀ ns, x.ns = some ns →
      let here (r : DirRec) : Prop := r.foff = stoneFoff b
      ((∀ r ∈ ns.dir, ¬ here r) →
        ∃ s', exec (.stoneDelete f n) s = .next s' ∧ OpEnded f n b 0 0 0 s s' ∧ MemoriesStand s s'
          ∧ s'.m.parts = s.m.parts) ∧
      ((∃ r ∈ ns.dir, here r) → s.m.recordRead p (stoneFoff b) = false →
        ∃ s', exec (.stoneDelete f n) s = .next s' ∧ OpEnded f n b 0 0 0 s s' ∧ MemoriesStand s s'
          ∧ (s'.m.part p).ns = some { ns with dir := ns.dir.filter (fun r => r.foff != stoneFoff b) }) ∧
      ((∃ r ∈ ns.dir, here r) → s.m.recordRead p (stoneFoff b) = true →
        ∃ s', exec (.stoneDelete f n) s = .next s' ∧ OpBegun stoneDeleteDef f n b s s' ∧ MemoriesStand s s'
          ∧ (s'.m.part p).ns = some { ns with dir := ns.dir.map (fun r =>
              if r.foff = stoneFoff b then { r with deleting := some (nextKey f n s.m) } else r) })) ∧
    (PassesOp stoneLoadDef f n b s →
      ∃ s' k, exec (.stoneLoad f n) s = .next s' ∧ OpBegun stoneLoadDef f n b s s' ∧ MemoriesStand s s'
        ∧ x.keySlot (bodyModel b 32) = some k
        ∧ s'.m.part p = { x with load := some {
            ring := nextKey f n s.m, model := bodyModel b 32, entries := (loadEntries s.m b).map (·.1), keySlot := k } }) ∧
    (∀ d me, PassesOp chainInstallDef f n b s → x.member.desc = some d → s.m.memberIndex p = some me →
      NoDeletionAt f n x →
      (me ≠ leAt b 30 2 → chainFoffs s.m b ≠ [] →
        ∃ s' c, exec (.chainInstall f n) s = .next s' ∧ OpBegun chainInstallDef f n b s s'
          ∧ (s'.m.part p).chain = some c ∧ c.ring = nextKey f n s.m ∧ c.foffs = chainFoffs s.m b
          ∧ c.model = bodyModel b 48 ∧ x.keySlot c.model = some c.keySlot ∧ c.freed = 0 ∧ c.kept = [] ∧ c.got = []
          ∧ (s'.m.part p).member.originQ = x.member.originQ) ∧
      (me = leAt b 30 2 → me = leAt b 32 2 →
        ∃ s', exec (.chainInstall f n) s = .next s' ∧ OpEnded f n b 0 0 0 s s' ∧ (s'.m.part p).chain = none
          ∧ (s'.m.part p).member.originQ = x.member.originQ) ∧
      ∃ s', exec (.chainInstall f n) s = .next s' ∧ Still s s' ∧ s'.m.ls = s.m.ls)

/-- The progress of weights: a stone record whose pages are on flash is entered in the directory, or its write is refused; a
record of a load that passes its checks lands and, the last one, ends the load; one that fails makes the load fail at its
place; the placements of a failed load are zero when it completes, and its stones corrupt as before (R340, R346, R347,
R350, R352). -/
def Obligations.StonesArrive : Prop :=
  ∀ (p : Part) (s : State), s.m.memWf = true →
    let x := s.m.part p
    (∀ w, s.hub.power.st = .ready → x.stoneWrites.find? (fun k => k.1 == w.1) = some w → AloneAt w.2.2 s.m →
      (∀ c, stoneWriteRefusal s.m p w.1 = some c →
        ∃ s', exec (.stoneRecordEntered p w.1) s = .next s' ∧ Still s s' ∧ MemoriesStand s s' ∧ (s'.m.part p).ns = x.ns
          ∧ (s'.m.part p).stoneWrites = x.stoneWrites.erase w ∧ EndedAt w.2.2 c 0 0 s s') ∧
      (∀ ns, stoneWriteRefusal s.m p w.1 = none → x.ns = some ns →
        let stored := ns.store w.1 (s.m.hostMem.read w.2.1 recordBytes)
        (s.m.dmaFails w.2.1 recordBytes = true →
          ∃ s', exec (.stoneRecordEntered p w.1) s = .next s' ∧ Still s s' ∧ MemoriesStand s s' ∧ (s'.m.part p).ns = x.ns
            ∧ (s'.m.part p).stoneWrites = x.stoneWrites.erase w ∧ EndedAt w.2.2 0x0004 0 0 s s') ∧
        (∀ ns', s.m.dmaFails w.2.1 recordBytes = false → stored.enter w.1 (stored.trailer w.1) = some ns' →
          ∃ s', exec (.stoneRecordEntered p w.1) s = .next s' ∧ Still s s' ∧ MemoriesStand s s'
            ∧ (s'.m.part p).ns = some ns' ∧ (s'.m.part p).stoneWrites = x.stoneWrites.erase w
            ∧ EndedAt w.2.2 0 0 0 s s') ∧
        (s.m.dmaFails w.2.1 recordBytes = false → stored.enter w.1 (stored.trailer w.1) = none →
          ∃ s' c, exec (.stoneRecordEntered p w.1) s = .next s' ∧ Still s s' ∧ MemoriesStand s s' ∧ c ≠ 0
            ∧ (s'.m.part p).ns = some stored ∧ EndedAt w.2.2 c 0 0 s s'))) ∧
    (∀ c q foff, s.hub.power.st = .ready → x.stoneWrites.find? (fun k => k.1 == foff) = none → x.chain = some c →
      c.waiting foff = some q → x.member.st = .running → AloneAt c.ring s.m →
      ∃ s', exec (.stoneRecordEntered p foff) s = .next s' ∧ Still s s' ∧ s'.m.ls = s.m.ls ∧
        ((keepRecord s.m p c q foff).1 = 0 → ∃ ns, (s'.m.part p).ns = some ns ∧ ∃ r ∈ ns.dir, r.foff = foff) ∧
        (∀ k, (s'.m.part p).chain = some k → ∃ i, (q, (keepRecord s.m p c q foff).1, i) ∈ k.kept)) ∧
    (∀ l e f key ns, s.hub.power.st = .ready → x.load = some l → l.failed = none → l.entries[l.pos]? = some e →
      x.manifest l.model = some f → x.slotKey l.keySlot = some key → x.ns = some ns →
      let cured (l' : LoadJob) : Prop := l'.cured = l.cured ++ (if x.corrupt.contains (f.model, e.index) then [e.index] else [])
      (∀ bs, checkStone f key (ns.data.read e.foff stoneBytes) (ns.trailer e.foff) = .ok bs →
        ∃ s', exec (.stoneRecordArrival p false) s = .next s' ∧ Still s s' ∧ s'.m.ls = s.m.ls
          ∧ (s'.m.part p).corrupt = x.corrupt.filter (fun c => c != (f.model, e.index))
          ∧ (l.entries.length ≤ l.pos + 1 → (s'.m.part p).load = none ∧ EndedAt l.ring 0 0 0 s s')
          ∧ (l.pos + 1 < l.entries.length → ∃ l', (s'.m.part p).load = some l' ∧ l'.pos = l.pos + 1 ∧ l'.failed = none
              ∧ l'.entries = l.entries ∧ l'.keySlot = l.keySlot ∧ cured l')
          ∧ (∀ b, e.tier = false → x.bayAt e.bay = some b →
              BayBecame s.m s'.m b (.hbm (64 * e.loc)) (sliceB bs 0 stoneBytes)
              ∧ (s'.m.part p).resident.any (fun r => r.bay == b && r.line == e.loc && r.model == f.model) = true)
          ∧ (e.tier = true → s'.m.hbm = s.m.hbm ∧ (s'.m.part p).resident = x.resident)) ∧
      (∀ c, checkStone f key (ns.data.read e.foff stoneBytes) (ns.trailer e.foff) = .error c →
        ∃ s', exec (.stoneRecordArrival p false) s = .next s' ∧ Still s s' ∧ MemoriesStand s s'
          ∧ (s'.m.part p).load = some { l with failed := some (l.pos, c) }) ∧
      (∃ s', exec (.stoneRecordArrival p true) s = .next s' ∧ Still s s' ∧ MemoriesStand s s'
          ∧ (s'.m.part p).load = some { l with failed := some (l.pos, 0x0059) })) ∧
    (∀ l i c, x.load = some l → l.failed = some (i, c) → AloneAt l.ring s.m →
      NoDeletionAt (toFin 9 l.ring.1) (toFin 16 l.ring.2) x →
      let under (k : Fin 8) (a : Nat) : Prop := ∃ e ∈ l.entries, e.tier = false ∧ ∃ b, x.bayAt e.bay = some b
        ∧ toFin 8 b = k ∧ 64 * e.loc ≤ a ∧ a < 64 * e.loc + stoneBytes
      ∃ s', exec (.loadZeroingComplete p) s = .next s' ∧ Still s s' ∧ s'.m.ls = s.m.ls ∧ (s'.m.part p).load = none
        ∧ (s'.m.part p).corrupt = x.corrupt ++ l.cured.map (fun k => (l.model, k)) ∧ EndedAt l.ring c 0 i s s'
        ∧ ∀ k a, (under k a → (s'.m.hbm.get k).byte a = 0)
            ∧ (¬ under k a → (s'.m.hbm.get k).byte a = (s.m.hbm.get k).byte a))

/-- The request rows that pass their checks: REQ_SUBMIT queues its request with its prompt; REQ_CANCEL ends a QUEUED or
PAUSED one at once, with a record of END 3, takes one in PREFILL or DECODE that a step still names to ENDING, and ends it where
none does; REQ_PAUSE takes it to ENDING on its way to PAUSED; REQ_RESUME returns it to DECODE and stops its timer; every other
request stands (R327, R330 to R332, Table SRV-11). -/
def Obligations.RequestRowsAct : Prop :=
  ∀ (f : Fn) (n : PairId) (p : Part) (b : Bytes) (s : State),
    let y := (s.m.part p).serving
    let h := reqHandle b
    partOfFn f = some p →
    (PassesOp reqSubmitDef f n b s →
      ∃ s' q, exec (.reqSubmit f n) s = .next s' ∧ OpEnded f n b 0 0 0 s s' ∧ MemoriesStand s s'
        ∧ (s'.m.part p).serving.requests = y.requests ++ [q] ∧ q.handle = h ∧ q.st = .queued ∧ q.k = 0 ∧ q.total = 0
        ∧ q.maxTok = leAt b 32 4 ∧ q.prompt.length = leAt b 20 4 ∧ q.id = y.submitted + 1
        ∧ (s'.m.part p).serving.expired = y.expired.filter (· != h)) ∧
    (∀ q, PassesOp reqCancelDef f n b s → y.live h = some q →
      let gone (s' : State) : Prop := (∀ k ∈ (s'.m.part p).serving.requests, k.id = q.id → k.st = .ended)
        ∧ (q.endPosted = false → q.endRecord 3 ∈ (s'.m.part p).serving.records)
      (q.st = .queued ∨ q.st = .paused →
        ∃ s', exec (.reqCancel f n) s = .next s' ∧ OpEnded f n b 0 0 0 s s' ∧ gone s'
          ∧ ∀ k ∈ y.requests, k.id ≠ q.id → k ∈ (s'.m.part p).serving.requests) ∧
      (∀ v, q.st = .prefill ∨ q.st = .decode → y.desc = some v →
        (q.held (s.m.part p) v = true →
          ∃ s' q', exec (.reqCancel f n) s = .next s' ∧ OpEnded f n b 0 0 0 s s'
            ∧ q' ∈ (s'.m.part p).serving.requests ∧ q'.id = q.id ∧ q'.st = .ending ∧ q'.endCode = 3 ∧ q'.k = q.k) ∧
        (q.held (s.m.part p) v = false → q.freeAfter = [] →
          ∃ s', exec (.reqCancel f n) s = .next s' ∧ OpEnded f n b 0 0 0 s s' ∧ gone s')) ∧
      (q.st = .ending →
        ∃ s', exec (.reqCancel f n) s = .next s' ∧ OpEnded f n b 0 0 0 s s' ∧ MemoriesStand s s'
          ∧ s'.m.parts = s.m.parts)) ∧
    (∀ q, PassesOp reqPauseDef f n b s → y.live h = some q →
      ∃ s', exec (.reqPause f n) s = .next s' ∧ OpBegun reqPauseDef f n b s s' ∧ MemoriesStand s s'
        ∧ (s'.m.part p).serving = { y with requests := y.requests.map (fun k => if k.id = q.id then { k with
            st := .endingPause, ttl := reqTtl b, pauseRing := some (nextKey f n s.m) } else k) }) ∧
    (∀ q, PassesOp reqResumeDef f n b s → y.live h = some q →
      ∃ s', exec (.reqResume f n) s = .next s' ∧ OpEnded f n b 0 0 0 s s' ∧ MemoriesStand s s'
        ∧ (s'.m.part p).serving = { y with requests := y.requests.map (fun k =>
            if k.id = q.id then { k with st := .decode, expiry := none } else k) })

/-- The ends of long operations: a COPY_IN lands its lines in HBM, a COPY_OUT writes host memory up to its first
uncorrectable line, with OK, DMA_ERROR or MEM_UE and its index; a bay's zeroing leaves its stack and its nine local stores zero
and ends a release that waited for it; a namespace's erasure removes it; a window's zeroing registers it (R221, R228, R231,
R369, R370, R377, R387). -/
def Obligations.LongOperationsEnd : Prop :=
  ∀ (s : State), s.m.memWf = true →
    (∀ f n k p w, ((s.m.func f).pair n).busy = some k → partOfFn f = some p → k.group = false → k.lost = false →
      copyPlace (s.m.part p) k.body = some w →
      let a := leAt k.body 16 8
      let lines := leAt k.body 24 4
      let first := w.2 / 64
      let ended (s' : State) (status result : Nat) : Prop := Still s s' ∧ s'.m.ls = s.m.ls
        ∧ ((s'.m.func f).pair n).busy = none
        ∧ ((s'.m.func f).pair n).post = [{ tag := k.tag, index := k.index, head := ((s.m.func f).pair n).head, status
                                           detail := 0, result, irq := k.irq }]
      (k.opcode = 0x06 →
        (s.m.dmaFails a (64 * lines) = false → ∃ s', exec (.copyComplete f n) s = .next s' ∧ ended s' 0 0
          ∧ BayBecame s.m s'.m w.1.val (.hbm w.2) (s.m.hostMem.read a (64 * lines))) ∧
        (s.m.dmaFails a (64 * lines) = true → ∃ s', exec (.copyComplete f n) s = .next s' ∧ ended s' 0x0004 0
          ∧ MemoriesStand s s')) ∧
      (k.opcode = 0x07 →
        ((∀ i < lines, s.m.lineBad (.hbm w.1 (first + i)) = false) →
          (s.m.dmaFails a (64 * lines) = false → ∃ s', exec (.copyComplete f n) s = .next s' ∧ ended s' 0 0
            ∧ s'.m.hbm = s.m.hbm ∧ s'.m.hostMem = s.m.hostMem.write a ((s.m.hbm.get w.1).read w.2 (64 * lines))) ∧
          (s.m.dmaFails a (64 * lines) = true → lines ≠ 0 →
            ∃ s', exec (.copyComplete f n) s = .next s' ∧ ended s' 0x0004 0 ∧ MemoriesStand s s')) ∧
        (∀ i < lines, s.m.lineBad (.hbm w.1 (first + i)) = true →
          (∀ j < i, s.m.lineBad (.hbm w.1 (first + j)) = false) → (s.m.dmaFails a (64 * i) = false ∨ i = 0) →
          ∃ s', exec (.copyComplete f n) s = .next s' ∧ ended s' 0x0041 i ∧ s'.m.hbm = s.m.hbm
            ∧ s'.m.hostMem = s.m.hostMem.write a ((s.m.hbm.get w.1).read w.2 (64 * i))
            ∧ ((s'.m.part p).tel.ueLog).any (fun e => e.ref == .hbm w.1 (first + i)) = true))) ∧
    (∀ bay : Fin 8, s.m.zeroing.getLsbD bay.val = true →
      ∃ s', exec (.bayZeroingComplete bay) s = .next s' ∧ Still s s' ∧ s'.m.hbm.get bay = []
        ∧ (∀ q : Fin 72, s'.m.ls.get q = if q.val / 9 = bay.val then [] else s.m.ls.get q)
        ∧ (∀ k, k ≠ bay → s'.m.hbm.get k = s.m.hbm.get k) ∧ s'.m.zeroing = s.m.zeroing &&& ~~~(1#8 <<< bay.val)
        ∧ s'.m.lineErrs.all (fun e => match e.line with
            | .hbm k _ => k != bay
            | .localStore q _ => q.val / 9 != bay.val) = true
        ∧ ∀ p k, (s.m.part p).releasing = some k → (s.m.part p).bayMask &&& s'.m.zeroing = 0 →
            (s'.m.part p).releasing = none ∧ (s'.m.part p).bayMask = 0) ∧
    (∀ p k, (s.m.part p).nsErasing = some k →
      ∃ s', exec (.namespaceEraseComplete p) s = .next s' ∧ Still s s' ∧ MemoriesStand s s' ∧ (s'.m.part p).ns = none
        ∧ (s'.m.part p).nsErasing = none ∧ EndedAt k 0 0 0 s s') ∧
    (∀ p w k, (s.m.part p).window = some w → w.waiting = some k →
      ∃ s', exec (.windowZeroingComplete p) s = .next s' ∧ Still s s' ∧ s'.m.ls = s.m.ls ∧ s'.m.hbm = s.m.hbm
        ∧ (s'.m.part p).window = some { extents := w.extents, registered := true, waiting := none }
        ∧ EndedAt k 0 0 0 s s')

/-! ### Rings, groups and resets -/

/-- The rows of the rings. A good doorbell of a READY module takes effect at its ring; one that breaks a rule is counted and
posted as RING_DB, one at a VF whose partition is not admitted is dropped and counted, and one that reaches a module in STANDBY
is held and wakes it where WAKE_DB is set. COMPLETION_POST writes what waits, with the phase of each place, where there is
room for all, and takes the ring to ERROR where a write fails; the coalesce timer sends the ring's message; a drained ring is
DISABLED; a PCIe error takes a ring to ERROR, what it has taken going on (R359, R364 to R366, R373, R376, R382, R418). -/
def Obligations.RingsAct : Prop :=
  ∀ (f : Fn) (n : PairId) (w : Reg) (s : State),
    let r := (s.m.func f).pair n
    let i := dbIndex w
    let only (s' : State) : Prop := Still s s' ∧ MemoriesStand s s' ∧ s'.m.parts = s.m.parts
    let door : Instr := if dbKind w = 1 then .cqHeadDoorbell f w else if dbKind w = 2 then .resultHeadDoorbell f w
      else .sqTailDoorbell f w
    let invalid (s' : State) : Prop := only s' ∧ s'.m.regs.dbInvalid = s.m.regs.dbInvalid.add 1
      ∧ (∀ k, (s'.m.func f).pair k = (s.m.func f).pair k) ∧ (s'.m.func f).result = (s.m.func f).result
      ∧ (s'.m.func f).events.any (fun e => e.1 == evRingDb) = true
    (s.hub.power.st = .ready → s.hub.power.entering = false → s.m.hostUp = true →
      (s.m.fnLive f = false →
        exec door s = .next { s with m := { s.m with regs := { s.m.regs with
          dbDropped := s.m.regs.dbDropped.add 1 } } }) ∧
      (s.m.fnLive f = true → (fld w 29 20 ≠ 0 ∨ dbKind w = 3) → ∃ s', exec door s = .next s' ∧ invalid s') ∧
      (s.m.fnLive f = true → fld w 29 20 = 0 →
        (dbKind w ≤ 1 → fnPairs f ≤ dbRing w → ∃ s', exec door s = .next s' ∧ invalid s') ∧
        (dbKind w = 0 → dbRing w = n.val → n.val < fnPairs f →
          (tailGood r i = true → ∃ s', exec (.sqTailDoorbell f w) s = .next s' ∧ only s'
            ∧ ((s'.m.func f).pair n).tail = i) ∧
          (tailGood r i = false → ∃ s', exec (.sqTailDoorbell f w) s = .next s' ∧ invalid s')) ∧
        (dbKind w = 1 → dbRing w = n.val → n.val < fnPairs f →
          (headGood r i = true → ∃ s', exec (.cqHeadDoorbell f w) s = .next s' ∧ only s'
            ∧ ((s'.m.func f).pair n).cqHead = i
            ∧ ((s'.m.func f).pair n).cqUsed = r.cqUsed - (i + r.size - r.cqHead) % r.size) ∧
          (headGood r i = false → ∃ s', exec (.cqHeadDoorbell f w) s = .next s' ∧ invalid s')) ∧
        (dbKind w = 2 →
          (f ≠ pf0 → resultGood (s.m.func f).result i = true →
            ∃ s', exec (.resultHeadDoorbell f w) s = .next s' ∧ only s'
              ∧ (s'.m.func f).result = { (s.m.func f).result with
                  head := i, used := (s.m.func f).result.used
                    - (i + (s.m.func f).result.size - (s.m.func f).result.head) % (s.m.func f).result.size }) ∧
          (f = pf0 ∨ resultGood (s.m.func f).result i = false →
            ∃ s', exec (.resultHeadDoorbell f w) s = .next s' ∧ invalid s')))) ∧
    (s.hub.power.st = .standby → s.m.hostUp = true →
      ∃ s', exec door s = .next s' ∧ s'.m = s.m ∧ s'.hub.power.doorbells = s.hub.power.doorbells ++ [(f.val, w)]
        ∧ (s.hub.power.wakeDb = true → s.hub.power.waking = false →
            s'.hub.power.waking = true ∧ s'.hub.power.lastWake = 2 ∧ s'.hub.clock = .acquiring)
        ∧ (s.hub.power.wakeDb = false → s'.hub.power.waking = s.hub.power.waking)) ∧
    (r.post ≠ [] → (r.st = .running ∨ r.st = .draining) → r.cqTail < r.size →
      let place (k : Nat) := r.cqBase + 32 * ((r.cqTail + k) % r.size)
      let phase (k : Nat) := if r.cqTail + k < r.size then r.phase else !r.phase
      (r.size < r.cqUsed + r.post.length → exec (.completionPost f n) s = .next s) ∧
      (r.cqUsed + r.post.length ≤ r.size → (∀ k < r.post.length, s.m.dmaFails (place k) 32 = false) →
        ∃ s', exec (.completionPost f n) s = .next s' ∧ Still s s' ∧ s'.m.parts = s.m.parts
          ∧ s'.m.hostMem = (r.post.zipIdx).foldl (fun h e => h.write (place e.2) (e.1.bytes (phase e.2))) s.m.hostMem
          ∧ ((s'.m.func f).pair n).cqUsed = r.cqUsed + r.post.length
          ∧ ((s'.m.func f).pair n).cqTail = (r.cqTail + r.post.length) % r.size
          ∧ ((s'.m.func f).pair n).phase = phase r.post.length) ∧
      (r.cqUsed + r.post.length ≤ r.size → s.m.dmaFails (place 0) 32 = true →
        ∃ s', exec (.completionPost f n) s = .next s' ∧ only s'
          ∧ ((s'.m.func f).pair n).st = .error ∧ ((s'.m.func f).pair n).post = [])) ∧
    (∀ a, r.coalAt = some a → a + us r.coalUs ≤ s.m.wall →
      ∃ s', exec (.msixCoalesceTimer f n) s = .next s' ∧ only s'
        ∧ (s'.m.func f).pair n = { r with coal := 0, coalAt := none }
        ∧ ((s.m.func f).msixMask.getLsbD r.vec = false →
            (s'.m.func f).msixSent = (s.m.func f).msixSent ++ [r.vec])
        ∧ ((s.m.func f).msixMask.getLsbD r.vec = true → r.vec < 64 → (s'.m.func f).msixPend.getLsbD r.vec = true)) ∧
    (r.st = .draining → r.busy = none → r.post = [] → r.whole = false →
      ∃ s', exec (.ringDrainComplete f n) s = .next s' ∧ only s'
        ∧ (s'.m.func f).pair n = { r with st := .disabled, held := [] }) ∧
    (n.val < fnPairs f → (r.st = .running ∨ r.st = .draining) →
      ∃ s', exec (.hostMemoryError f (.pair n)) s = .next s' ∧ only s'
        ∧ (s'.m.func f).pair n = { r with st := .error, held := [], busy := r.busy.map (fun b => { b with lost := true })
                                          post := [] }
        ∧ (s'.m.func f).events.any (fun e => e.1 == evRingError) = true) ∧
    (f ≠ pf0 → ((s.m.func f).result.st = .running ∨ (s.m.func f).result.st = .draining) →
      ∃ s', exec (.hostMemoryError f .result) s = .next s' ∧ only s'
        ∧ (s'.m.func f).result = { (s.m.func f).result with st := .error }
        ∧ (s'.m.func f).events.any (fun e => e.1 == evRingError) = true)

/-- TRANSACTION_GROUP acts wholly or not at all: a group of EXWIN_SET and NOP, of any length, that passes its checks sets
the window as its last EXWIN_SET gives and ends with OK throughout; one of which a member fails its checks changes no
partition, that member ending with its status and every other with GROUP_ABORTED; one whose final PLAN_LOAD is refused as it
acts restores the window; and one whose long member has ended goes on with the next (R371 to R375). -/
def Obligations.GroupsActWhole : Prop :=
  ∀ (f : Fn) (n : PairId) (p : Part) (s : State),
    let r := (s.m.func f).pair n
    let light (e : Nat × Bytes) : Prop := dOpcode e.2 = 0x05 ∨ dOpcode e.2 = 0x01
    let lastWindow (es : List (Nat × Bytes)) : Option (Nat × Nat) :=
      es.foldl (fun a e => if dOpcode e.2 = 0x05 then
        (if leAt e.2 24 8 = 0 then none else some (leAt e.2 16 8, leAt e.2 24 8)) else a) (s.m.part p).exwin
    s.hub.power.st = .ready → partOfFn f = some p →
    (s.m.takesGroup f n = true → r.held.length ≤ 64 →
      (checkGroup f r.held 0 s.m = none → (∀ e ∈ r.held, light e) →
        ∃ s', exec (.transactionGroup f n) s = .next s' ∧ Still s s' ∧ MemoriesStand s s'
          ∧ s'.m.part p = { s.m.part p with exwin := lastWindow r.held }
          ∧ ((s'.m.func f).pair n).busy = none ∧ ((s'.m.func f).pair n).held = []
          ∧ ((s'.m.func f).pair n).post = r.held.map (fun e => complOf r e.1 e.2 0 0 0)) ∧
      (∀ k st e v, checkGroup f r.held 0 s.m = some (k, st, e, v) →
        ∃ s', exec (.transactionGroup f n) s = .next s' ∧ Still s s' ∧ MemoriesStand s s' ∧ s'.m.parts = s.m.parts
          ∧ ((s'.m.func f).pair n).held = []
          ∧ ((s'.m.func f).pair n).post = r.held.mapIdx (fun i h =>
              if i = k then complOf r h.1 h.2 st e v else complOf r h.1 h.2 0x0011 0 0)) ∧
      (∀ es j b st v, r.held = es ++ [(j, b)] → (∀ e ∈ es, light e) → checkGroup f r.held 0 s.m = none →
        dOpcode b = 0x02 →
        planVerdict (s.m.part p) (planSlotOf b) (s.m.hostMem.read (leAt b 16 8) (leAt b 24 4)) (leAt b 24 4) s.m.stepping
          = some (st, v) →
        ∃ s', exec (.transactionGroup f n) s = .next s' ∧ Still s s' ∧ MemoriesStand s s'
          ∧ (s'.m.part p).exwin = (s.m.part p).exwin ∧ (s'.m.part p).plans = (s.m.part p).plans
          ∧ ((s'.m.func f).pair n).post
              = es.map (fun e => complOf r e.1 e.2 0x0011 0 0) ++ [complOf r j b st 0 v])) ∧
    (∀ b e v x j c, r.busy = some b → b.group = true → b.lost = false → b.fin = some (x, e, v) → b.todo = [(j, c)] →
      dOpcode c = 0x01 →
      ∃ s', exec (.transactionGroup f n) s = .next s' ∧ Still s s' ∧ MemoriesStand s s' ∧ s'.m.parts = s.m.parts
        ∧ ((s'.m.func f).pair n).busy = none
        ∧ ((s'.m.func f).pair n).post = b.before ++ [{ tag := b.tag, index := b.index, head := r.head, status := x
                                                       detail := e, result := v, irq := b.irq }, complOf r j c 0 0 0])

/-- The resets of the host interface. HOT_RESET leaves the link down, every ring DISABLED and its EN clear; RINGS_LOST
brings the link up and is posted; VF_FLR gives the VF its reset values and fails its running or committed job with 0x0032;
PF0_FLR gives PF0 its reset values and touches no partition and no VF, where none of its rings acts on a group;
HOST_LINK_DEGRADED is posted at PF0 (R356, R360, R473, R480). -/
def Obligations.HostResets : Prop :=
  ∀ (s : State),
    (∃ s', exec .hotReset s = .next s' ∧ s'.hub = s.hub ∧ s'.m.wall = s.m.wall ∧ s'.m.hostUp = false
      ∧ ∀ f n, ((s'.m.func f).pair n).st = .disabled ∧ ((s'.m.func f).pair n).busy = none
          ∧ ((s'.m.func f).pair n).ctrl.active.getLsbD 0 = false ∧ ((s'.m.func f).pair n).ctrl.shadow.getLsbD 0 = false
          ∧ (s'.m.func f).result.st = .disabled) ∧
    (s.m.hostUp = false →
      ∃ s', exec .ringsLost s = .next s' ∧ Still s s' ∧ MemoriesStand s s' ∧ s'.m.parts = s.m.parts ∧ s'.m.hostUp = true
        ∧ (s'.m.func pf0).events.any (fun e => e.1 == evRingsLost) = true) ∧
    (∃ s', exec .hostLinkDegraded s = .next s' ∧ Still s s' ∧ MemoriesStand s s' ∧ s'.m.parts = s.m.parts
      ∧ (s'.m.func pf0).events.any (fun e => e.1 == evHostLinkDegraded) = true
      ∧ ∀ f, f ≠ pf0 → s'.m.func f = s.m.func f) ∧
    (∀ p,
      let fresh (s' : State) : Prop :=
        (∀ n, ((s'.m.func (vfOf p)).pair n).st = .disabled ∧ ((s'.m.func (vfOf p)).pair n).busy = none
          ∧ ((s'.m.func (vfOf p)).pair n).ctrl = {})
        ∧ (s'.m.func (vfOf p)).evtMask = { shadow := 0xFFFFFF00, active := 0xFFFFFF00 }
        ∧ (s'.m.func (vfOf p)).partCfg = { shadow := 24, active := 24 } ∧ (s'.m.func (vfOf p)).chk = {}
      (∃ s', exec (.vfFlr p) s = .next s' ∧ s'.hub = s.hub ∧ s'.pending = s.pending ∧ s'.m.wall = s.m.wall ∧ fresh s') ∧
      ((∀ n b, ((s.m.func (vfOf p)).pair n).busy = some b → b.group = false) →
        ((s.m.part p).member.st = .running ∨ (s.m.part p).member.st = .committed →
          ∃ s', exec (.vfFlr p) s = .next s' ∧ Still s s' ∧ MemoriesStand s s' ∧ fresh s' ∧ (s'.m.part p).running = false
            ∧ (s'.m.part p).member.st = .teardown ∧ (s'.m.part p).member.failed = some 0x0032) ∧
        ((s.m.part p).member.st = .idle →
          ∃ s', exec (.vfFlr p) s = .next s' ∧ Still s s' ∧ MemoriesStand s s' ∧ fresh s'
            ∧ (s'.m.part p).member = (s.m.part p).member
            ∧ (s'.m.func (vfOf p)).seq = 0 ∧ (s'.m.func (vfOf p)).events = []))) ∧
    ((∀ n b, ((s.m.func pf0).pair n).busy = some b → b.group = false) →
      ∃ s', exec .pf0Flr s = .next s' ∧ s'.m.parts = s.m.parts ∧ MemoriesStand s s' ∧ s'.m.ports = s.m.ports
        ∧ (∀ f, f ≠ pf0 → s'.m.func f = s.m.func f) ∧ (s'.m.func pf0).events = []
        ∧ (∀ n, ((s'.m.func pf0).pair n).st = .disabled) ∧ s'.hub.clock = s.hub.clock
        ∧ s'.hub.power.st = s.hub.power.st ∧ s'.hub.boot.fwAddr = 0 ∧ s'.m.regs.clk = s.m.regs.clk)

/-! ### Registers -/

/-- PART_CFG of a VF at 0x0710: a write goes to the shadow of bits [9:0] alone and leaves the register as it reads; a read
gives the active field, reserved bits zero; the strobe of its block takes the shadow over where it lies from 1 to 720 and
rejects it elsewhere, unless its active value was found in parity mismatch in the same cycle, when nothing is applied; reset
holds 24; and the field is the hours of the interval check of its partition (R482, R349, R488). -/
def Obligations.PartCfgHoldsTheInterval : Prop :=
  (∀ (p : Part), fld (State.reset.m.func (vfOf p)).partCfg.active 9 0 = 24 ∧ State.reset.m.interval p = 24) ∧
  ∀ (p : Part) (s : State), s.regLive (vfOf p) 0x0710 = true →
    let f := vfOf p
    let c := (s.m.func f).partCfg
    (∀ w : Reg, ∃ s', exec (.registerWrite f 0x0710 0xF w) s = .next s' ∧ Still s s' ∧ MemoriesStand s s'
      ∧ s'.m.parts = s.m.parts ∧ (s'.m.func f).partCfg = { c with shadow := w &&& 0x3FF }
      ∧ ∀ g, g ≠ f → s'.m.func g = s.m.func g) ∧
    readBar0 s f 0x0710 0xF = c.active ∧
    ((s.m.func f).shadowUpset f 3 = none → (s.m.func f).mismatch = some (3, s.m.wall) → exec (.update f 8) s = .next s) ∧
    ((s.m.func f).shadowUpset f 3 = none → (s.m.func f).mismatch ≠ some (3, s.m.wall) →
      (1 ≤ fld c.shadow 9 0 → fld c.shadow 9 0 ≤ 720 →
        ∃ s', exec (.update f 8) s = .next s' ∧ Still s s' ∧ MemoriesStand s s' ∧ s'.m.parts = s.m.parts
          ∧ (s'.m.func f).partCfg = { shadow := c.shadow, active := c.shadow }
          ∧ s'.m.interval p = fld c.shadow 9 0) ∧
      ((fld c.shadow 9 0 = 0 ∨ 720 < fld c.shadow 9 0) →
        ∃ s', exec (.update f 8) s = .next s' ∧ Still s s' ∧ MemoriesStand s s' ∧ s'.m.parts = s.m.parts
          ∧ (s'.m.func f).partCfg = c ∧ fld (s'.m.func f).rejectInfo 15 0 = 0x0710
          ∧ (s'.m.func f).events.any (fun e => e.1 == evCfgReject) = true))

/-- The register rows. REGISTER_WRITE of the event mask changes its shadow alone, within its fields, and a write of fewer
bytes than a register has changes nothing; UPDATE with the bit of the mask's block takes the shadow over; RING_RESET returns
a DISABLED ring to its beginning, and of another ring sets its shadow alone; EVENT_WRITE_BACK clears the events stamped up to
the value; the parity check of an active PART_CFG in READY returns it to its reset value and is posted. NODE_ADDR while every port is DOWN gives the module
its address; PORT_RELEASE takes an ISOLATED port whose bits are set to TRAIN; TILE_RETIRE with GO records a usable tile as
retired, once, and changes no tile's map (R16, R275, R279, R363, R474 to R476, R478, R482, R483, R488). -/
def Obligations.RegistersAreWritten : Prop :=
  ∀ (f : Fn) (s : State),
    let x := s.m.func f
    (∀ (off : BitVec 16) w, rwsAt f off.toNat = some .evtMask → s.regLive f off.toNat = true →
      ∃ s', exec (.registerWrite f off 0xF w) s = .next s' ∧ Still s s' ∧ MemoriesStand s s' ∧ s'.m.parts = s.m.parts
        ∧ (s'.m.func f).evtMask = { x.evtMask with shadow := w &&& 0xFFFFFF00 } ∧ (s'.m.func f).pairs = x.pairs) ∧
    (s.regLive f 0x0100 = true → x.shadowUpset f 1 = none → x.mismatch ≠ some (1, s.m.wall) →
      ∃ s', exec (.update f 0x2) s = .next s' ∧ Still s s' ∧ MemoriesStand s s' ∧ s'.m.parts = s.m.parts
        ∧ s'.m.func f = { x with evtMask := { x.evtMask with active := x.evtMask.shadow } }) ∧
    (∀ (n : PairId) (w : Reg), n.val < fnPairs f → s.regLive f (ringCtrl (.pair n)) = true → w.getLsbD 31 = true →
      let ctrl : Rws := { (x.pair n).ctrl with shadow := w &&& 0x3FFFFFFF }
      ((x.pair n).st = .disabled →
        ∃ s', exec (.ringReset f (.pair n) w) s = .next s' ∧ Still s s' ∧ MemoriesStand s s' ∧ s'.m.parts = s.m.parts
          ∧ (s'.m.func f).pair n = { x.pair n with
              head := 0, tail := 0, cqTail := 0, cqHead := 0, cqUsed := 0, phase := true, held := [], shown := [], coal := 0
              coalAt := none, ctrl := ctrl }) ∧
      ((x.pair n).st ≠ .disabled →
        ∃ s', exec (.ringReset f (.pair n) w) s = .next s' ∧ Still s s' ∧ MemoriesStand s s' ∧ s'.m.parts = s.m.parts
          ∧ (s'.m.func f).pair n = { x.pair n with ctrl := ctrl })) ∧
    (∀ (off : BitVec 16) (be : BitVec 4) w, be ≠ 0xF → exec (.registerWrite f off be w) s = .next s) ∧
    (∀ (w : Reg), s.regLive f 0x0200 = true →
      ∃ s', exec (.eventWriteBack f w) s = .next s' ∧ Still s s' ∧ MemoriesStand s s' ∧ s'.m.parts = s.m.parts
        ∧ s'.m.func f = x.writeBack (BitVec.ofNat 8 (fld w 7 0))) ∧
    (∀ u : RegUpset, rwsAt f u.off.toNat = some .partCfg → u.shadow = false → s.m.fnLive f = true →
      s.hub.power.st = .ready →
      ∃ s', exec (.cfgParityCheck f (some u)) s = .next s' ∧ Still s s' ∧ MemoriesStand s s' ∧ s'.m.parts = s.m.parts
        ∧ (s'.m.func f).partCfg = { x.partCfg with active := 24 }
        ∧ (s'.m.func f).events.any (fun e => e.1 == evCfgParity) = true) ∧
    (∀ w : Reg,
      (s.regLive pf0 0x0908 = true → (∀ q, (s.m.port q).st = .down) → s.m.regs.portEn.active = 0 →
        ∃ s', exec (.nodeAddr w) s = .next s' ∧ Still s s' ∧ MemoriesStand s s' ∧ s'.m.parts = s.m.parts
          ∧ s'.m.ports = s.m.ports ∧ s'.m.regs.node = BitVec.ofNat 16 (fld w 23 8) ∧ s'.m.regs.nodeWritten = true) ∧
      (∀ q : PortId, s.regLive pf0 0x0A04 = true → w.getLsbD q.val = true → (s.m.port q).st = .isolated →
        s.m.regs.portEn.active.getLsbD q.val = true →
        ∃ s', exec (.portRelease w) s = .next s' ∧ Still s s' ∧ MemoriesStand s s' ∧ (s'.m.port q).st = .train) ∧
      (s.regLive pf0 0x0B08 = true → w.getLsbD 31 = true → fld w 6 0 < 72 →
        s.m.cal.retired.any (fun r => r.1 == fld w 6 0) = false →
        ∃ s', exec (.tileRetire w) s = .next s' ∧ Still s s' ∧ MemoriesStand s s' ∧ s'.m.parts = s.m.parts
          ∧ s'.m.cal.retired = s.m.cal.retired ++ [(fld w 6 0, .host)] ∧ s'.m.tileMap = s.m.tileMap))

/-! ### Clock, power and start-up -/

/-- The fast clock, in a module that is not on its way to OFF. CLOCK_LOCKED 10 us after it began to acquire takes it to LOCKED,
ending step 4 of start-up, and brings a timing root that wakes to READY; the loss of its reference, or a phase error, takes a
LOCKED clock to HOLDOVER and fails every COMMITTED or RUNNING domain with LOCK_LOST, 0x0020; HOLDOVER_EXIT after 100 us begins
to acquire again; a COUNTER_SYNC loads the parent's value plus the latency of the link, and brings a module that wakes to READY;
START_NO_REFERENCE after 100 ms is posted, and at a wake at once (R33 to R35, R58 to R61, R412, R418, R422). -/
def Obligations.ClockMoves : Prop :=
  ∀ (s : State), s.hub.power.leaving = none →
    (s.hub.clock = .acquiring → s.hub.clockSince + 10000 ≤ s.m.wall →
      ∃ s', exec .clockLocked s = .next s' ∧ s'.hub.clock = .locked ∧ s'.m.wall = s.m.wall
        ∧ (s.hub.power.st = .startup → s.hub.power.step = 3 →
            s'.hub.power.step = 4 ∧ MemoriesStand s s' ∧ s'.m.parts = s.m.parts)
        ∧ (s.hub.power.st = .standby → s.hub.power.waking = true → s.m.timingRoot = true →
            s'.hub.power.st = .ready ∧ s'.hub.power.waking = false)
        ∧ (s.hub.power.st = .standby → s.m.timingRoot = false → s'.hub.power = s.hub.power)) ∧
    (∀ why, s.hub.clock = .locked → (why = .noSymbol → s.m.timingRoot = false) →
      ∃ s', exec (.holdoverEntry why) s = .next s' ∧ s'.hub.clock = .holdover ∧ s'.hub.resync = true ∧ MemoriesStand s s'
        ∧ ∀ p, (((s.m.part p).member.st = .running ∨ (s.m.part p).member.st = .committed) →
            (s'.m.part p).member.st = .teardown ∧ (s'.m.part p).member.failed = some 0x0020
            ∧ (s'.m.part p).running = false)
          ∧ ((s.m.part p).member.st = .idle → (s'.m.part p).member = (s.m.part p).member)) ∧
    (s.hub.clock = .holdover → s.hub.clockSince + 100000 ≤ s.m.wall →
      ∃ s', exec .holdoverExit s = .next s' ∧ s'.m = s.m ∧ s'.hub = { s.hub with clock := .acquiring, clockSince := s.m.wall }) ∧
    (∀ v, s.hub.awaitsSync = true → s.m.timingRoot = false →
      (∃ s', exec (.counterSync (some v)) s = .next s' ∧ s'.hub.resync = false
        ∧ s'.hub.sync = some (v + s.m.parentLatency, s.m.wall) ∧ s'.hub.power.st = .ready
        ∧ (s.hub.power.st = .ready → s'.m.parts = s.m.parts)) ∧
      exec (.counterSync none) s = .next { s with hub := { s.hub with resync := true } }) ∧
    (s.hub.clock = .acquiring → s.m.timingRoot = false →
      (s.hub.power.st = .startup → s.hub.power.step = 3 → s.hub.clockSince + 100000000 ≤ s.m.wall →
        ∃ s', exec .startNoReference s = .next s' ∧ s'.hub = { s.hub with power := { s.hub.power with fault := 8 } }
          ∧ (s'.m.func pf0).events.any (fun e => e.1 == evNoReference) = true) ∧
      (s.hub.power.st = .standby → s.hub.power.waking = true →
        ∃ s', exec .startNoReference s = .next s' ∧ s'.hub = s.hub
          ∧ (s'.m.func pf0).events.any (fun e => e.1 == evNoReference) = true))

/-- Power. A qualified input takes the module from OFF to step 2 of start-up with its straps read and its tick count at
zero; an input fault, a leak and an unstable oscillator take it to OFF with their causes, the overvoltage and overcurrent
latched, and an input within its limits changes nothing; above 72 V, where the table calls damage possible, the module goes
OFF as for any overvoltage or, damaged, stops (the model's reading, log 3). POWER_ON, POWER_OFF, WAKE and SELECT of I3C, and
the requests of PWR_CTRL, act in the states that Table OPS-2 gives them; a module on its way to OFF is there once its
teardowns are over or 12 ms have passed (R417 to R420, R426, R436, R453 to R456, R463, R464, R467). -/
def Obligations.PowerRowsAct : Prop :=
  ∀ (s : State),
    let w := s.hub.power
    let idleAll := ∀ p, (s.m.part p).member.st = .idle
    let busy := ∃ p, (s.m.part p).member.st = .running ∨ (s.m.part p).member.st = .committed
    (w.leaving = none →
      (∀ mv straps flow, w.st = .off → w.input = false → w.latched = false → 47000 ≤ mv → mv ≤ 60000 →
        ∃ s', exec (.powerApplied mv true straps flow) s = .next s' ∧ s'.hub.power.st = .startup ∧ s'.hub.power.step = 1
          ∧ s'.hub.power.input = true ∧ s'.m.aonAt = s.m.wall ∧ s'.m.regs.straps = straps) ∧
      (∀ mv straps flow, w.st = .off → w.input = false → w.latched = true → 47000 ≤ mv → mv ≤ 60000 →
        ∃ s', exec (.powerApplied mv true straps flow) s = .next s' ∧ s'.hub.power.st = .off ∧ s'.hub.power.input = true) ∧
      (∀ mv, 72000 < mv →
        (Config.inputDamages s.m.free mv = true →
          (∀ us, exec (.inputOv mv us) s = .fault .inputDamage) ∧
          ∀ present straps flow, exec (.powerApplied mv present straps flow) s = .fault .inputDamage) ∧
        (Config.inputDamages s.m.free mv = false →
          (w.input = true → w.st ≠ .off → ∀ us, ∃ s', exec (.inputOv mv us) s = .next s'
            ∧ s'.hub.power.st = .off ∧ s'.hub.power.fault = 2 ∧ s'.hub.power.latched = true) ∧
          (w.st = .off → w.input = false → ∀ straps flow, ∃ s', exec (.powerApplied mv true straps flow) s = .next s'
            ∧ s'.hub.power.st = .off ∧ s'.hub.power.fault = 2 ∧ s'.hub.power.latched = true))) ∧
      (w.input = true → w.st ≠ .off →
        (∀ mv us present, (present = false ∨ mv < 44000 ∨ (mv < 48000 ∧ 1000 < us)) →
          ∃ s', exec (.inputUv mv us present) s = .next s' ∧ s'.hub.power.st = .off ∧ s'.hub.power.fault = 1
            ∧ s'.hub.power.input = false ∧ s'.hub.clock = .off) ∧
        (∀ mv us, 48000 ≤ mv → exec (.inputUv mv us true) s = .next s) ∧
        (∀ mv us, mv ≤ 72000 → (62000 < mv ∨ (60000 < mv ∧ 1000 < us)) →
          ∃ s', exec (.inputOv mv us) s = .next s' ∧ s'.hub.power.st = .off ∧ s'.hub.power.fault = 2
            ∧ s'.hub.power.latched = true) ∧
        (∀ mv us, mv ≤ 60000 → exec (.inputOv mv us) s = .next s) ∧
        (∀ ma us, ((55000 < ma ∧ 10000 < us) ∨ (60000 < ma ∧ 50 < us)) →
          ∃ s', exec (.inputOc ma us) s = .next s' ∧ s'.hub.power.st = .off ∧ s'.hub.power.fault = 3
            ∧ s'.hub.power.latched = true) ∧
        (∀ ma us, ma ≤ 55000 → exec (.inputOc ma us) s = .next s) ∧
        (idleAll → ∃ s', exec (.powerOff []) s = .next s' ∧ s'.hub.power.st = .off ∧ s'.hub.power.fault = 0) ∧
        (busy → ∃ s', exec (.powerOff []) s = .next s' ∧ s'.hub.power.st = w.st
          ∧ s'.hub.power.leaving = some (s.m.wall + 12000000) ∧ s'.m.tearing = true)) ∧
      (w.st ≠ .off → ∃ s', exec .leakDetected s = .next s' ∧ s'.hub.power.st = .off ∧ s'.hub.power.fault = 7
        ∧ s'.m.hbm = Vector.replicate 8 [] ∧ s'.m.ls = Vector.replicate 72 []) ∧
      (w.st = .startup → w.step = 1 → ∃ s', exec .oscFail s = .next s' ∧ s'.hub.power.st = .off ∧ s'.hub.power.fault = 4) ∧
      (w.input = true →
        (w.st = .off → ∃ s', exec (.powerOn []) s = .next s' ∧ s'.hub.power.st = .startup ∧ s'.hub.power.step = 2
          ∧ s'.hub.power.latched = false) ∧
        (w.st = .standby → w.waking = false → ∃ s', exec (.wake []) s = .next s' ∧ s'.hub.power.waking = true
          ∧ s'.hub.power.lastWake = 4 ∧ s'.hub.clock = .acquiring) ∧
        (∀ b : Byte, b.toNat ≤ 2 → ∃ s', exec (.i3cSelect [b]) s = .next s' ∧ s'.hub.power.block = b.toNat
          ∧ s'.hub.power.cmdErr = false) ∧
        (∀ b : Byte, 2 < b.toNat → ∃ s', exec (.i3cSelect [b]) s = .next s' ∧ s'.m = s.m
          ∧ s'.hub.power.block = w.block ∧ s'.hub.power.cmdErr = true)) ∧
      (s.m.hostUp = true →
        (w.st = .ready → w.entering = false → s.m.standbyFits = true →
          ∃ s', exec (.reqStandby 0x1) s = .next s' ∧ s'.hub.power.entering = true ∧ s'.hub.power.result = 5
            ∧ s'.hub.power.st = .ready) ∧
        (w.st = .ready → w.entering = false → s.m.standbyFits = false →
          ∃ s', exec (.reqStandby 0x1) s = .next s' ∧ s'.hub.power.entering = false ∧ s'.hub.power.result = 2) ∧
        (w.st = .standby →
          ∃ s', exec (.reqStandby 0x1) s = .next s' ∧ s'.hub.power.st = .standby ∧ s'.hub.power.result = 3) ∧
        (w.st = .standby → w.waking = false →
          ∃ s', exec (.reqWake 0x2) s = .next s' ∧ s'.hub.power.waking = true ∧ s'.hub.power.lastWake = 1
            ∧ s'.hub.clock = .acquiring) ∧
        (w.st = .ready → ∃ s', exec (.reqWake 0x2) s = .next s' ∧ s'.m = s.m ∧ s'.hub = s.hub.setResult 4) ∧
        (w.st = .ready ∨ w.st = .standby → idleAll →
          ∃ s', exec (.reqShutdown 0x3) s = .next s' ∧ s'.hub.power.st = .off ∧ s'.hub.power.fault = 0) ∧
        (∀ hbmStacks, w.st = .ready → w.entering = false → (∀ p, (s.m.part p).admitted = false) →
          ∃ s', exec (.restoreFactory 0x4 hbmStacks) s = .next s' ∧ s'.hub.power.result = 1 ∧ s'.hub.power.st = .ready
            ∧ (∀ q, (s'.m.port q).latency = none) ∧ s'.m.cal.hbmSeeds = true) ∧
        (∀ hbmStacks p, w.st = .ready → (s.m.part p).admitted = true →
          ∃ s', exec (.restoreFactory 0x4 hbmStacks) s = .next s' ∧ s'.hub.power.result = 3 ∧ s'.m.cal = s.m.cal)) ∧
      (w.st = .ready → w.entering = true → (∀ q, (s.m.port q).st ≠ .active) →
        ∃ s', exec .standbyEntered s = .next s' ∧ s'.hub.power.st = .standby
          ∧ s'.hub.power.entering = false ∧ s'.hub.power.result = 1 ∧ s'.m.ls = Vector.replicate 72 [] ∧ s'.m.hbm = s.m.hbm
          ∧ (s'.m.func pf0).events.any (fun e => e.1 == evStandbyEntered) = true
          ∧ (w.doorbells = [] → s'.hub.clock = .off ∧ s'.hub.power.waking = w.waking)
          ∧ (w.doorbells ≠ [] → w.wakeDb = true → w.waking = false → s'.hub.clock = .acquiring ∧ s'.hub.power.waking = true))) ∧
    (w.input = true → ∀ a,
      exec (.i3cDynamicAddress a) s = .next { s with hub := { s.hub with power := { w with dynAddr := some a } } }) ∧
    (∀ t, w.leaving = some t → (t ≤ s.m.wall ∨ s.m.tearing = false) → w.input = true →
      ∃ s', exec (.powerOff []) s = .next s' ∧ s'.hub.power.st = .off ∧ s'.hub.power.leaving = none
        ∧ s'.hub.power.fault = 0)

/-- Start-up and firmware. SECURE_BOOT of an image that passes every check takes its identity, measures and starts the
contexts and lets the clock acquire, restoring a bad user calibration and stopping at a bad factory one; one that fails takes
the module to RECOVERY with the code of its first failed check, and a critical flow to OFF. STARTUP_CALIBRATION of a locked
clock ends in READY with its report. RECOVERY_GO of an image that passes, and that the boot area gives back, restarts start-up;
FIRMWARE_UPDATE writes it for the next boot; SVN_COMMIT raises the fused minimum to the image's SVN, at most 64 times
(R392 to R396, R421 to R424, R429, R468). -/
def Obligations.StartupRowsAct : Prop :=
  ∀ (s : State), s.hub.power.leaving = none →
    let b := s.hub.boot
    let w := s.hub.power
    (∀ f : FlashFound, w.st = .startup → w.step < 3 →
      (w.flowLow = true →
        ∃ s', exec (.secureBoot f) s = .next s' ∧ s'.hub.power.st = .off ∧ s'.hub.power.fault = 6) ∧
      (w.flowLow = false → b.check f.flashUe = 0 →
        let identity (s' : State) : Prop := s'.hub.power.step = 3 ∧ s'.hub.boot.digest = imageDigest b.area
          ∧ s'.hub.boot.svn = imageSvn b.area ∧ ∀ k, (s'.hub.boot.contexts.get k).isSome = true
        (s.m.cal.factoryGood = true → f.factoryBad = false →
          ∃ s', exec (.secureBoot f) s = .next s' ∧ identity s' ∧ s'.hub.boot.code = 0
            ∧ s'.hub.clock = .acquiring ∧ s'.hub.power.st = .startup
            ∧ (s.m.cal.good = true → f.userBad = false → s'.hub.power.userCalLost = false ∧ s'.m.cal = s.m.cal)
            ∧ (s.m.cal.good = false ∨ f.userBad = true → s'.hub.power.userCalLost = true ∧ s'.m.cal.hbmSeeds = false
                ∧ (∀ q, (s'.m.port q).latency = none)
                ∧ (s'.m.func pf0).events.any (fun e => e.1 == evUserCalLost) = true)) ∧
        (s.m.cal.factoryGood = false ∨ f.factoryBad = true →
          ∃ s', exec (.secureBoot f) s = .next s' ∧ identity s' ∧ s'.hub.boot.code = 0x10
            ∧ s'.hub.power.fault = 9 ∧ s'.hub.clock = s.hub.clock)) ∧
      (w.flowLow = false → b.check f.flashUe ≠ 0 →
        ∃ s', exec (.secureBoot f) s = .next s' ∧ s'.hub.power.st = .recovery
          ∧ s'.hub.boot = { b with code := b.check f.flashUe })) ∧
    (∀ test found, w.st = .startup → w.step = 4 → s.hub.clock = .locked →
      ∃ s', exec (.startupCalibration test found) s = .next s' ∧ s'.hub.power.st = .ready ∧ s'.hub.power.thermStep = 0
        ∧ s'.m.hbmGood = ~~~found.hbmStacks ∧ s'.m.cal.hbmSeeds = true ∧ s'.hub.clock = .locked
        ∧ (∃ r, s'.m.regs.startReport = some r ∧ r.2 = allPorts.map (fun q => (s.m.port q).st)
            ∧ ∀ k < 8, r.1.getLsbD k = s'.m.bayUsable k)
        ∧ (s'.m.func pf0).events.any (fun e => e.1 == evStartupDone) = true) ∧
    (∀ img, s.hub.image s.m = some img → b.fwState ≠ 1 →
      let back := Config.readBack s.m.wall img
      let code := bootCode img b.svnMin false
      (w.st = .recovery →
        (code = 0 → imageDigest back = imageDigest img →
          ∃ s', exec .recoveryGo s = .next s' ∧ s'.hub.power.st = .startup ∧ s'.hub.power.step = 2
            ∧ s'.hub.boot.area = img) ∧
        (code = 0 → imageDigest back ≠ imageDigest img →
          ∃ s', exec .recoveryGo s = .next s' ∧ s'.hub.power.st = .recovery ∧ s'.hub.boot.fwState = 3
            ∧ s'.hub.boot.area = back) ∧
        (code ≠ 0 →
          ∃ s', exec .recoveryGo s = .next s' ∧ s'.hub.power.st = .recovery
            ∧ s'.hub.boot = { b with fwState := 3, fwCode := code })) ∧
      (s.pf0Live = true →
        (code = 0 → imageDigest back = imageDigest img →
          exec .firmwareUpdate s = .next { s with hub := { s.hub with boot :=
            { b with area := img, fwState := 2, fwCode := 0, wroteAt := some s.m.wall, torn := none } } }) ∧
        (code ≠ 0 →
          exec .firmwareUpdate s = .next { s with hub := { s.hub with boot := { b with fwState := 3, fwCode := code } } }))) ∧
    (s.pf0Live = true →
      (b.raises < 64 → b.svnMin < b.svn →
        exec .svnCommit s = .next { s with hub := { s.hub with boot :=
          { b with svnMin := b.svn, raises := b.raises + 1, commitRefused := false } } }) ∧
      (b.raises < 64 → b.svn ≤ b.svnMin →
        exec .svnCommit s = .next { s with hub := { s.hub with boot := { b with commitRefused := false } } }) ∧
      (64 ≤ b.raises →
        exec .svnCommit s = .next { s with hub := { s.hub with boot := { b with commitRefused := true } } }))

/-! ### Thermal, telemetry and maintenance -/

/-- What the module does to itself. A thermal sample, at its boundary, moves the step by Table OPS-6; a critical reading
takes it to OFF with cause 5; a capture writes the buffer of its number. A scrub, and a rewrite, take away a corrected error and
no content, and a scrub of an uncorrectable line enters it in the UE log; a due row is repaired; a pass of the stone check
zeroes each stone whose digest differs and reports it, and counts all; a rotation moves page by page, and an acknowledged page
leaves PREV; a failed CXL device, exhausted flash and a failed tile are recorded; a core follows its rotation (R98, R226, R228,
R231, R238, R343, R349, R350, R388, R391, R406 to R409, R428 to R435). -/
def Obligations.MaintenanceRowsAct : Prop :=
  ∀ (s : State),
    let w := s.hub.power
    (w.leaving = none → w.st ≠ .off →
      (∀ r,
        let k := max (ceilDiv (s.m.wall - s.m.aonAt) 10000000) (w.samples + 1)
        (criticalBit r = false →
          ∃ s', exec (.thermalSample r) s = .next s' ∧ s'.hub.power.st = w.st
            ∧ (s'.hub.power.thermStep, s'.hub.power.zeroRun) = thermalNext w.thermStep w.zeroRun (emergencyBit r)
            ∧ s'.hub.power.samples = k ∧ s'.hub.power.emergency = emergencyBit r
            ∧ s'.m.wall = max s.m.wall (s.m.aonAt + 10000000 * k)
            ∧ (s.m.aonAt + 10000000 * k ≤ s.m.wall → MemoriesStand s s')) ∧
        (criticalBit r = true →
          ∃ s', exec (.thermalSample r) s = .next s' ∧ s'.hub.power.st = .off ∧ s'.hub.power.fault = 5)) ∧
      (∀ r, criticalBit r = true →
        ∃ s', exec (.criticalSensorRead r) s = .next s' ∧ s'.hub.power.st = .off ∧ s'.hub.power.fault = 5) ∧
      (∀ r, criticalBit r = false → exec (.criticalSensorRead r) s = .next s)) ∧
    (w.st = .ready →
      (∀ k p, s.m.aonAt ≤ s.m.wall →
        ∃ s', exec (.telemetryCapture k) s = .next s' ∧ s'.hub = s.hub ∧ s'.m.regs.capture = s.m.regs.capture + 1
          ∧ (s'.m.wall - s.m.aonAt) % 10000000 = 0 ∧ s.m.wall ≤ s'.m.wall ∧ s'.m.wall < s.m.wall + 10000000
          ∧ ((s'.m.part p).snaps[(s.m.regs.capture + 1) % 2]!).capture = s.m.regs.capture + 1
          ∧ ((s'.m.part p).snaps[(s.m.regs.capture + 1) % 2]!).tick = s'.m.tick
          ∧ ((s'.m.part p).snaps[s.m.regs.capture % 2]!) = ((s.m.part p).snaps[s.m.regs.capture % 2]!)
          ∧ ((s.m.wall - s.m.aonAt) % 10000000 = 0 → Still s s' ∧ MemoriesStand s s')) ∧
      (∀ l, s.m.lineBad l = false → s.m.lineSoft l = true →
        ∃ s', exec (.scrub l) s = .next s' ∧ Still s s' ∧ MemoriesStand s s' ∧ s'.m.lineSoft l = false
          ∧ s'.m.rewrites.contains l = false) ∧
      (∀ l p, s.m.lineBad l = true → (s.m.lineOwner l).1 = some p →
        ∃ s', exec (.scrub l) s = .next s' ∧ Still s s' ∧ MemoriesStand s s' ∧ s'.m.lineBad l = true
          ∧ ((s'.m.part p).tel.ueLog).any (fun e => e.ref == l) = true) ∧
      (∀ (bay : Fin 8) (pc : Fin 32), Sparse.wfFrom 0 0 s.m.hbmCal = true →
        ∃ s', exec (.hbmPhyCalibration bay pc) s = .next s' ∧ Still s s' ∧ MemoriesStand s s' ∧ s'.m.parts = s.m.parts
          ∧ s'.m.hbmCal.get 0 (32 * bay.val + pc.val) = s.m.hbmCal.get 0 (32 * bay.val + pc.val) + 1) ∧
      (∀ l, s.m.rewrites.contains l = true →
        ∃ s', exec (.correctedLineRewrite l) s = .next s' ∧ Still s s' ∧ MemoriesStand s s' ∧ s'.m.parts = s.m.parts
          ∧ s'.m.rewrites.contains l = false ∧ s'.m.lineSoft l = false) ∧
      (∀ (bay : Fin 8) (pc : Fin 32) row, s.m.repairable bay.val pc.val row = true →
        ∃ s', exec (.hbmRowRepair bay pc row) s = .next s' ∧ Still s s' ∧ MemoriesStand s s' ∧ s'.m.parts = s.m.parts
          ∧ s'.m.cal.repairs = s.m.cal.repairs ++ [(bay.val, pc.val, row)]
          ∧ s'.m.cal.due.contains (bay.val, pc.val, row) = false) ∧
      (s.m.flashWorn = false →
        ∃ s', exec .flashSpareExhausted s = .next s' ∧ Still s s' ∧ MemoriesStand s s' ∧ s'.m.parts = s.m.parts
          ∧ s'.m.flashWorn = true) ∧
      (∀ p, (s.m.part p).admitted = true → w.entering = false →
        (s.m.part p).checkedAt + s.m.interval p * 3600000000000 ≤ s.m.wall → s.m.memWf = true →
        let rs := (s.m.part p).resident
        let is (d : Digested) (r : Resident) : Bool := digestOf s.m p r == d
        let under (k : Fin 8) (a : Nat) : Prop := ∃ r ∈ rs, is .mismatched r = true ∧ toFin 8 r.bay = k
          ∧ 64 * r.line ≤ a ∧ a < 64 * r.line + stoneBytes
        rs.Pairwise (fun a b => a.under b.bay b.line = false) → (∀ r ∈ rs, r.bay < 8) →
        ∃ s', exec (.intervalCheck p) s = .next s' ∧ Still s s' ∧ s'.m.ls = s.m.ls
          ∧ (s'.m.part p).resident = rs.filter (fun r => !is .mismatched r) ∧ (s'.m.part p).checkedAt = s.m.wall
          ∧ (s'.m.part p).tel.mismatched = { n := rs.countP (is .mismatched) }
          ∧ (s'.m.part p).tel.checked = { n := rs.countP (is .mismatched) + rs.countP (is .good) }
          ∧ (s'.m.part p).tel.unchecked = { n := rs.countP (is .unchecked) + rs.countP (is .skipped) }
          ∧ (∀ r ∈ rs, is .mismatched r = true → (r.model, r.index) ∈ (s'.m.part p).corrupt
              ∧ (s'.m.func (vfOf p)).events.any (fun e => e.1 == evStoneCorrupt) = true)
          ∧ ∀ k a, (under k a → (s'.m.hbm.get k).byte a = 0)
              ∧ (¬ under k a → (s'.m.hbm.get k).byte a = (s.m.hbm.get k).byte a)) ∧
      (∀ p r es q n, (s.m.part p).keys.rotation = some r → (s.m.part p).extents = some es →
        locatePage es r.pos = some (q, n) →
        let k := (s.m.part p).keys
        let moved := pageEpoch (s.m.cxl.get q) n = k.cur ∧ (s.m.cxl.get q).good = true
        (moved →
          ∃ s', exec (.reencryptionPage p) s = .next s' ∧ Still s s' ∧ MemoriesStand s s'
            ∧ (s'.m.part p).keys = { k with rotation := some { r with pos := r.pos + 1 } }) ∧
        (∀ bs t, ¬ moved → readPage s.m p q n = .ok bs → k.tier.get k.cur = some t →
          ∃ s', exec (.reencryptionPage p) s = .next s' ∧ Still s s' ∧ s'.m.ls = s.m.ls ∧ s'.m.hbm = s.m.hbm
            ∧ (s'.m.part p).keys.rotation = some { r with pos := r.pos + 1 }
            ∧ (s'.m.part p).keys.tier.get k.cur = some { t with wcount := t.wcount + 1 }) ∧
        (∀ e, ¬ moved → readPage s.m p q n = .error e →
          ∃ s', exec (.reencryptionPage p) s = .next s' ∧ Still s s' ∧ MemoriesStand s s'
            ∧ (s'.m.part p).keys = { k with rotation := some { pos := r.pos + 1, stalled := r.stalled ++ [r.pos] } }
            ∧ (s'.m.func (vfOf p)).stalled = r.stalled.length + 1
            ∧ (s'.m.func (vfOf p)).events.any (fun e => e.1 == evRotationStalled) = true)) ∧
      (∀ core : Fin 4, s.m.aonAt ≤ s.m.wall →
        let t := s.m.wall - s.m.aonAt
        ∃ s', exec (.contextSlice core) s = .next s' ∧ s'.hub.power = w
          ∧ s'.m.wall = (if sliceAt t = s.hub.slices.get core then s.m.wall + sliceLeft t else s.m.wall)
          ∧ s'.hub.slices.get core = sliceAt (s'.m.wall - s.m.aonAt)
          ∧ (∀ k, k ≠ core → s'.hub.slices.get k = s.hub.slices.get k)
          ∧ ∀ p : Part, p.val = 2 * core.val + s'.hub.slices.get core → s'.hub.slices.get core < 2 →
              (s'.m.part p).ctx.mail = [])) ∧
    (∀ p page e, (s.m.part p).keys.pendingAck.find? (fun k => k.1 == page) = some e →
      let k := (s.m.part p).keys
      let acks := k.pendingAck.eraseP (fun k => k.1 == page)
      ∃ s', exec (.tierPageAck p page) s = .next s' ∧ Still s s' ∧ MemoriesStand s s'
        ∧ (s'.m.part p).keys.pendingAck = acks
        ∧ (∀ t, e.2.2 = k.cur → e.2.1 ≠ k.cur → k.tier.get k.cur = some t →
            (s'.m.part p).keys.tier.get k.cur = some { t with pages := t.pages + 1 })
        ∧ (∀ t, e.2.2 = k.cur → e.2.1 = k.cur + 1 → k.tier.get (k.cur + 1) = some t → t.pages = 1 → acks = [] →
            (s'.m.part p).keys.tier.get (k.cur + 1) = none ∧ (s'.m.part p).keys.rotation = none
            ∧ (s'.m.func (vfOf p)).events.any (fun e => e.1 == evRotationDone) = true)) ∧
    (∀ x : Fin 2, (s.m.cxl.get x).present = true →
      ∃ s', exec (.cxlDeviceFail x) s = .next s' ∧ Still s s' ∧ s'.m.cxl.get x = { s.m.cxl.get x with failed := true }
        ∧ (∀ y, y ≠ x → s'.m.cxl.get y = s.m.cxl.get y) ∧ s'.m.parts = s.m.parts) ∧
    (∀ t p, s.m.partOfTile t = some p → (s.m.part p).running = true →
      ∃ s', exec (.tileFailed t) s = .next s' ∧ Still s s' ∧ MemoriesStand s s' ∧ s'.m.tiles = s.m.tiles
        ∧ ∃ r, (s'.m.part p).dueFaults = (s.m.part p).dueFaults ++ [r] ∧ r.code = 0x0012 ∧ r.cycle = (s.m.part p).ctr)

/-! ### Security -/

/-- The SPDM responder in READY and its key messages. GET_VERSION begins a connection; capabilities, algorithms, digests,
certificate, challenge and measurements follow in their order, and out of it are unexpected; challenge and, where asked,
measurements are signed over the transcript; a response beyond one transfer is kept for CHUNK_GET, chunks of a request are
gathered; anything else is answered as unsupported, and all at a VF without a partition as Busy. KEY_PUT and KEY_DROP change
the key slots where their checks pass and answer with their status; ENCAP_GET and KEY_STATUS change no key; TIER_ROTATE makes
the other slot CUR with a fresh key; PF0 refuses each (R397, R401 to R407; the message forms are the model's, log 75). -/
def Obligations.SecurityRowsAct : Prop :=
  ∀ (f : Fn) (msg : List Byte) (s : State), s.hub.power.st = .ready →
    let c := (s.m.func f).spdm
    let live := s.m.fnLive f = true
    let made (s' : State) : Prop := Still s s' ∧ MemoriesStand s s' ∧ s'.m.parts = s.m.parts
    let gave (r : Bytes) (s' : State) : Prop := ((s'.m.func f).spdm).transcript = c.transcript ++ msg ++ r
      ∧ (r.length ≤ 4096 → ((s'.m.func f).spdm).response = r ∧ ((s'.m.func f).spdm).chunkOut = none)
      ∧ (4096 < r.length → ((s'.m.func f).spdm).response = spdmMsg 0x7F 0x0F 0 [0]
          ∧ ((s'.m.func f).spdm).chunkOut = some (0, r))
    let fails (code : Nat) (i : Instr) : Prop := ∃ s', exec i s = .next s' ∧ made s'
      ∧ ((s'.m.func f).spdm) = { c with response := spdmError code }
    (live → msgCode msg = 0x84 →
      ∃ s', exec (.getVersion f msg) s = .next s' ∧ made s' ∧ ((s'.m.func f).spdm).version = true
        ∧ ((s'.m.func f).spdm).caps = false ∧ ((s'.m.func f).spdm).algs = false
        ∧ ((s'.m.func f).spdm).transcript = msg ++ ((s'.m.func f).spdm).response) ∧
    (live → msgVersion msg = 0x13 →
      (msgCode msg = 0xE1 →
        (c.version = false → fails 0x04 (.getCapabilities f msg)) ∧
        (c.version = true →
          ∃ s', exec (.getCapabilities f msg) s = .next s' ∧ made s' ∧ ((s'.m.func f).spdm).caps = true
            ∧ ((s'.m.func f).spdm).algs = c.algs)) ∧
      (msgCode msg = 0xE3 →
        (c.version = false ∨ c.caps = false → fails 0x04 (.negotiateAlgorithms f msg)) ∧
        (c.version = true → c.caps = true →
          ∃ s', exec (.negotiateAlgorithms f msg) s = .next s' ∧ made s' ∧ ((s'.m.func f).spdm).algs = true
            ∧ gave (spdmMsg 0x63 0 0 (Config.spdmFields 0xE3 msg)) s')) ∧
      (c.algs = false →
        (msgCode msg = 0x81 → fails 0x04 (.getDigests f msg)) ∧
        (msgCode msg = 0x82 → fails 0x04 (.getCertificate f msg)) ∧
        (msgCode msg = 0x83 → fails 0x04 (.challenge f msg)) ∧
        (msgCode msg = 0xE0 → fails 0x04 (.getMeasurements f msg)) ∧
        (msgCode msg = 0x85 → fails 0x04 (.chunkSend f msg)) ∧
        (msgCode msg = 0x86 → fails 0x04 (.chunkGet f msg))) ∧
      (c.version = true → c.caps = true → c.algs = true →
        let chain := chainOf s.m s.hub f
        (msgCode msg = 0x81 →
          ∃ s', exec (.getDigests f msg) s = .next s' ∧ made s'
            ∧ gave (spdmMsg 0x01 0 1 (leBytes 64 (Config.sha3d512 chain).toNat)) s') ∧
        (msgCode msg = 0x82 →
          let o := leAt msg 4 2
          let n := min (leAt msg 6 2) (chain.length - o)
          (leAt msg 2 1 = 0 → (o = 0 ∨ o < chain.length) →
            ∃ s', exec (.getCertificate f msg) s = .next s' ∧ made s'
              ∧ gave (spdmMsg 0x02 0 0 (leBytes 2 n ++ leBytes 2 (chain.length - o - n) ++ (chain.drop o).take n)) s') ∧
          (leAt msg 2 1 ≠ 0 ∨ (o ≠ 0 ∧ chain.length ≤ o) → fails 0x01 (.getCertificate f msg))) ∧
        (msgCode msg = 0x83 →
          (leAt msg 2 1 = 0 →
            ∃ s' n, exec (.challenge f msg) s = .next s' ∧ made s' ∧ n.length = 32 ∧
              (let body := spdmMsg 0x03 0 1 (leBytes 64 (Config.sha3d512 chain).toNat ++ n ++ Config.spdmFields 0x83 msg)
               gave (body ++ Config.mldsaSign (s.m.signKey s.hub f) (c.transcript ++ msg ++ body)) s')) ∧
          (leAt msg 2 1 ≠ 0 → fails 0x01 (.challenge f msg))) ∧
        (msgCode msg = 0xE0 →
          let op := leAt msg 3 1
          let list := measurementList f
          let asked := if op = 0 then [] else if op = 0xFF then list else list.filter (· == op)
          let blocks := asked.filterMap (fun k => (measurement s.m.beforeGroups s.hub f k).map (blockRecord k))
          let body (n : Bytes) := spdmMsg 0x60 (if op = 0 then list.length else 0) 0
            (leBytes 1 blocks.length ++ leBytes 3 blocks.flatten.length ++ blocks.flatten ++ n ++ leBytes 2 0)
          (op ≠ 0 → asked = [] → fails 0x01 (.getMeasurements f msg)) ∧
          (op = 0 ∨ asked ≠ [] →
            ∃ s' n, exec (.getMeasurements f msg) s = .next s' ∧ made s' ∧ n.length = 32
              ∧ (leAt msg 2 1 % 2 = 0 → gave (body n) s')
              ∧ (leAt msg 2 1 % 2 = 1 →
                  gave (body n ++ Config.mldsaSign (s.m.signKey s.hub f) (c.transcript ++ msg ++ body n)) s')))) ∧
      (c.algs = true →
        (msgCode msg = 0x85 →
          let seq := leAt msg 4 2
          let data := (msg.drop (if seq = 0 then 16 else 12)).take (leAt msg 8 4)
          (∀ b, (if seq = 0 then b = [] else c.chunkIn = some (seq, b)) → (b ++ data).length ≤ 65536 →
            (leAt msg 2 1 % 2 = 0 →
              ∃ s', exec (.chunkSend f msg) s = .next s' ∧ made s' ∧ ((s'.m.func f).spdm) = { c with
                chunkIn := some (seq + 1, b ++ data), response := spdmMsg 0x05 0 (leAt msg 3 1) (leBytes 2 seq) }) ∧
            (leAt msg 2 1 % 2 = 1 →
              ∃ s' r, exec (.chunkSend f msg) s = .next s' ∧ Still s s'
                ∧ ((s'.m.func f).spdm).response = spdmMsg 0x05 0 (leAt msg 3 1) (leBytes 2 seq ++ r)))) ∧
        (msgCode msg = 0x86 → ∀ k b, c.chunkOut = some (k, b) →
          let seq := leAt msg 4 2
          let part := (b.drop (chunkRoom * seq)).take chunkRoom
          part ≠ [] →
          ∃ s', exec (.chunkGet f msg) s = .next s' ∧ made s'
            ∧ ((s'.m.func f).spdm).chunkOut = (if b.length ≤ chunkRoom * (seq + 1) then none else some (seq + 1, b))
            ∧ ((s'.m.func f).spdm).response
                = spdmMsg 0x06 (if b.length ≤ chunkRoom * (seq + 1) then 1 else 0) (leAt msg 3 1)
                  (leBytes 2 seq ++ leBytes 2 0 ++ leBytes 4 part.length ++ (if seq = 0 then leBytes 4 b.length else []) ++ part)))) ∧
    (live → (supportedCode (msgCode msg) = false ∧ msgCode msg ≠ 0x85 ∧ msgCode msg ≠ 0x86)
        ∨ (msgCode msg = 0xFE ∧ keyRequest msg = false) ∨ (msgCode msg ≠ 0x84 ∧ msgVersion msg ≠ 0x13) →
      fails 0x07 (.unsupportedRequest f msg)) ∧
    (s.m.fnLive f = false →
      (msgCode msg = 0x84 → fails 0x03 (.getVersion f msg)) ∧
      (msgCode msg = 0xE1 → msgVersion msg = 0x13 → fails 0x03 (.getCapabilities f msg)) ∧
      (supportedCode (msgCode msg) = false → msgCode msg ≠ 0x85 → msgCode msg ≠ 0x86 →
        fails 0x03 (.unsupportedRequest f msg))) ∧
    (live → msgVersion msg = 0x13 → msgCode msg = 0xFE → keyRequest msg = true → c.version = true → c.caps = true →
      c.algs = true →
      let b := vendorPayload msg
      (∀ p, partOfFn f = some p →
        let x := s.m.part p
        let answered (s' : State) (r : Bytes) : Prop := Still s s' ∧ gave (vendorResponse msg r) s'
        (leAt b 0 1 = 1 → ∃ s', exec (.encapGet f msg) s = .next s' ∧ made s'
          ∧ answered s' (leBytes 1 0 ++ leBytes 4 x.admissions.toNat ++ sliceB x.encapKey 0 1568)) ∧
        (leAt b 0 1 = 2 → ∃ s', exec (.keyPut f msg) s = .next s' ∧ answered s' (leBytes 1 (putKey x (b.drop 1)).1)
          ∧ MemoriesStand s s' ∧ s'.m.part p = { x with keys := (putKey x (b.drop 1)).2 }) ∧
        (leAt b 0 1 = 3 → ∃ s', exec (.keyDrop f msg) s = .next s' ∧ answered s' (leBytes 1 (dropKey x (b.drop 1)).1)
          ∧ MemoriesStand s s' ∧ s'.m.part p = { x with keys := (dropKey x (b.drop 1)).2 }) ∧
        (leAt b 0 1 = 4 →
          (x.keys.tier.get (x.keys.cur + 1) = none → ∃ s', exec (.tierRotate f msg) s = .next s'
            ∧ answered s' (leBytes 1 0 ++ leBytes 1 (x.keys.cur + 1).val) ∧ s'.m.ls = s.m.ls ∧ s'.m.hbm = s.m.hbm
            ∧ (s'.m.part p).keys.cur = x.keys.cur + 1
            ∧ ((s'.m.part p).keys.tier.get (x.keys.cur + 1)).isSome = true) ∧
          ((x.keys.tier.get (x.keys.cur + 1)).isSome = true → ∃ s', exec (.tierRotate f msg) s = .next s' ∧ made s'
            ∧ answered s' (leBytes 1 6 ++ leBytes 1 x.keys.cur.val))) ∧
        (leAt b 0 1 = 5 → ∃ s', exec (.keyStatus f msg) s = .next s' ∧ made s'
          ∧ answered s' (leBytes 1 0 ++ keyStatus x.keys))) ∧
      (partOfFn f = none →
        let refused (i : Instr) : Prop := ∃ s', exec i s = .next s' ∧ made s' ∧ gave (vendorResponse msg (leBytes 1 7)) s'
        (leAt b 0 1 = 1 → refused (.encapGet f msg)) ∧ (leAt b 0 1 = 2 → refused (.keyPut f msg)) ∧
        (leAt b 0 1 = 3 → refused (.keyDrop f msg)) ∧ (leAt b 0 1 = 4 → refused (.tierRotate f msg)) ∧
        (leAt b 0 1 = 5 → refused (.keyStatus f msg))))

/-! ### The whole block -/

/-- Every step keeps the relations of the power state, the fast clock, the fused minimum and the core rotation. -/
def Obligations.HubInvariantIsKept : Prop :=
  ∀ s t : State, s.hub.Inv → step s = .next t → t.hub.Inv

/-- Every step moves the power state as Table OPS-2, start-up and RECOVERY allow; the module leaves OFF by POWER_APPLIED and
POWER_ON alone, and the fused minimum changes by SVN_COMMIT alone and never falls (R395, R415, R416, R419). -/
def Obligations.PowerAndFusesMove : Prop :=
  ∀ (s t : State), step s = .next t →
    powerMove s.hub.power.st t.hub.power.st = true ∧ s.hub.boot.svnMin ≤ t.hub.boot.svnMin ∧
    (s.hub.power.st = .off → t.hub.power.st ≠ .off →
      (∃ mv present straps flow, s.pending.head? = some (.powerApplied mv present straps flow))
        ∨ ∃ args, s.pending.head? = some (.powerOn args)) ∧
    (t.hub.boot.svnMin ≠ s.hub.boot.svnMin → s.pending.head? = some .svnCommit)

/-- No command is refused: each answers a next state, but POWER_APPLIED and INPUT_OV where an input above 72 V
damages the module, which the table of the input calls possible (Table PHY-1; the stop is the model's, log 3). -/
def Obligations.NoCommandIsRefused : Prop :=
  ∀ (c : Instr) (s : State), (∃ t, exec c s = .next t) ∨
    (exec c s = .fault .inputDamage ∧
      ((∃ mv us, c = .inputOv mv us ∧ 72000 < mv)
        ∨ ∃ mv present straps flow, c = .powerApplied mv present straps flow ∧ 72000 < mv))

/-- A memory in its canonical form keeps it at every write and every clearing; a run of bytes reads as written, and every
other byte as before; and what stands at an address is what reading it gives (the form is the model's, log 4). -/
def Obligations.BytesReadAsWritten : Prop :=
  ∀ (m : Mem) (a : Nat) (bs : Bytes), m.wf = true →
    (m.write a bs).wf = true ∧ Mem.became m (m.write a bs) a bs ∧ (m.write a bs).read a bs.length = bs ∧
    (∀ n x, (m.clear a n).byte x = if a ≤ x ∧ x < a + n then 0 else m.byte x) ∧
    (∀ n, (m.clear a n).wf = true) ∧
    (∀ n i, i < n → (m.read a n)[i]? = some (m.byte (a + i))) ∧
    ∀ ws, (m.writes ws).wf = true

/-- After reset: OFF with the fast clock OFF, no command waiting, no partition admitted, every port DOWN, every ring DISABLED
with its phase 1, the event mask, PART_CFG and the wake enables at the values their tables give, every memory in its
canonical form with nothing listed, and the relations of the hub (Tables HST-2, REG-3, OPS-9; R419, R482). -/
def Obligations.ResetLeaves : Prop :=
  State.reset.pending = [] ∧ State.reset.hub.Inv ∧ State.reset.m.memWf = true ∧
  State.reset.hub.power.st = .off ∧ State.reset.hub.clock = .off ∧
  State.reset.hub.power.wakeDb = true ∧ State.reset.hub.power.wakeTtl = true ∧ State.reset.m.regs.nodeWritten = false ∧
  (∀ p, (State.reset.m.part p).admitted = false ∧ (State.reset.m.part p).admissions = 0
    ∧ (State.reset.m.part p).member.st = .idle ∧ (State.reset.m.part p).running = false) ∧
  (∀ q, (State.reset.m.port q).st = .down) ∧
  (∀ f n, ((State.reset.m.func f).pair n).st = .disabled ∧ ((State.reset.m.func f).pair n).phase = true
    ∧ (State.reset.m.func f).evtMask.active = 0xFFFFFF00 ∧ fld (State.reset.m.func f).partCfg.active 9 0 = 24) ∧
  (∀ t, (State.reset.m.tile t).flags = [] ∧ (State.reset.m.tile t).seed = 0 ∧ (State.reset.m.store t) = [])
end

