-- ==== Sys2Proof/Laws/Check.lean ====
section
/-!
SUPPORT. The check of a flit tells the members of the window set apart (R247, R248): of two sequence numbers, or a number and
an IDLE, one body checks under one of them alone.
-/
namespace Sys2Proof.Machine

/-- Bits fed to the register one after another. -/
def crcBits (c : BitVec 64) (l : List Bool) : BitVec 64 := l.foldl crcBit c

/-- The bits of a byte, bit 0 first. -/
def byteBits (b : Byte) : List Bool := (List.range 8).map b.getLsbD

theorem crcByte_eq (c : BitVec 64) (b : Byte) : crcByte c b = crcBits c (byteBits b) := by
  simp [crcByte, crcBits, byteBits, List.foldl_map]

theorem crcRun_eq (c : BitVec 64) (bs : Bytes) : crcRun c bs = crcBits c (bs.flatMap byteBits) := by
  induction bs generalizing c with
  | nil => rfl
  | cons b bs ih =>
    have h : crcRun c (b :: bs) = crcRun (crcByte c b) bs := rfl
    rw [h, ih, crcByte_eq]
    simp [crcBits, List.foldl_append]

/-- One bit is linear in the register and the bit. -/
theorem crcBit_xor (c d : BitVec 64) (x y : Bool) : crcBit (c ^^^ d) (x ^^ y) = crcBit c x ^^^ crcBit d y := by
  have hs : (c ^^^ d) <<< 1 = (c <<< 1) ^^^ (d <<< 1) := by ext i; simp; grind
  unfold crcBit
  rw [hs, BitVec.getLsbD_xor]
  cases x <;> cases y <;> cases c.getLsbD 63 <;> cases d.getLsbD 63 <;> simp <;>
    first | ac_rfl | (ac_nf; simp [← BitVec.xor_assoc])

theorem crcBits_xor (l k : List Bool) (h : l.length = k.length) (c d : BitVec 64) :
    crcBits (c ^^^ d) (List.zipWith (· ^^ ·) l k) = crcBits c l ^^^ crcBits d k := by
  induction l generalizing k c d with
  | nil => cases k with
    | nil => rfl
    | cons => simp at h
  | cons a l ih =>
    cases k with
    | nil => simp at h
    | cons b k =>
      simp only [List.zipWith_cons_cons, crcBits, List.foldl_cons, crcBit_xor]
      exact ih k (by simpa using h) _ _

/-- A run of at most 64 bits that ends in a clear register began with its low bits clear. -/
theorem crcBits_low (l : List Bool) (c : BitVec 64) (n : l.length ≤ 64) (h : crcBits c l = 0) :
    ∀ i, i + l.length < 64 → c.getLsbD i = false := by
  induction l generalizing c with
  | nil => intro i _; simp only [crcBits, List.foldl_nil] at h; simp [h]
  | cons x l ih =>
    have k := ih (crcBit c x) (by simp at n; omega) h
    simp only [List.length_cons] at n ⊢
    have z := k 0 (by omega)
    intro i hi
    have e := k (i + 1) (by omega)
    by_cases f : (x != c.getLsbD 63) = true
    · rw [crcBit, if_pos f, BitVec.getLsbD_xor] at z
      simp at z
    · rw [crcBit, if_neg f] at e
      simpa [show i < 64 by omega, show i + 1 < 64 by omega] using e

/-- From a clear register, at most 64 bits that leave it clear are all clear. -/
theorem crcBits_zero (l : List Bool) (n : l.length ≤ 64) (h : crcBits 0 l = 0) : ∀ x ∈ l, x = false := by
  induction l with
  | nil => simp
  | cons x l ih =>
    simp only [List.length_cons] at n
    have h : crcBits (crcBit 0 x) l = 0 := h
    have z := crcBits_low l _ (by omega) h 0 (by omega)
    have hx : x = false := by
      cases x
      · rfl
      · simp [crcBit] at z
    subst hx
    have e : crcBit 0 false = 0 := by decide
    rw [e] at h
    simpa using ih (by omega) h

/-- Two runs of equal length, of at most 64 bits, from one register leave it different unless they are the same. -/
theorem crcBits_inj (c : BitVec 64) (l k : List Bool) (h : l.length = k.length) (n : l.length ≤ 64)
    (e : crcBits c l = crcBits c k) : l = k := by
  have z : crcBits 0 (List.zipWith (· ^^ ·) l k) = 0 := by
    have := crcBits_xor l k h c c
    rwa [BitVec.xor_self, e, BitVec.xor_self] at this
  have a := crcBits_zero _ (by simp; omega) z
  apply List.ext_getElem h
  intro i hi hk
  have b := a (l[i] ^^ k[i]) (by
    rw [List.mem_iff_getElem]
    exact ⟨i, by simp; omega, by simp⟩)
  simpa using b

theorem byteBits_inj {a b : Byte} (h : byteBits a = byteBits b) : a = b := by
  simp only [byteBits, List.map_inj_left, List.mem_range] at h
  apply BitVec.eq_of_getLsbD_eq
  intro i hi
  exact h i hi

/-- One body has different checks under different words of 16 bits. -/
theorem checkFrom_inj (c : BitVec 64) (v w : Nat) (hv : v < 65536) (hw : w < 65536) (h : checkFrom c v = checkFrom c w) :
    v = w := by
  have e : crcRun c (leBytes 2 v) = crcRun c (leBytes 2 w) := by
    have := congrArg (· ^^^ BitVec.allOnes 64) h
    simpa [checkFrom, BitVec.xor_assoc] using this
  rw [crcRun_eq, crcRun_eq] at e
  have k := crcBits_inj c _ _ (by simp [leBytes, byteBits]) (by simp [leBytes, byteBits]) e
  simp only [leBytes, List.flatMap_cons, List.flatMap_nil, List.append_nil] at k
  have l := List.append_inj k (by simp [byteBits])
  have a := congrArg BitVec.toNat (byteBits_inj l.1)
  have b := congrArg BitVec.toNat (byteBits_inj l.2)
  simp at a b
  omega

theorem implicitWord_lt {n : Option Nat} (h : ∀ s ∈ n, s < 4096) : implicitWord n < 65536 := by
  cases n with
  | none => decide
  | some s => have := h s rfl; simp only [implicitWord]; omega

theorem implicitWord_inj {a b : Option Nat} (h : implicitWord a = implicitWord b) : a = b := by
  cases a <;> cases b <;> simp only [implicitWord] at h <;> simp <;> omega

theorem windowSet_lt (ack : Nat) : ∀ n ∈ windowSet ack, ∀ s ∈ n, s < 4096 := by
  intro n hn s hs
  simp only [windowSet, List.mem_cons, List.mem_map, List.mem_range] at hn
  obtain rfl | ⟨i, _, rfl⟩ := hn
  · simp at hs
  · simp at hs; omega

theorem windowSet_nodup (ack : Nat) : (windowSet ack).Nodup := by
  rw [windowSet, List.nodup_cons]
  refine ⟨by simp, List.pairwise_map.2 (List.Pairwise.imp_of_mem ?_ List.nodup_range)⟩
  intro i j hi hj n h
  simp only [List.mem_range, Option.some.injEq] at hi hj h
  omega

theorem filter_only {α : Type} [DecidableEq α] (l : List α) (a : α) (hn : l.Nodup) (h : a ∈ l) :
    l.filter (fun x => decide (x = a)) = [a] := by
  induction l with
  | nil => simp at h
  | cons b l ih =>
    rw [List.nodup_cons] at hn
    by_cases e : b = a
    · subst e
      have k : l.filter (fun x => decide (x = b)) = [] := by
        rw [List.filter_eq_nil_iff]
        intro x hx; simp only [decide_eq_true_eq]; rintro rfl; exact hn.1 hx
      simp [k]
    · have : a ∈ l := (List.mem_cons.1 h).resolve_left (fun k => e k.symm)
      rw [List.filter_cons_of_neg (by simpa using e)]
      exact ih hn.2 this

/-- A body checked under a member of the window set checks under no other. -/
theorem windowHits_check (x : Port) (body : Bytes) (n : Option Nat) (h : n ∈ windowSet x.ack) :
    windowHits x body (checkFrom (crcRun (BitVec.allOnes 64) body) (implicitWord n)) = [n] := by
  rw [windowHits]
  rw [← filter_only (windowSet x.ack) n (windowSet_nodup _) h]
  apply List.filter_congr
  intro w hw
  rw [Bool.eq_iff_iff, beq_iff_eq, decide_eq_true_eq]
  constructor
  · intro e
    exact implicitWord_inj (checkFrom_inj _ _ _ (implicitWord_lt (windowSet_lt _ w hw)) (implicitWord_lt (windowSet_lt _ n h)) e)
  · rintro rfl; rfl

/-- The check of 248 bytes and a word is the one carried on from the register after the bytes. -/
theorem flitCheck_eq (body : Bytes) (w : Nat) : flitCheck body w = checkFrom (crcRun (BitVec.allOnes 64) body) w := by
  simp [flitCheck, crc64, checkFrom, crcRun, List.foldl_append]

end Sys2Proof.Machine
end

