-- ==== Sys2Proof/Laws/State.lean ====
section
/-!
SUPPORT. The small lemmas of the module's records: what each replacement of a partition, tile, port or function leaves, and
what it reads as.
-/
namespace Sys2Proof.Machine

/-! ### One lemma for each field and each replacement -/

@[simp] theorem setPart_wall (m : Mod) (k : Part) (x : Partition) : (m.setPart k x).wall = m.wall := rfl
@[simp] theorem setPart_aonAt (m : Mod) (k : Part) (x : Partition) : (m.setPart k x).aonAt = m.aonAt := rfl
@[simp] theorem setPart_stepping (m : Mod) (k : Part) (x : Partition) : (m.setPart k x).stepping = m.stepping := rfl
@[simp] theorem setPart_option (m : Mod) (k : Part) (x : Partition) : (m.setPart k x).option = m.option := rfl
@[simp] theorem setPart_cal (m : Mod) (k : Part) (x : Partition) : (m.setPart k x).cal = m.cal := rfl
@[simp] theorem setPart_regs (m : Mod) (k : Part) (x : Partition) : (m.setPart k x).regs = m.regs := rfl
@[simp] theorem setPart_tiles (m : Mod) (k : Part) (x : Partition) : (m.setPart k x).tiles = m.tiles := rfl
@[simp] theorem setPart_tileMap (m : Mod) (k : Part) (x : Partition) : (m.setPart k x).tileMap = m.tileMap := rfl
@[simp] theorem setPart_epochs (m : Mod) (k : Part) (x : Partition) : (m.setPart k x).epochs = m.epochs := rfl
@[simp] theorem setPart_ls (m : Mod) (k : Part) (x : Partition) : (m.setPart k x).ls = m.ls := rfl
@[simp] theorem setPart_hbm (m : Mod) (k : Part) (x : Partition) : (m.setPart k x).hbm = m.hbm := rfl
@[simp] theorem setPart_hbmGood (m : Mod) (k : Part) (x : Partition) : (m.setPart k x).hbmGood = m.hbmGood := rfl
@[simp] theorem setPart_zeroing (m : Mod) (k : Part) (x : Partition) : (m.setPart k x).zeroing = m.zeroing := rfl
@[simp] theorem setPart_lineErrs (m : Mod) (k : Part) (x : Partition) : (m.setPart k x).lineErrs = m.lineErrs := rfl
@[simp] theorem setPart_rewrites (m : Mod) (k : Part) (x : Partition) : (m.setPart k x).rewrites = m.rewrites := rfl
@[simp] theorem setPart_hbmCal (m : Mod) (k : Part) (x : Partition) : (m.setPart k x).hbmCal = m.hbmCal := rfl
@[simp] theorem setPart_scrubPass (m : Mod) (k : Part) (x : Partition) : (m.setPart k x).scrubPass = m.scrubPass := rfl
@[simp] theorem setPart_scrubbed (m : Mod) (k : Part) (x : Partition) : (m.setPart k x).scrubbed = m.scrubbed := rfl
@[simp] theorem setPart_secondSlot (m : Mod) (k : Part) (x : Partition) : (m.setPart k x).secondSlot = m.secondSlot := rfl
@[simp] theorem setPart_cxl (m : Mod) (k : Part) (x : Partition) : (m.setPart k x).cxl = m.cxl := rfl
@[simp] theorem setPart_flashWorn (m : Mod) (k : Part) (x : Partition) : (m.setPart k x).flashWorn = m.flashWorn := rfl
@[simp] theorem setPart_ports (m : Mod) (k : Part) (x : Partition) : (m.setPart k x).ports = m.ports := rfl
@[simp] theorem setPart_funcs (m : Mod) (k : Part) (x : Partition) : (m.setPart k x).funcs = m.funcs := rfl
@[simp] theorem setPart_hostUp (m : Mod) (k : Part) (x : Partition) : (m.setPart k x).hostUp = m.hostUp := rfl
@[simp] theorem setPart_ringsLost (m : Mod) (k : Part) (x : Partition) : (m.setPart k x).ringsLost = m.ringsLost := rfl
@[simp] theorem setPart_hostMem (m : Mod) (k : Part) (x : Partition) : (m.setPart k x).hostMem = m.hostMem := rfl
@[simp] theorem setPart_hostBad (m : Mod) (k : Part) (x : Partition) : (m.setPart k x).hostBad = m.hostBad := rfl
@[simp] theorem setPart_free (m : Mod) (k : Part) (x : Partition) : (m.setPart k x).free = m.free := rfl

@[simp] theorem setTile_wall (m : Mod) (k : TileId) (x : Tile) : (m.setTile k x).wall = m.wall := rfl
@[simp] theorem setTile_aonAt (m : Mod) (k : TileId) (x : Tile) : (m.setTile k x).aonAt = m.aonAt := rfl
@[simp] theorem setTile_stepping (m : Mod) (k : TileId) (x : Tile) : (m.setTile k x).stepping = m.stepping := rfl
@[simp] theorem setTile_option (m : Mod) (k : TileId) (x : Tile) : (m.setTile k x).option = m.option := rfl
@[simp] theorem setTile_cal (m : Mod) (k : TileId) (x : Tile) : (m.setTile k x).cal = m.cal := rfl
@[simp] theorem setTile_regs (m : Mod) (k : TileId) (x : Tile) : (m.setTile k x).regs = m.regs := rfl
@[simp] theorem setTile_parts (m : Mod) (k : TileId) (x : Tile) : (m.setTile k x).parts = m.parts := rfl
@[simp] theorem setTile_tileMap (m : Mod) (k : TileId) (x : Tile) : (m.setTile k x).tileMap = m.tileMap := rfl
@[simp] theorem setTile_epochs (m : Mod) (k : TileId) (x : Tile) : (m.setTile k x).epochs = m.epochs := rfl
@[simp] theorem setTile_ls (m : Mod) (k : TileId) (x : Tile) : (m.setTile k x).ls = m.ls := rfl
@[simp] theorem setTile_hbm (m : Mod) (k : TileId) (x : Tile) : (m.setTile k x).hbm = m.hbm := rfl
@[simp] theorem setTile_hbmGood (m : Mod) (k : TileId) (x : Tile) : (m.setTile k x).hbmGood = m.hbmGood := rfl
@[simp] theorem setTile_zeroing (m : Mod) (k : TileId) (x : Tile) : (m.setTile k x).zeroing = m.zeroing := rfl
@[simp] theorem setTile_lineErrs (m : Mod) (k : TileId) (x : Tile) : (m.setTile k x).lineErrs = m.lineErrs := rfl
@[simp] theorem setTile_rewrites (m : Mod) (k : TileId) (x : Tile) : (m.setTile k x).rewrites = m.rewrites := rfl
@[simp] theorem setTile_hbmCal (m : Mod) (k : TileId) (x : Tile) : (m.setTile k x).hbmCal = m.hbmCal := rfl
@[simp] theorem setTile_scrubPass (m : Mod) (k : TileId) (x : Tile) : (m.setTile k x).scrubPass = m.scrubPass := rfl
@[simp] theorem setTile_scrubbed (m : Mod) (k : TileId) (x : Tile) : (m.setTile k x).scrubbed = m.scrubbed := rfl
@[simp] theorem setTile_secondSlot (m : Mod) (k : TileId) (x : Tile) : (m.setTile k x).secondSlot = m.secondSlot := rfl
@[simp] theorem setTile_cxl (m : Mod) (k : TileId) (x : Tile) : (m.setTile k x).cxl = m.cxl := rfl
@[simp] theorem setTile_flashWorn (m : Mod) (k : TileId) (x : Tile) : (m.setTile k x).flashWorn = m.flashWorn := rfl
@[simp] theorem setTile_ports (m : Mod) (k : TileId) (x : Tile) : (m.setTile k x).ports = m.ports := rfl
@[simp] theorem setTile_funcs (m : Mod) (k : TileId) (x : Tile) : (m.setTile k x).funcs = m.funcs := rfl
@[simp] theorem setTile_hostUp (m : Mod) (k : TileId) (x : Tile) : (m.setTile k x).hostUp = m.hostUp := rfl
@[simp] theorem setTile_ringsLost (m : Mod) (k : TileId) (x : Tile) : (m.setTile k x).ringsLost = m.ringsLost := rfl
@[simp] theorem setTile_hostMem (m : Mod) (k : TileId) (x : Tile) : (m.setTile k x).hostMem = m.hostMem := rfl
@[simp] theorem setTile_hostBad (m : Mod) (k : TileId) (x : Tile) : (m.setTile k x).hostBad = m.hostBad := rfl
@[simp] theorem setTile_free (m : Mod) (k : TileId) (x : Tile) : (m.setTile k x).free = m.free := rfl

@[simp] theorem setPort_wall (m : Mod) (k : PortId) (x : Port) : (m.setPort k x).wall = m.wall := rfl
@[simp] theorem setPort_aonAt (m : Mod) (k : PortId) (x : Port) : (m.setPort k x).aonAt = m.aonAt := rfl
@[simp] theorem setPort_stepping (m : Mod) (k : PortId) (x : Port) : (m.setPort k x).stepping = m.stepping := rfl
@[simp] theorem setPort_option (m : Mod) (k : PortId) (x : Port) : (m.setPort k x).option = m.option := rfl
@[simp] theorem setPort_cal (m : Mod) (k : PortId) (x : Port) : (m.setPort k x).cal = m.cal := rfl
@[simp] theorem setPort_regs (m : Mod) (k : PortId) (x : Port) : (m.setPort k x).regs = m.regs := rfl
@[simp] theorem setPort_parts (m : Mod) (k : PortId) (x : Port) : (m.setPort k x).parts = m.parts := rfl
@[simp] theorem setPort_tiles (m : Mod) (k : PortId) (x : Port) : (m.setPort k x).tiles = m.tiles := rfl
@[simp] theorem setPort_tileMap (m : Mod) (k : PortId) (x : Port) : (m.setPort k x).tileMap = m.tileMap := rfl
@[simp] theorem setPort_epochs (m : Mod) (k : PortId) (x : Port) : (m.setPort k x).epochs = m.epochs := rfl
@[simp] theorem setPort_ls (m : Mod) (k : PortId) (x : Port) : (m.setPort k x).ls = m.ls := rfl
@[simp] theorem setPort_hbm (m : Mod) (k : PortId) (x : Port) : (m.setPort k x).hbm = m.hbm := rfl
@[simp] theorem setPort_hbmGood (m : Mod) (k : PortId) (x : Port) : (m.setPort k x).hbmGood = m.hbmGood := rfl
@[simp] theorem setPort_zeroing (m : Mod) (k : PortId) (x : Port) : (m.setPort k x).zeroing = m.zeroing := rfl
@[simp] theorem setPort_lineErrs (m : Mod) (k : PortId) (x : Port) : (m.setPort k x).lineErrs = m.lineErrs := rfl
@[simp] theorem setPort_rewrites (m : Mod) (k : PortId) (x : Port) : (m.setPort k x).rewrites = m.rewrites := rfl
@[simp] theorem setPort_hbmCal (m : Mod) (k : PortId) (x : Port) : (m.setPort k x).hbmCal = m.hbmCal := rfl
@[simp] theorem setPort_scrubPass (m : Mod) (k : PortId) (x : Port) : (m.setPort k x).scrubPass = m.scrubPass := rfl
@[simp] theorem setPort_scrubbed (m : Mod) (k : PortId) (x : Port) : (m.setPort k x).scrubbed = m.scrubbed := rfl
@[simp] theorem setPort_secondSlot (m : Mod) (k : PortId) (x : Port) : (m.setPort k x).secondSlot = m.secondSlot := rfl
@[simp] theorem setPort_cxl (m : Mod) (k : PortId) (x : Port) : (m.setPort k x).cxl = m.cxl := rfl
@[simp] theorem setPort_flashWorn (m : Mod) (k : PortId) (x : Port) : (m.setPort k x).flashWorn = m.flashWorn := rfl
@[simp] theorem setPort_funcs (m : Mod) (k : PortId) (x : Port) : (m.setPort k x).funcs = m.funcs := rfl
@[simp] theorem setPort_hostUp (m : Mod) (k : PortId) (x : Port) : (m.setPort k x).hostUp = m.hostUp := rfl
@[simp] theorem setPort_ringsLost (m : Mod) (k : PortId) (x : Port) : (m.setPort k x).ringsLost = m.ringsLost := rfl
@[simp] theorem setPort_hostMem (m : Mod) (k : PortId) (x : Port) : (m.setPort k x).hostMem = m.hostMem := rfl
@[simp] theorem setPort_hostBad (m : Mod) (k : PortId) (x : Port) : (m.setPort k x).hostBad = m.hostBad := rfl
@[simp] theorem setPort_free (m : Mod) (k : PortId) (x : Port) : (m.setPort k x).free = m.free := rfl

@[simp] theorem setFunc_wall (m : Mod) (k : Fn) (x : Func) : (m.setFunc k x).wall = m.wall := rfl
@[simp] theorem setFunc_aonAt (m : Mod) (k : Fn) (x : Func) : (m.setFunc k x).aonAt = m.aonAt := rfl
@[simp] theorem setFunc_stepping (m : Mod) (k : Fn) (x : Func) : (m.setFunc k x).stepping = m.stepping := rfl
@[simp] theorem setFunc_option (m : Mod) (k : Fn) (x : Func) : (m.setFunc k x).option = m.option := rfl
@[simp] theorem setFunc_cal (m : Mod) (k : Fn) (x : Func) : (m.setFunc k x).cal = m.cal := rfl
@[simp] theorem setFunc_regs (m : Mod) (k : Fn) (x : Func) : (m.setFunc k x).regs = m.regs := rfl
@[simp] theorem setFunc_parts (m : Mod) (k : Fn) (x : Func) : (m.setFunc k x).parts = m.parts := rfl
@[simp] theorem setFunc_tiles (m : Mod) (k : Fn) (x : Func) : (m.setFunc k x).tiles = m.tiles := rfl
@[simp] theorem setFunc_tileMap (m : Mod) (k : Fn) (x : Func) : (m.setFunc k x).tileMap = m.tileMap := rfl
@[simp] theorem setFunc_epochs (m : Mod) (k : Fn) (x : Func) : (m.setFunc k x).epochs = m.epochs := rfl
@[simp] theorem setFunc_ls (m : Mod) (k : Fn) (x : Func) : (m.setFunc k x).ls = m.ls := rfl
@[simp] theorem setFunc_hbm (m : Mod) (k : Fn) (x : Func) : (m.setFunc k x).hbm = m.hbm := rfl
@[simp] theorem setFunc_hbmGood (m : Mod) (k : Fn) (x : Func) : (m.setFunc k x).hbmGood = m.hbmGood := rfl
@[simp] theorem setFunc_zeroing (m : Mod) (k : Fn) (x : Func) : (m.setFunc k x).zeroing = m.zeroing := rfl
@[simp] theorem setFunc_lineErrs (m : Mod) (k : Fn) (x : Func) : (m.setFunc k x).lineErrs = m.lineErrs := rfl
@[simp] theorem setFunc_rewrites (m : Mod) (k : Fn) (x : Func) : (m.setFunc k x).rewrites = m.rewrites := rfl
@[simp] theorem setFunc_hbmCal (m : Mod) (k : Fn) (x : Func) : (m.setFunc k x).hbmCal = m.hbmCal := rfl
@[simp] theorem setFunc_scrubPass (m : Mod) (k : Fn) (x : Func) : (m.setFunc k x).scrubPass = m.scrubPass := rfl
@[simp] theorem setFunc_scrubbed (m : Mod) (k : Fn) (x : Func) : (m.setFunc k x).scrubbed = m.scrubbed := rfl
@[simp] theorem setFunc_secondSlot (m : Mod) (k : Fn) (x : Func) : (m.setFunc k x).secondSlot = m.secondSlot := rfl
@[simp] theorem setFunc_cxl (m : Mod) (k : Fn) (x : Func) : (m.setFunc k x).cxl = m.cxl := rfl
@[simp] theorem setFunc_flashWorn (m : Mod) (k : Fn) (x : Func) : (m.setFunc k x).flashWorn = m.flashWorn := rfl
@[simp] theorem setFunc_ports (m : Mod) (k : Fn) (x : Func) : (m.setFunc k x).ports = m.ports := rfl
@[simp] theorem setFunc_hostUp (m : Mod) (k : Fn) (x : Func) : (m.setFunc k x).hostUp = m.hostUp := rfl
@[simp] theorem setFunc_ringsLost (m : Mod) (k : Fn) (x : Func) : (m.setFunc k x).ringsLost = m.ringsLost := rfl
@[simp] theorem setFunc_hostMem (m : Mod) (k : Fn) (x : Func) : (m.setFunc k x).hostMem = m.hostMem := rfl
@[simp] theorem setFunc_hostBad (m : Mod) (k : Fn) (x : Func) : (m.setFunc k x).hostBad = m.hostBad := rfl
@[simp] theorem setFunc_free (m : Mod) (k : Fn) (x : Func) : (m.setFunc k x).free = m.free := rfl

/-! ### Replacement by a function -/

@[simp] theorem updPart_wall (m : Mod) (k : Part) (g : Partition → Partition) : (m.updPart k g).wall = m.wall := rfl
@[simp] theorem updPart_aonAt (m : Mod) (k : Part) (g : Partition → Partition) : (m.updPart k g).aonAt = m.aonAt := rfl
@[simp] theorem updPart_stepping (m : Mod) (k : Part) (g : Partition → Partition) : (m.updPart k g).stepping = m.stepping := rfl
@[simp] theorem updPart_option (m : Mod) (k : Part) (g : Partition → Partition) : (m.updPart k g).option = m.option := rfl
@[simp] theorem updPart_cal (m : Mod) (k : Part) (g : Partition → Partition) : (m.updPart k g).cal = m.cal := rfl
@[simp] theorem updPart_regs (m : Mod) (k : Part) (g : Partition → Partition) : (m.updPart k g).regs = m.regs := rfl
@[simp] theorem updPart_tiles (m : Mod) (k : Part) (g : Partition → Partition) : (m.updPart k g).tiles = m.tiles := rfl
@[simp] theorem updPart_tileMap (m : Mod) (k : Part) (g : Partition → Partition) : (m.updPart k g).tileMap = m.tileMap := rfl
@[simp] theorem updPart_epochs (m : Mod) (k : Part) (g : Partition → Partition) : (m.updPart k g).epochs = m.epochs := rfl
@[simp] theorem updPart_ls (m : Mod) (k : Part) (g : Partition → Partition) : (m.updPart k g).ls = m.ls := rfl
@[simp] theorem updPart_hbm (m : Mod) (k : Part) (g : Partition → Partition) : (m.updPart k g).hbm = m.hbm := rfl
@[simp] theorem updPart_hbmGood (m : Mod) (k : Part) (g : Partition → Partition) : (m.updPart k g).hbmGood = m.hbmGood := rfl
@[simp] theorem updPart_zeroing (m : Mod) (k : Part) (g : Partition → Partition) : (m.updPart k g).zeroing = m.zeroing := rfl
@[simp] theorem updPart_lineErrs (m : Mod) (k : Part) (g : Partition → Partition) : (m.updPart k g).lineErrs = m.lineErrs := rfl
@[simp] theorem updPart_rewrites (m : Mod) (k : Part) (g : Partition → Partition) : (m.updPart k g).rewrites = m.rewrites := rfl
@[simp] theorem updPart_hbmCal (m : Mod) (k : Part) (g : Partition → Partition) : (m.updPart k g).hbmCal = m.hbmCal := rfl
@[simp] theorem updPart_scrubPass (m : Mod) (k : Part) (g : Partition → Partition) : (m.updPart k g).scrubPass = m.scrubPass := rfl
@[simp] theorem updPart_scrubbed (m : Mod) (k : Part) (g : Partition → Partition) : (m.updPart k g).scrubbed = m.scrubbed := rfl
@[simp] theorem updPart_secondSlot (m : Mod) (k : Part) (g : Partition → Partition) : (m.updPart k g).secondSlot = m.secondSlot := rfl
@[simp] theorem updPart_cxl (m : Mod) (k : Part) (g : Partition → Partition) : (m.updPart k g).cxl = m.cxl := rfl
@[simp] theorem updPart_flashWorn (m : Mod) (k : Part) (g : Partition → Partition) : (m.updPart k g).flashWorn = m.flashWorn := rfl
@[simp] theorem updPart_ports (m : Mod) (k : Part) (g : Partition → Partition) : (m.updPart k g).ports = m.ports := rfl
@[simp] theorem updPart_funcs (m : Mod) (k : Part) (g : Partition → Partition) : (m.updPart k g).funcs = m.funcs := rfl
@[simp] theorem updPart_hostUp (m : Mod) (k : Part) (g : Partition → Partition) : (m.updPart k g).hostUp = m.hostUp := rfl
@[simp] theorem updPart_ringsLost (m : Mod) (k : Part) (g : Partition → Partition) : (m.updPart k g).ringsLost = m.ringsLost := rfl
@[simp] theorem updPart_hostMem (m : Mod) (k : Part) (g : Partition → Partition) : (m.updPart k g).hostMem = m.hostMem := rfl
@[simp] theorem updPart_hostBad (m : Mod) (k : Part) (g : Partition → Partition) : (m.updPart k g).hostBad = m.hostBad := rfl
@[simp] theorem updPart_free (m : Mod) (k : Part) (g : Partition → Partition) : (m.updPart k g).free = m.free := rfl

@[simp] theorem updTile_wall (m : Mod) (k : TileId) (g : Tile → Tile) : (m.updTile k g).wall = m.wall := rfl
@[simp] theorem updTile_aonAt (m : Mod) (k : TileId) (g : Tile → Tile) : (m.updTile k g).aonAt = m.aonAt := rfl
@[simp] theorem updTile_stepping (m : Mod) (k : TileId) (g : Tile → Tile) : (m.updTile k g).stepping = m.stepping := rfl
@[simp] theorem updTile_option (m : Mod) (k : TileId) (g : Tile → Tile) : (m.updTile k g).option = m.option := rfl
@[simp] theorem updTile_cal (m : Mod) (k : TileId) (g : Tile → Tile) : (m.updTile k g).cal = m.cal := rfl
@[simp] theorem updTile_regs (m : Mod) (k : TileId) (g : Tile → Tile) : (m.updTile k g).regs = m.regs := rfl
@[simp] theorem updTile_parts (m : Mod) (k : TileId) (g : Tile → Tile) : (m.updTile k g).parts = m.parts := rfl
@[simp] theorem updTile_tileMap (m : Mod) (k : TileId) (g : Tile → Tile) : (m.updTile k g).tileMap = m.tileMap := rfl
@[simp] theorem updTile_epochs (m : Mod) (k : TileId) (g : Tile → Tile) : (m.updTile k g).epochs = m.epochs := rfl
@[simp] theorem updTile_ls (m : Mod) (k : TileId) (g : Tile → Tile) : (m.updTile k g).ls = m.ls := rfl
@[simp] theorem updTile_hbm (m : Mod) (k : TileId) (g : Tile → Tile) : (m.updTile k g).hbm = m.hbm := rfl
@[simp] theorem updTile_hbmGood (m : Mod) (k : TileId) (g : Tile → Tile) : (m.updTile k g).hbmGood = m.hbmGood := rfl
@[simp] theorem updTile_zeroing (m : Mod) (k : TileId) (g : Tile → Tile) : (m.updTile k g).zeroing = m.zeroing := rfl
@[simp] theorem updTile_lineErrs (m : Mod) (k : TileId) (g : Tile → Tile) : (m.updTile k g).lineErrs = m.lineErrs := rfl
@[simp] theorem updTile_rewrites (m : Mod) (k : TileId) (g : Tile → Tile) : (m.updTile k g).rewrites = m.rewrites := rfl
@[simp] theorem updTile_hbmCal (m : Mod) (k : TileId) (g : Tile → Tile) : (m.updTile k g).hbmCal = m.hbmCal := rfl
@[simp] theorem updTile_scrubPass (m : Mod) (k : TileId) (g : Tile → Tile) : (m.updTile k g).scrubPass = m.scrubPass := rfl
@[simp] theorem updTile_scrubbed (m : Mod) (k : TileId) (g : Tile → Tile) : (m.updTile k g).scrubbed = m.scrubbed := rfl
@[simp] theorem updTile_secondSlot (m : Mod) (k : TileId) (g : Tile → Tile) : (m.updTile k g).secondSlot = m.secondSlot := rfl
@[simp] theorem updTile_cxl (m : Mod) (k : TileId) (g : Tile → Tile) : (m.updTile k g).cxl = m.cxl := rfl
@[simp] theorem updTile_flashWorn (m : Mod) (k : TileId) (g : Tile → Tile) : (m.updTile k g).flashWorn = m.flashWorn := rfl
@[simp] theorem updTile_ports (m : Mod) (k : TileId) (g : Tile → Tile) : (m.updTile k g).ports = m.ports := rfl
@[simp] theorem updTile_funcs (m : Mod) (k : TileId) (g : Tile → Tile) : (m.updTile k g).funcs = m.funcs := rfl
@[simp] theorem updTile_hostUp (m : Mod) (k : TileId) (g : Tile → Tile) : (m.updTile k g).hostUp = m.hostUp := rfl
@[simp] theorem updTile_ringsLost (m : Mod) (k : TileId) (g : Tile → Tile) : (m.updTile k g).ringsLost = m.ringsLost := rfl
@[simp] theorem updTile_hostMem (m : Mod) (k : TileId) (g : Tile → Tile) : (m.updTile k g).hostMem = m.hostMem := rfl
@[simp] theorem updTile_hostBad (m : Mod) (k : TileId) (g : Tile → Tile) : (m.updTile k g).hostBad = m.hostBad := rfl
@[simp] theorem updTile_free (m : Mod) (k : TileId) (g : Tile → Tile) : (m.updTile k g).free = m.free := rfl

@[simp] theorem updPort_wall (m : Mod) (k : PortId) (g : Port → Port) : (m.updPort k g).wall = m.wall := rfl
@[simp] theorem updPort_aonAt (m : Mod) (k : PortId) (g : Port → Port) : (m.updPort k g).aonAt = m.aonAt := rfl
@[simp] theorem updPort_stepping (m : Mod) (k : PortId) (g : Port → Port) : (m.updPort k g).stepping = m.stepping := rfl
@[simp] theorem updPort_option (m : Mod) (k : PortId) (g : Port → Port) : (m.updPort k g).option = m.option := rfl
@[simp] theorem updPort_cal (m : Mod) (k : PortId) (g : Port → Port) : (m.updPort k g).cal = m.cal := rfl
@[simp] theorem updPort_regs (m : Mod) (k : PortId) (g : Port → Port) : (m.updPort k g).regs = m.regs := rfl
@[simp] theorem updPort_parts (m : Mod) (k : PortId) (g : Port → Port) : (m.updPort k g).parts = m.parts := rfl
@[simp] theorem updPort_tiles (m : Mod) (k : PortId) (g : Port → Port) : (m.updPort k g).tiles = m.tiles := rfl
@[simp] theorem updPort_tileMap (m : Mod) (k : PortId) (g : Port → Port) : (m.updPort k g).tileMap = m.tileMap := rfl
@[simp] theorem updPort_epochs (m : Mod) (k : PortId) (g : Port → Port) : (m.updPort k g).epochs = m.epochs := rfl
@[simp] theorem updPort_ls (m : Mod) (k : PortId) (g : Port → Port) : (m.updPort k g).ls = m.ls := rfl
@[simp] theorem updPort_hbm (m : Mod) (k : PortId) (g : Port → Port) : (m.updPort k g).hbm = m.hbm := rfl
@[simp] theorem updPort_hbmGood (m : Mod) (k : PortId) (g : Port → Port) : (m.updPort k g).hbmGood = m.hbmGood := rfl
@[simp] theorem updPort_zeroing (m : Mod) (k : PortId) (g : Port → Port) : (m.updPort k g).zeroing = m.zeroing := rfl
@[simp] theorem updPort_lineErrs (m : Mod) (k : PortId) (g : Port → Port) : (m.updPort k g).lineErrs = m.lineErrs := rfl
@[simp] theorem updPort_rewrites (m : Mod) (k : PortId) (g : Port → Port) : (m.updPort k g).rewrites = m.rewrites := rfl
@[simp] theorem updPort_hbmCal (m : Mod) (k : PortId) (g : Port → Port) : (m.updPort k g).hbmCal = m.hbmCal := rfl
@[simp] theorem updPort_scrubPass (m : Mod) (k : PortId) (g : Port → Port) : (m.updPort k g).scrubPass = m.scrubPass := rfl
@[simp] theorem updPort_scrubbed (m : Mod) (k : PortId) (g : Port → Port) : (m.updPort k g).scrubbed = m.scrubbed := rfl
@[simp] theorem updPort_secondSlot (m : Mod) (k : PortId) (g : Port → Port) : (m.updPort k g).secondSlot = m.secondSlot := rfl
@[simp] theorem updPort_cxl (m : Mod) (k : PortId) (g : Port → Port) : (m.updPort k g).cxl = m.cxl := rfl
@[simp] theorem updPort_flashWorn (m : Mod) (k : PortId) (g : Port → Port) : (m.updPort k g).flashWorn = m.flashWorn := rfl
@[simp] theorem updPort_funcs (m : Mod) (k : PortId) (g : Port → Port) : (m.updPort k g).funcs = m.funcs := rfl
@[simp] theorem updPort_hostUp (m : Mod) (k : PortId) (g : Port → Port) : (m.updPort k g).hostUp = m.hostUp := rfl
@[simp] theorem updPort_ringsLost (m : Mod) (k : PortId) (g : Port → Port) : (m.updPort k g).ringsLost = m.ringsLost := rfl
@[simp] theorem updPort_hostMem (m : Mod) (k : PortId) (g : Port → Port) : (m.updPort k g).hostMem = m.hostMem := rfl
@[simp] theorem updPort_hostBad (m : Mod) (k : PortId) (g : Port → Port) : (m.updPort k g).hostBad = m.hostBad := rfl
@[simp] theorem updPort_free (m : Mod) (k : PortId) (g : Port → Port) : (m.updPort k g).free = m.free := rfl

@[simp] theorem updFunc_wall (m : Mod) (k : Fn) (g : Func → Func) : (m.updFunc k g).wall = m.wall := rfl
@[simp] theorem updFunc_aonAt (m : Mod) (k : Fn) (g : Func → Func) : (m.updFunc k g).aonAt = m.aonAt := rfl
@[simp] theorem updFunc_stepping (m : Mod) (k : Fn) (g : Func → Func) : (m.updFunc k g).stepping = m.stepping := rfl
@[simp] theorem updFunc_option (m : Mod) (k : Fn) (g : Func → Func) : (m.updFunc k g).option = m.option := rfl
@[simp] theorem updFunc_cal (m : Mod) (k : Fn) (g : Func → Func) : (m.updFunc k g).cal = m.cal := rfl
@[simp] theorem updFunc_regs (m : Mod) (k : Fn) (g : Func → Func) : (m.updFunc k g).regs = m.regs := rfl
@[simp] theorem updFunc_parts (m : Mod) (k : Fn) (g : Func → Func) : (m.updFunc k g).parts = m.parts := rfl
@[simp] theorem updFunc_tiles (m : Mod) (k : Fn) (g : Func → Func) : (m.updFunc k g).tiles = m.tiles := rfl
@[simp] theorem updFunc_tileMap (m : Mod) (k : Fn) (g : Func → Func) : (m.updFunc k g).tileMap = m.tileMap := rfl
@[simp] theorem updFunc_epochs (m : Mod) (k : Fn) (g : Func → Func) : (m.updFunc k g).epochs = m.epochs := rfl
@[simp] theorem updFunc_ls (m : Mod) (k : Fn) (g : Func → Func) : (m.updFunc k g).ls = m.ls := rfl
@[simp] theorem updFunc_hbm (m : Mod) (k : Fn) (g : Func → Func) : (m.updFunc k g).hbm = m.hbm := rfl
@[simp] theorem updFunc_hbmGood (m : Mod) (k : Fn) (g : Func → Func) : (m.updFunc k g).hbmGood = m.hbmGood := rfl
@[simp] theorem updFunc_zeroing (m : Mod) (k : Fn) (g : Func → Func) : (m.updFunc k g).zeroing = m.zeroing := rfl
@[simp] theorem updFunc_lineErrs (m : Mod) (k : Fn) (g : Func → Func) : (m.updFunc k g).lineErrs = m.lineErrs := rfl
@[simp] theorem updFunc_rewrites (m : Mod) (k : Fn) (g : Func → Func) : (m.updFunc k g).rewrites = m.rewrites := rfl
@[simp] theorem updFunc_hbmCal (m : Mod) (k : Fn) (g : Func → Func) : (m.updFunc k g).hbmCal = m.hbmCal := rfl
@[simp] theorem updFunc_scrubPass (m : Mod) (k : Fn) (g : Func → Func) : (m.updFunc k g).scrubPass = m.scrubPass := rfl
@[simp] theorem updFunc_scrubbed (m : Mod) (k : Fn) (g : Func → Func) : (m.updFunc k g).scrubbed = m.scrubbed := rfl
@[simp] theorem updFunc_secondSlot (m : Mod) (k : Fn) (g : Func → Func) : (m.updFunc k g).secondSlot = m.secondSlot := rfl
@[simp] theorem updFunc_cxl (m : Mod) (k : Fn) (g : Func → Func) : (m.updFunc k g).cxl = m.cxl := rfl
@[simp] theorem updFunc_flashWorn (m : Mod) (k : Fn) (g : Func → Func) : (m.updFunc k g).flashWorn = m.flashWorn := rfl
@[simp] theorem updFunc_ports (m : Mod) (k : Fn) (g : Func → Func) : (m.updFunc k g).ports = m.ports := rfl
@[simp] theorem updFunc_hostUp (m : Mod) (k : Fn) (g : Func → Func) : (m.updFunc k g).hostUp = m.hostUp := rfl
@[simp] theorem updFunc_ringsLost (m : Mod) (k : Fn) (g : Func → Func) : (m.updFunc k g).ringsLost = m.ringsLost := rfl
@[simp] theorem updFunc_hostMem (m : Mod) (k : Fn) (g : Func → Func) : (m.updFunc k g).hostMem = m.hostMem := rfl
@[simp] theorem updFunc_hostBad (m : Mod) (k : Fn) (g : Func → Func) : (m.updFunc k g).hostBad = m.hostBad := rfl
@[simp] theorem updFunc_free (m : Mod) (k : Fn) (g : Func → Func) : (m.updFunc k g).free = m.free := rfl

/-! ### Reading what was replaced -/

@[simp] theorem part_setPart (m : Mod) (k : Part) (x : Partition) : (m.setPart k x).part k = x := by
  simp only [Mod.part, Mod.setPart, Vector.get, Vector.set]
  exact Array.getElem_set_self _

theorem part_setPart_ne (m : Mod) (k j : Part) (x : Partition) (h : j ≠ k) : (m.setPart k x).part j = m.part j := by
  simp only [Mod.part, Mod.setPart, Vector.get, Vector.set]
  apply Array.getElem_set_ne
  simpa [Fin.ext_iff] using fun e => h (Fin.ext e.symm)

@[simp] theorem part_updPart (m : Mod) (k : Part) (g : Partition → Partition) : (m.updPart k g).part k = g (m.part k) := by
  simp [Mod.updPart]

theorem part_updPart_ne (m : Mod) (k j : Part) (g : Partition → Partition) (h : j ≠ k) : (m.updPart k g).part j = m.part j :=
  part_setPart_ne m k j _ h

@[simp] theorem part_setTile (m : Mod) (k : TileId) (x : Tile) : (m.setTile k x).part = m.part := rfl
@[simp] theorem part_updTile (m : Mod) (k : TileId) (g : Tile → Tile) : (m.updTile k g).part = m.part := rfl
@[simp] theorem part_setPort (m : Mod) (k : PortId) (x : Port) : (m.setPort k x).part = m.part := rfl
@[simp] theorem part_updPort (m : Mod) (k : PortId) (g : Port → Port) : (m.updPort k g).part = m.part := rfl
@[simp] theorem part_setFunc (m : Mod) (k : Fn) (x : Func) : (m.setFunc k x).part = m.part := rfl
@[simp] theorem part_updFunc (m : Mod) (k : Fn) (g : Func → Func) : (m.updFunc k g).part = m.part := rfl

@[simp] theorem tile_setTile (m : Mod) (k : TileId) (x : Tile) : (m.setTile k x).tile k = x := by
  simp only [Mod.tile, Mod.setTile, Vector.get, Vector.set]
  exact Array.getElem_set_self _

theorem tile_setTile_ne (m : Mod) (k j : TileId) (x : Tile) (h : j ≠ k) : (m.setTile k x).tile j = m.tile j := by
  simp only [Mod.tile, Mod.setTile, Vector.get, Vector.set]
  apply Array.getElem_set_ne
  simpa [Fin.ext_iff] using fun e => h (Fin.ext e.symm)

@[simp] theorem tile_updTile (m : Mod) (k : TileId) (g : Tile → Tile) : (m.updTile k g).tile k = g (m.tile k) := by
  simp [Mod.updTile]

theorem tile_updTile_ne (m : Mod) (k j : TileId) (g : Tile → Tile) (h : j ≠ k) : (m.updTile k g).tile j = m.tile j :=
  tile_setTile_ne m k j _ h

@[simp] theorem tile_setPart (m : Mod) (k : Part) (x : Partition) : (m.setPart k x).tile = m.tile := rfl
@[simp] theorem tile_updPart (m : Mod) (k : Part) (g : Partition → Partition) : (m.updPart k g).tile = m.tile := rfl
@[simp] theorem tile_setPort (m : Mod) (k : PortId) (x : Port) : (m.setPort k x).tile = m.tile := rfl
@[simp] theorem tile_updPort (m : Mod) (k : PortId) (g : Port → Port) : (m.updPort k g).tile = m.tile := rfl
@[simp] theorem tile_setFunc (m : Mod) (k : Fn) (x : Func) : (m.setFunc k x).tile = m.tile := rfl
@[simp] theorem tile_updFunc (m : Mod) (k : Fn) (g : Func → Func) : (m.updFunc k g).tile = m.tile := rfl

@[simp] theorem port_setPort (m : Mod) (k : PortId) (x : Port) : (m.setPort k x).port k = x := by
  simp only [Mod.port, Mod.setPort, Vector.get, Vector.set]
  exact Array.getElem_set_self _

theorem port_setPort_ne (m : Mod) (k j : PortId) (x : Port) (h : j ≠ k) : (m.setPort k x).port j = m.port j := by
  simp only [Mod.port, Mod.setPort, Vector.get, Vector.set]
  apply Array.getElem_set_ne
  simpa [Fin.ext_iff] using fun e => h (Fin.ext e.symm)

@[simp] theorem port_updPort (m : Mod) (k : PortId) (g : Port → Port) : (m.updPort k g).port k = g (m.port k) := by
  simp [Mod.updPort]

theorem port_updPort_ne (m : Mod) (k j : PortId) (g : Port → Port) (h : j ≠ k) : (m.updPort k g).port j = m.port j :=
  port_setPort_ne m k j _ h

@[simp] theorem port_setPart (m : Mod) (k : Part) (x : Partition) : (m.setPart k x).port = m.port := rfl
@[simp] theorem port_updPart (m : Mod) (k : Part) (g : Partition → Partition) : (m.updPart k g).port = m.port := rfl
@[simp] theorem port_setTile (m : Mod) (k : TileId) (x : Tile) : (m.setTile k x).port = m.port := rfl
@[simp] theorem port_updTile (m : Mod) (k : TileId) (g : Tile → Tile) : (m.updTile k g).port = m.port := rfl
@[simp] theorem port_setFunc (m : Mod) (k : Fn) (x : Func) : (m.setFunc k x).port = m.port := rfl
@[simp] theorem port_updFunc (m : Mod) (k : Fn) (g : Func → Func) : (m.updFunc k g).port = m.port := rfl

@[simp] theorem func_setFunc (m : Mod) (k : Fn) (x : Func) : (m.setFunc k x).func k = x := by
  simp only [Mod.func, Mod.setFunc, Vector.get, Vector.set]
  exact Array.getElem_set_self _

theorem func_setFunc_ne (m : Mod) (k j : Fn) (x : Func) (h : j ≠ k) : (m.setFunc k x).func j = m.func j := by
  simp only [Mod.func, Mod.setFunc, Vector.get, Vector.set]
  apply Array.getElem_set_ne
  simpa [Fin.ext_iff] using fun e => h (Fin.ext e.symm)

@[simp] theorem func_updFunc (m : Mod) (k : Fn) (g : Func → Func) : (m.updFunc k g).func k = g (m.func k) := by
  simp [Mod.updFunc]

theorem func_updFunc_ne (m : Mod) (k j : Fn) (g : Func → Func) (h : j ≠ k) : (m.updFunc k g).func j = m.func j :=
  func_setFunc_ne m k j _ h

@[simp] theorem func_setPart (m : Mod) (k : Part) (x : Partition) : (m.setPart k x).func = m.func := rfl
@[simp] theorem func_updPart (m : Mod) (k : Part) (g : Partition → Partition) : (m.updPart k g).func = m.func := rfl
@[simp] theorem func_setTile (m : Mod) (k : TileId) (x : Tile) : (m.setTile k x).func = m.func := rfl
@[simp] theorem func_updTile (m : Mod) (k : TileId) (g : Tile → Tile) : (m.updTile k g).func = m.func := rfl
@[simp] theorem func_setPort (m : Mod) (k : PortId) (x : Port) : (m.setPort k x).func = m.func := rfl
@[simp] theorem func_updPort (m : Mod) (k : PortId) (g : Port → Port) : (m.updPort k g).func = m.func := rfl

end Sys2Proof.Machine
end

