-- ==== Sys2Proof/Laws/Issue.lean ====
section
/-!
SUPPORT. What an issue can do: records, counts and events touch the partition's own logs alone, and a command whose
conditions hold leaves exactly one tile changed.
-/
namespace Sys2Proof.Machine

/-- Only partition p's records, the functions, the ports and the counts differ: tiles, memories and time stand. -/
structure Quiet (p : Part) (m m' : Mod) : Prop where
  tiles : m'.tiles = m.tiles
  ls : m'.ls = m.ls
  hbm : m'.hbm = m.hbm
  hostMem : m'.hostMem = m.hostMem
  wall : m'.wall = m.wall
  ctr : (m'.part p).ctr = (m.part p).ctr
  due : ∀ r ∈ (m.part p).dueFaults, r ∈ (m'.part p).dueFaults
  mask : (m'.part p).bayMask = (m.part p).bayMask
  others : ∀ q, q ≠ p → m'.part q = m.part q

theorem Quiet.refl (p : Part) (m : Mod) : Quiet p m m := ⟨rfl, rfl, rfl, rfl, rfl, rfl, fun _ h => h, rfl, fun _ _ => rfl⟩

theorem Quiet.trans {p : Part} {a b c : Mod} (h : Quiet p a b) (k : Quiet p b c) : Quiet p a c :=
  ⟨k.tiles.trans h.tiles, k.ls.trans h.ls, k.hbm.trans h.hbm, k.hostMem.trans h.hostMem, k.wall.trans h.wall,
    k.ctr.trans h.ctr, fun r hr => k.due r (h.due r hr), k.mask.trans h.mask, fun q hq => (k.others q hq).trans (h.others q hq)⟩

theorem Quiet.tile {p : Part} {a b : Mod} (h : Quiet p a b) (t : TileId) : b.tile t = a.tile t := by
  unfold Mod.tile; rw [h.tiles]

theorem quiet_foldl {α : Type} {p : Part} (f : Mod → α → Mod) (h : ∀ m a, Quiet p m (f m a)) (l : List α) (m : Mod) :
    Quiet p m (l.foldl f m) := by
  induction l generalizing m with
  | nil => exact .refl p m
  | cons a l ih => exact (h m a).trans (ih _)

theorem quiet_updPart (p : Part) (g : Partition → Partition) (m : Mod)
    
    (h : ∀ x, (g x).ctr = x.ctr ∧ (∀ r ∈ x.dueFaults, r ∈ (g x).dueFaults) ∧ (g x).bayMask = x.bayMask) : Quiet p m (m.updPart p g) :=
  ⟨rfl, rfl, rfl, rfl, rfl, by simp [h], by intro r hr; rw [part_updPart]; exact (h _).2.1 r hr,
    by simp [h], fun q hq => part_updPart_ne m p q g hq⟩

theorem quiet_updFunc (p : Part) (f : Fn) (g : Func → Func) (m : Mod) : Quiet p m (m.updFunc f g) :=
  ⟨rfl, rfl, rfl, rfl, rfl, rfl, fun _ h => h, rfl, fun _ _ => rfl⟩

theorem quiet_updPort (p : Part) (q : PortId) (g : Port → Port) (m : Mod) : Quiet p m (m.updPort q g) :=
  ⟨rfl, rfl, rfl, rfl, rfl, rfl, fun _ h => h, rfl, fun _ _ => rfl⟩

theorem raise_quiet (p : Part) (c code cause : Nat) (a b : Option Loc) (o : Nat) (m : Mod) :
    Quiet p m (raise p c code cause a b o m) := by
  unfold raise; dsimp only
  apply quiet_updPart
  exact fun x => ⟨rfl, fun r h => List.mem_append_left _ h, rfl⟩

theorem postEvent_quiet (p : Part) (f : Fn) (bit : Nat) (m : Mod) : Quiet p m (postEvent f bit m) := by
  unfold postEvent; exact quiet_updFunc p f _ m

theorem reportHazard_quiet (p : Part) (c kind : Nat) (a b : Loc) (o : Nat) (m : Mod) :
    Quiet p m (reportHazard p c kind a b o m) := by
  unfold reportHazard; dsimp only
  split
  · exact raise_quiet ..
  · refine Quiet.trans ?_ (postEvent_quiet ..)
    apply quiet_updPart; intro x; split <;> exact ⟨rfl, fun _ h => h, rfl⟩

theorem detect_quiet (d : OpDef) (c : Ctx) (e : Effect) (m : Mod) : Quiet c.p m (detect d c e m) := by
  unfold detect; split
  · exact .refl ..
  extract_lets m1 b m2
  have h1 : Quiet c.p m m1 := by
    unfold m1; split
    · exact .refl ..
    · exact quiet_foldl _ (fun m r => reportHazard_quiet ..) _ m
  have h2 : Quiet c.p m1 m2 := by
    unfold m2; split
    · exact quiet_foldl _ (fun m r => reportHazard_quiet ..) _ m1
    · exact .refl ..
  split
  · exact (h1.trans h2).trans (quiet_foldl _ (fun m r => reportHazard_quiet ..) _ m2)
  · exact h1.trans h2

theorem quiet_rewrites (p : Part) (l : List LineRef) (m : Mod) : Quiet p m { m with rewrites := l } :=
  ⟨rfl, rfl, rfl, rfl, rfl, rfl, fun _ h => h, rfl, fun _ _ => rfl⟩

theorem countCe_quiet (p : Part) (l : List (LineRef × Nat)) (m : Mod) : Quiet p m (countCe p l m) := by
  unfold countCe
  refine quiet_foldl _ (fun m e => ?_) l m
  extract_lets n
  have h : Quiet p m n := by apply quiet_updPart; exact fun x => ⟨rfl, fun _ h => h, rfl⟩
  split
  · exact h
  · exact h.trans (quiet_rewrites ..)

theorem advance_zero (m : Mod) : advance 0 m = m := by unfold advance; simp

theorem advanceTo_now (p : Part) (m : Mod) : advanceTo p (m.part p).ctr m = m := by
  unfold advanceTo; rw [Nat.sub_self]; exact advance_zero m

theorem reaches_now (x : Partition) : x.reaches x.ctr = true := by simp [Partition.reaches]

/-- A command whose conditions hold issues in the present cycle. -/
theorem issueCmd_now {d : OpDef} {p : Part} {t : TileId} {st : Stream} {s : State} (h : ComesNow d p t st s) :
    issueCmd d t st s.m = doIssue d p t st false s.m := by
  obtain ⟨h1, h2, h3, h4, h5, h6, h7, h8⟩ := h
  unfold nextWord nowOf at *
  have h4' : ¬ ((s.m.tile t).stream st).pc ≥ 4096 := by omega
  simp only [issueCmd, h1, h2, h3, h5, h6, h7, h4', issueFrom, h8, reaches_now, advanceTo_now]
  simp

theorem takeQueue_stream (x : Tile) (k n c : Nat) (r) (h : x.popQueue k n c = some r) (st : Stream) :
    r.2.2.stream st = x.stream st ∧ r.2.2.inflight = x.inflight ∧ r.2.2.nextId = x.nextId := by
  unfold Tile.popQueue at h
  split at h
  · cases h
  · cases h; cases st <;> exact ⟨rfl, rfl, rfl⟩

theorem pops_stream (x : Tile) (w : CmdWord) (c : Nat) (r) (h : x.pops w c = some r) (st : Stream) :
    r.2.2.2.stream st = x.stream st ∧ r.2.2.2.inflight = x.inflight ∧ r.2.2.2.nextId = x.nextId := by
  unfold Tile.pops at h
  split at h
  · cases h; exact ⟨rfl, rfl, rfl⟩
  · obtain ⟨q, hq, rfl⟩ := Option.map_eq_some_iff.1 h; exact takeQueue_stream x _ _ _ _ hq st
  · obtain ⟨q, hq, rfl⟩ := Option.map_eq_some_iff.1 h; exact takeQueue_stream x _ _ _ _ hq st
  · split at h
    · obtain ⟨q, hq, rfl⟩ := Option.map_eq_some_iff.1 h; exact takeQueue_stream x _ _ _ _ hq st
    · split at h
      · cases h
      · rename_i h1
        obtain ⟨q, hq, rfl⟩ := Option.map_eq_some_iff.1 h
        have a := takeQueue_stream x _ _ _ _ h1 st
        have b := takeQueue_stream _ _ _ _ _ hq st
        exact ⟨b.1.trans a.1, b.2.1.trans a.2.1, b.2.2.trans a.2.2⟩

theorem takeQueue_ventries (x : Tile) (k n c : Nat) (r) (h : x.popQueue k n c = some r) : r.2.2.ventries = x.ventries := by
  unfold Tile.popQueue at h
  split at h
  · cases h
  · cases h; rfl

theorem pops_ventries (x : Tile) (w : CmdWord) (c : Nat) (r) (h : x.pops w c = some r) : r.2.2.2.ventries = x.ventries := by
  unfold Tile.pops at h
  split at h
  · cases h; rfl
  · obtain ⟨q, hq, rfl⟩ := Option.map_eq_some_iff.1 h; exact takeQueue_ventries x _ _ _ _ hq
  · obtain ⟨q, hq, rfl⟩ := Option.map_eq_some_iff.1 h; exact takeQueue_ventries x _ _ _ _ hq
  · split at h
    · obtain ⟨q, hq, rfl⟩ := Option.map_eq_some_iff.1 h; exact takeQueue_ventries x _ _ _ _ hq
    · split at h
      · cases h
      · rename_i h1
        obtain ⟨q, hq, rfl⟩ := Option.map_eq_some_iff.1 h
        exact (takeQueue_ventries _ _ _ _ _ hq).trans (takeQueue_ventries x _ _ _ _ h1)

theorem le_maxL (d : Nat) (l : List Nat) : d ≤ maxL d l := by
  unfold maxL
  induction l generalizing d with
  | nil => exact Nat.le_refl _
  | cons a l ih => exact Nat.le_trans (Nat.le_max_left d a) (ih (max d a))

/-- A command whose conditions hold finds its queues' entries. -/
theorem pops_of_ready {d : OpDef} {x : Tile} {st : Stream} {w : CmdWord} {now : Nat}
    (h : readyAt d x st w now = .inl now) : ∃ r, x.pops w now = some r := by
  have key : maxL now ((x.stream st).nextIssue :: (d.units st w).map x.units.get) = now := by
    have lo := le_maxL now ((x.stream st).nextIssue :: (d.units st w).map x.units.get)
    unfold readyAt at h
    dsimp only at h
    repeat' (first | cases h | split at h)
    all_goals (injection h with h; omega)
  unfold readyAt at h
  dsimp only at h
  rw [key] at h
  cases hp : x.pops w now with
  | some r => exact ⟨r, rfl⟩
  | none => rw [hp] at h; cases h

theorem stream_setStream (x : Tile) (st : Stream) (v : StreamState) : (x.setStream st v).stream st = v := by
  cases st <;> rfl

theorem reserve_stream (x : Tile) (w : CmdWord) (st : Stream) :
    (reserve x w).1.stream st = x.stream st ∧ (reserve x w).1.inflight = x.inflight
      ∧ (reserve x w).2 = (cmdPush w).map (fun k => (k, x.nextId)) := by
  unfold reserve; split
  · exact ⟨rfl, rfl, by simp [*]⟩
  · exact ⟨by cases st <;> rfl, rfl, by simp [*]⟩

theorem binRace_quiet (c : Ctx) (bins : List Nat) (m : Mod) : Quiet c.p m (binRace c bins m) := by
  unfold binRace; split
  · exact .refl ..
  · refine quiet_foldl _ (fun m f => ?_) _ m
    split
    · split
      · exact raise_quiet ..
      · exact .refl ..
    · exact .refl ..

theorem issueFaults_quiet (c : Ctx) (e : Effect) (cell : Option Nat) (m : Mod) : Quiet c.p m (issueFaults c e cell m) := by
  unfold issueFaults
  extract_lets m1 m2
  have h1 : Quiet c.p m m1 := quiet_foldl _ (fun m f => raise_quiet ..) _ m
  have h2 : Quiet c.p m1 m2 := by
    unfold m2; split
    · exact raise_quiet ..
    · exact .refl ..
  split
  · exact (h1.trans h2).trans (raise_quiet ..)
  · exact h1.trans h2

/-- Outside its tile, a command that is no END and writes no tier page leaves all but ports and counts. -/
theorem issueOut_quiet (c : Ctx) (e : Effect) (m : Mod) (he : e.ended = false) (ht : e.tier = []) :
    Quiet c.p m (issueOut c e m) := by
  unfold issueOut
  simp only [ht, he, List.isEmpty_nil, if_true, Bool.false_eq_true, if_false]
  exact (quiet_foldl _ (fun m f => quiet_updPort ..) _ m).trans (countCe_quiet ..)

theorem countImem_quiet (c : Ctx) (dry : Bool) (m : Mod) : Quiet c.p m (countImem c dry m) := by
  unfold countImem; split
  · apply quiet_updPart; exact fun x => ⟨rfl, fun _ h => h, rfl⟩
  · exact .refl ..

/-- Partition p's records and one tile of it differ, and ports, functions, counts and the CXL tier: memories, time and the
other tiles and partitions stand. -/
structure AtTile (p : Part) (t : TileId) (m m' : Mod) : Prop where
  tiles : ∀ u, u ≠ t → m'.tile u = m.tile u
  ls : m'.ls = m.ls
  hbm : m'.hbm = m.hbm
  hostMem : m'.hostMem = m.hostMem
  wall : m'.wall = m.wall
  ctr : (m'.part p).ctr = (m.part p).ctr
  due : ∀ r ∈ (m.part p).dueFaults, r ∈ (m'.part p).dueFaults
  mask : (m'.part p).bayMask = (m.part p).bayMask
  others : ∀ q, q ≠ p → m'.part q = m.part q

theorem AtTile.refl (p : Part) (t : TileId) (m : Mod) : AtTile p t m m :=
  ⟨fun _ _ => rfl, rfl, rfl, rfl, rfl, rfl, fun _ h => h, rfl, fun _ _ => rfl⟩

theorem AtTile.trans {p : Part} {t : TileId} {a b c : Mod} (h : AtTile p t a b) (k : AtTile p t b c) : AtTile p t a c :=
  ⟨fun u hu => (k.tiles u hu).trans (h.tiles u hu), k.ls.trans h.ls, k.hbm.trans h.hbm, k.hostMem.trans h.hostMem,
    k.wall.trans h.wall, k.ctr.trans h.ctr, fun r hr => k.due r (h.due r hr),
    k.mask.trans h.mask, fun q hq => (k.others q hq).trans (h.others q hq)⟩

theorem Quiet.atTile {p : Part} {a b : Mod} (h : Quiet p a b) (t : TileId) : AtTile p t a b :=
  ⟨fun u _ => h.tile u, h.ls, h.hbm, h.hostMem, h.wall, h.ctr, h.due, h.mask, h.others⟩

theorem atTile_setTile (p : Part) (t : TileId) (x : Tile) (m : Mod) : AtTile p t m (m.setTile t x) :=
  ⟨fun u hu => tile_setTile_ne m t u x hu, rfl, rfl, rfl, rfl, rfl, fun _ h => h, rfl, fun _ _ => rfl⟩

theorem atTile_updTile (p : Part) (t : TileId) (g : Tile → Tile) (m : Mod) : AtTile p t m (m.updTile t g) :=
  atTile_setTile p t _ m

theorem atTile_foldl {α : Type} {p : Part} {t : TileId} (f : Mod → α → Mod) (h : ∀ m a, AtTile p t m (f m a)) (l : List α)
    (m : Mod) : AtTile p t m (l.foldl f m) := by
  induction l generalizing m with
  | nil => exact .refl p t m
  | cons a l ih => exact (h m a).trans (ih _)

theorem AtTile.frame {p : Part} {t : TileId} {s : State} {m : Mod} (h : AtTile p t s.m m) : TileFrame p t s { s with m := m } :=
  ⟨rfl, rfl, h.wall, h.ctr, h.tiles, h.others, h.ls, h.hbm, h.hostMem⟩

/-! ### The CXL tier is no tile -/

theorem quiet_cxl (p : Part) (c : Vector CxlDev 2) (m : Mod) : Quiet p m { m with cxl := c } :=
  ⟨rfl, rfl, rfl, rfl, rfl, rfl, fun _ h => h, rfl, fun _ _ => rfl⟩

theorem writePage_quiet (p : Part) (k : Nat) (q : Fin 2) (n : Nat) (bs : Bytes) (m : Mod) : Quiet p m (writePage p k q n bs m) := by
  unfold writePage; dsimp only
  split
  · exact .refl ..
  · apply Quiet.trans (quiet_cxl p _ m)
    apply quiet_updPart
    exact fun x => ⟨rfl, fun _ h => h, rfl⟩

theorem windowWrite_quiet (p : Part) (es : List (Nat × Nat × Nat)) (ws : List (Nat × Bytes)) (m : Mod) :
    Quiet p m (windowWrite p es ws m) := by
  unfold windowWrite
  refine quiet_foldl _ (fun m w => ?_) ws m
  split
  · exact writePage_quiet ..
  · exact .refl ..

theorem putBack_quiet (p : Part) (u : PageUndo) (m : Mod) : Quiet p m (putBack p m u) := by
  unfold putBack; dsimp only
  split
  · exact .refl ..
  · apply Quiet.trans (quiet_cxl p _ m)
    apply quiet_updPart
    intro x
    split <;> exact ⟨rfl, fun _ h => h, rfl⟩

theorem rewriteWindow_quiet (p : Part) (a b : VEntry) (m : Mod) : Quiet p m (rewriteWindow p a b m).1 := by
  have h := quiet_foldl (putBack p) (fun m u => putBack_quiet p u m) a.undo m
  unfold rewriteWindow discardWrite
  split
  · exact .refl ..
  · extract_lets es m1
    split
    · exact h
    · exact h.trans (windowWrite_quiet ..)

theorem patchSend_quiet (p : Part) (t : TileId) (i o : Inflight) (m : Mod) : Quiet p m (patchSend p t i m o) := by
  unfold patchSend
  split
  · exact .refl ..
  · dsimp only; split
    · exact .refl ..
    · exact quiet_updPort ..

/-- The writes of held V entries are made anew outside the tiles. -/
theorem rewrites_quiet (p : Part) (t : TileId) (i : Inflight) (m : Mod) (l : List VEntry) (a : Mod × List VEntry) :
    Quiet p a.1 (l.foldl (fun (a : Mod × List VEntry) v =>
      ((rewriteWindow p v (patchV m p t i v) a.1).1, a.2 ++ [(rewriteWindow p v (patchV m p t i v) a.1).2])) a).1 := by
  induction l generalizing a with
  | nil => exact .refl ..
  | cons v l ih => exact Quiet.trans (rewriteWindow_quiet p v (patchV m p t i v) a.1) (ih (_, _))

/-- Joining the commands in flight touches its tile alone, and leaves the tile as it was but for the commands in flight and
what held V entries have still to write. -/
theorem joinFlight_tile (p : Part) (t : TileId) (i : Inflight) (m : Mod) :
    AtTile p t m (joinFlight p t i m) ∧ ∃ vs l k, (joinFlight p t i m).tile t
      = { m.tile t with ventries := vs, inflight := l ++ [{ i with lost := k }] } := by
  unfold joinFlight
  dsimp only
  split
  · exact ⟨atTile_setTile .., (m.tile t).ventries, (m.tile t).inflight, i.lost, by simp [tile_setTile]⟩
  · have h1 := quiet_foldl (patchSend p t i) (fun m o => patchSend_quiet p t i o m) (m.tile t).inflight m
    exact ⟨((h1.trans (rewrites_quiet p t i m (m.tile t).ventries (_, []))).atTile t).trans (atTile_setTile ..), _, _, _, by rw [tile_setTile]⟩

theorem storeTier_tile (c : Ctx) (ws : List (Nat × Bytes)) (m : Mod) : AtTile c.p c.t m (storeTier c ws m) := by
  unfold storeTier; dsimp only
  exact ((windowWrite_quiet ..).atTile _).trans (atTile_updTile ..)

theorem countCells_tile (p : Part) (t : TileId) (cs : List CellRef) (m : Mod) :
    AtTile p t m (countCells p t cs m) ∧ ∃ l, (countCells p t cs m).tile t = { m.tile t with cellSoft := l } := by
  unfold countCells; dsimp only
  split
  · exact ⟨.refl .., (m.tile t).cellSoft, rfl⟩
  · refine ⟨?_, _, tile_setTile ..⟩
    refine AtTile.trans (b := m.setTile t { m.tile t with cellSoft := (m.tile t).cellSoft.filter (fun k => !cs.contains k) })
      (atTile_setTile ..) (Quiet.atTile ?_ t)
    apply quiet_updPart
    exact fun x => ⟨rfl, fun _ h => h, rfl⟩

/-- An issue of a command that is no END and no V command ends in the commands in flight; the rest of the tile is what the
issue made of it. -/
theorem enterTile_tile (d : OpDef) (c : Ctx) (e : Effect) (bins : List Nat) (y : Tile) (m : Mod) (he : e.ended = false)
    (hv : e.vent = none) : ∃ vs l k, (enterTile d c e bins y m).tile c.t
      = { (issueTile c e bins y).1 with
            ventries := vs, inflight := l ++ [{ flightOf d c e bins (issueTile c e bins y).2 with lost := k }] } := by
  obtain ⟨vs, l, k, h⟩ := (joinFlight_tile c.p c.t (flightOf d c e bins (issueTile c e bins y).2)
    (m.setTile c.t (issueTile c e bins y).1)).2
  refine ⟨vs, l, k, ?_⟩
  unfold enterTile
  simp only [he, hv, Option.isSome_none, Bool.or_self, Bool.false_eq_true, if_false]
  rw [h, tile_setTile]

theorem enterTile_held (d : OpDef) (c : Ctx) (e : Effect) (bins : List Nat) (y : Tile) (m : Mod) (hv : e.vent.isSome = true) :
    (enterTile d c e bins y m).tile c.t = (issueTile c e bins y).1 := by
  unfold enterTile
  simp only [hv, Bool.true_or, if_true]
  rw [tile_setTile]

/-- An issue that its own checks allow, of a command that is no END and writes no tier page: what the tile is after it. -/
theorem issueCmd_tile {d : OpDef} {p : Part} {t : TileId} {st : Stream} {s : State} (h : IssuesNow d p t st s)
    (he : (d.effect (issuedCtx d p t st s.m)).ended = false)
    (ht : (d.effect (issuedCtx d p t st s.m)).tier = []) :
    TileFrame p t s { s with m := issueCmd d t st s.m } ∧
    ∃ r bins m1 soft, (s.m.tile t).pops (nextWord t st s.m) (nowOf p s) = some r ∧
      (issueCmd d t st s.m).tile t
        = { (enterTile d (issuedCtx d p t st s.m) (d.effect (issuedCtx d p t st s.m)) bins
              (takeWait (issueCtx d false p t st s.m) r.2.2.2) m1).tile t with cellSoft := soft } := by
  obtain ⟨⟨ea, eb, v, y⟩, hr⟩ := pops_of_ready h.ready
  have hr' : (issueCtx0 false p t st s.m).x.pops (issueCtx0 false p t st s.m).w (issueCtx0 false p t st s.m).cyc
      = some (ea, eb, v, y) := hr
  have hcell : (issueCtx d false p t st s.m).x.badCell (headerCells (issueCtx d false p t st s.m).x
      (issueCtx d false p t st s.m).w) = none := h.cells
  have hrefs : (checkRefs (issueCtx0 false p t st s.m) (d.refs (issueCtx d false p t st s.m).w)).1 = none := h.refs
  have hown : (d.effect (seeLines d (issueCtx d false p t st s.m))).fault = none := h.own
  rw [issueCmd_now h.toComesNow]
  unfold doIssue
  simp only [hr', hcell, hrefs, hown]
  unfold issuedCtx at he ht ⊢
  generalize hC : seeLines d (issueCtx d false p t st s.m) = c at he ht ⊢
  have hp : c.p = p := by rw [← hC]; rfl
  have hct : c.t = t := by rw [← hC]; rfl
  generalize hE : d.effect c = e at he ht ⊢
  have k0 : AtTile p t s.m (countImem (issueCtx d false p t st s.m) false s.m) := (countImem_quiet (issueCtx d false p t st s.m) false s.m).atTile t
  have k1 : ∀ bins m y, AtTile p t m (enterTile d c e bins y m) := by
    intro bins m y
    unfold enterTile; dsimp only; subst hp hct
    split
    · exact atTile_setTile ..
    · exact (atTile_setTile ..).trans (joinFlight_tile ..).1
  have k2 : ∀ cell bins m, Quiet p m (issueOut c e (issueFaults c e cell (binRace c bins (detect d c e m)))) := by
    intro cell bins m; subst hp
    exact (detect_quiet ..).trans ((binRace_quiet ..).trans ((issueFaults_quiet ..).trans (issueOut_quiet c e _ he ht)))
  refine ⟨AtTile.frame ((k0.trans ((k1 _ _ _).trans ((k2 _ _ _).atTile t))).trans (countCells_tile p t _ _).1), ?_⟩
  have k3 : ∀ cs cell bins m, ∃ l, (countCells p t cs (issueOut c e (issueFaults c e cell
      (binRace c bins (detect d c e m))))).tile t = { m.tile t with cellSoft := l } := by
    intro cs cell bins m
    obtain ⟨l, hl⟩ := (countCells_tile p t cs (issueOut c e (issueFaults c e cell (binRace c bins (detect d c e m))))).2
    exact ⟨l, by rw [hl, (k2 cell bins m).tile t]⟩
  obtain ⟨l, hl⟩ := k3 (headerCells c.x c.w ++ if c.skip then [] else operandCells d c.w)
    (c.x.badCell (if c.skip then [] else operandCells d c.w))
    ((d.refs (issueCtx d false p t st s.m).w).filterMap (fun r => ((issueCtx0 false p t st s.m).resolve r).bin))
    (enterTile d c e
      ((d.refs (issueCtx d false p t st s.m).w).filterMap (fun r => ((issueCtx0 false p t st s.m).resolve r).bin))
      (takeWait (issueCtx d false p t st s.m) y) (countImem (issueCtx d false p t st s.m) false s.m))
  exact ⟨_, _, _, l, hr, hl⟩

theorem takeWait_stream (c : Ctx) (y : Tile) (st : Stream) :
    (takeWait c y).stream st = y.stream st ∧ (takeWait c y).inflight = y.inflight ∧ (takeWait c y).nextId = y.nextId := by
  unfold takeWait; split <;> (cases st <;> exact ⟨rfl, rfl, rfl⟩)

/-- The issue of a command that is neither an END nor a V command, in the present cycle. -/
theorem issueCmd_flight {d : OpDef} {p : Part} {t : TileId} {st : Stream} {s : State} (h : IssuesNow d p t st s)
    (he : (d.effect (issuedCtx d p t st s.m)).ended = false)
    (hv : (d.effect (issuedCtx d p t st s.m)).vent = none)
    (ht : (d.effect (issuedCtx d p t st s.m)).tier = []) :
    IssuedAs d p t st s (d.effect (issuedCtx d p t st s.m)).loop (d.effect (issuedCtx d p t st s.m)).complete
      (d.effect (issuedCtx d p t st s.m)).entry (d.effect (issuedCtx d p t st s.m)).landing
      { s with m := issueCmd d t st s.m } := by
  obtain ⟨hf, r, bins, m1, soft, hr, hx⟩ := issueCmd_tile h he ht
  have hy := pops_stream _ _ _ _ hr
  have hct : (issuedCtx d p t st s.m).t = t := rfl
  obtain ⟨vs, l, k, he'⟩ := enterTile_tile d (issuedCtx d p t st s.m) (d.effect (issuedCtx d p t st s.m)) bins
    (takeWait (issueCtx d false p t st s.m) r.2.2.2) m1 he hv
  rw [hct] at he'
  rw [he'] at hx
  refine ⟨hf, ?_, ?_⟩
  · show ((issueCmd d t st s.m).tile t).stream st = _
    rw [hx]; unfold issueTile; simp only [hv, he]
    have q := (reserve_stream (passCommand (issuedCtx d p t st s.m)
      (d.effect (issuedCtx d p t st s.m)).loop false (takeWait (issueCtx d false p t st s.m) r.2.2.2))
      (issuedCtx d p t st s.m).w st).1
    have q2 : (passCommand (issuedCtx d p t st s.m)
      (d.effect (issuedCtx d p t st s.m)).loop false (takeWait (issueCtx d false p t st s.m) r.2.2.2)).stream st
      = stepStream ((s.m.tile t).stream st) ((s.m.tile t).stream st).pc (nowOf p s)
        (d.effect (issuedCtx d p t st s.m)).loop false := stream_setStream _ st _
    cases st <;> exact q.trans q2
  · have hid : (passCommand (issuedCtx d p t st s.m) (d.effect (issuedCtx d p t st s.m)).loop
        (d.effect (issuedCtx d p t st s.m)).ended (takeWait (issueCtx d false p t st s.m) r.2.2.2)).nextId
        = (s.m.tile t).nextId := by
      have a : ∀ (x : Tile) (b : Stream) (v : StreamState), (x.setStream b v).nextId = x.nextId := by
        intro x b v; cases b <;> rfl
      exact (a ..).trans (((takeWait_stream _ r.2.2.2 st).2.2).trans (hy st).2.2)
    refine ⟨{ flightOf d (issuedCtx d p t st s.m) (d.effect (issuedCtx d p t st s.m)) bins (issueTile (issuedCtx d p t st s.m)
      (d.effect (issuedCtx d p t st s.m)) bins (takeWait (issueCtx d false p t st s.m) r.2.2.2)).2 with lost := k },
      ?_, rfl, rfl, rfl, rfl, rfl, rfl, ?_, rfl⟩
    · show ((issueCmd d t st s.m).tile t).inflight.getLast? = _
      rw [hx]
      exact List.getLast?_concat
    · unfold issueTile
      simp only [hv]
      show Option.map _ (reserve _ _).2 = _
      rw [(reserve_stream _ _ st).2.2, hid, Option.map_map]
      rfl

/-! ### Faults of an issue -/

/-- A fault that is raised is due, with what it was raised with. -/
theorem raise_due (p : Part) (c code cause : Nat) (a b : Option Loc) (o : Nat) (m : Mod) :
    dueAs ((raise p c code cause a b o m).part p) code cause o c a := by
  unfold raise dueAs; dsimp only
  rw [part_updPart]
  exact ⟨_, List.mem_append_right _ (List.mem_singleton.2 rfl), rfl, rfl, rfl, rfl, rfl, rfl⟩

/-- What is due stays due where only records are added. -/
theorem dueAs_mono {x y : Partition} (hd : ∀ r ∈ x.dueFaults, r ∈ y.dueFaults) (hm : y.bayMask = x.bayMask)
    {code cause o c : Nat} {a : Option Loc} (k : dueAs x code cause o c a) : dueAs y code cause o c a := by
  obtain ⟨r, hr, h1, h2, h3, h4, h5⟩ := k
  exact ⟨r, hd r hr, h1, h2, h3, by rw [h4]; unfold Partition.recordBay Partition.bays; rw [hm], h5⟩

theorem Quiet.dueAs {p : Part} {m m' : Mod} (h : Quiet p m m') {code cause o c : Nat} {a : Option Loc}
    (k : dueAs (m.part p) code cause o c a) : dueAs (m'.part p) code cause o c a := dueAs_mono h.due h.mask k

/-- Every fault that an issue raises for later is due. -/
theorem issueFaults_late (c : Ctx) (e : Effect) (cell : Option Nat) (m : Mod) (f : Nat × Nat × Nat × Nat) (hf : f ∈ e.late) :
    dueAs ((issueFaults c e cell m).part c.p) f.2.1 f.2.2.1 f.2.2.2 f.1 (some c.loc) := by
  have h1 : ∀ (l : List (Nat × Nat × Nat × Nat)) (m : Mod), f ∈ l →
      dueAs ((l.foldl (fun m f => raise c.p f.1 f.2.1 f.2.2.1 (some c.loc) none f.2.2.2 m) m).part c.p)
        f.2.1 f.2.2.1 f.2.2.2 f.1 (some c.loc) := by
    intro l
    induction l with
    | nil => intro m h; cases h
    | cons g l ih =>
      intro m h
      rcases List.mem_cons.1 h with rfl | h
      · exact (quiet_foldl _ (fun m f => raise_quiet ..) l _).dueAs (raise_due ..)
      · exact ih _ h
  unfold issueFaults
  extract_lets m1 m2
  have h2 : Quiet c.p m1 m2 := by
    unfold m2; split
    · exact raise_quiet ..
    · exact .refl ..
  have h3 := h2.dueAs (h1 e.late m hf)
  split
  · exact (raise_quiet ..).dueAs h3
  · exact h3

/-- Where an issue raises a fault for later, that fault is due. -/
theorem issueCmd_late {d : OpDef} {p : Part} {t : TileId} {st : Stream} {s : State} (h : IssuesNow d p t st s)
    (he : (d.effect (issuedCtx d p t st s.m)).ended = false)
    (ht : (d.effect (issuedCtx d p t st s.m)).tier = []) {cyc code cause object : Nat}
    (hf : (cyc, code, cause, object) ∈ (d.effect (issuedCtx d p t st s.m)).late) :
    FaultDue p code cause object cyc (nextLoc t st s.m) { s with m := issueCmd d t st s.m } := by
  obtain ⟨⟨ea, eb, v, y⟩, hr⟩ := pops_of_ready h.ready
  have hr' : (issueCtx0 false p t st s.m).x.pops (issueCtx0 false p t st s.m).w (issueCtx0 false p t st s.m).cyc
      = some (ea, eb, v, y) := hr
  have hcell : (issueCtx d false p t st s.m).x.badCell (headerCells (issueCtx d false p t st s.m).x
      (issueCtx d false p t st s.m).w) = none := h.cells
  have hrefs : (checkRefs (issueCtx0 false p t st s.m) (d.refs (issueCtx d false p t st s.m).w)).1 = none := h.refs
  have hown : (d.effect (seeLines d (issueCtx d false p t st s.m))).fault = none := h.own
  rw [issueCmd_now h.toComesNow]
  unfold doIssue
  simp only [hr', hcell, hrefs, hown]
  unfold issuedCtx at he ht hf
  generalize hC : seeLines d (issueCtx d false p t st s.m) = c at he ht hf ⊢
  have hp : c.p = p := by rw [← hC]; rfl
  have hl : c.loc = nextLoc t st s.m := by rw [← hC]; rfl
  subst hp
  have k := fun cell m => issueFaults_late c (d.effect c) cell m _ hf
  rw [hl] at k
  have q : ∀ cs cell m, dueAs ((countCells c.p t cs (issueOut c (d.effect c) (issueFaults c (d.effect c) cell m))).part c.p)
      code cause object cyc (some (nextLoc t st s.m)) := by
    intro cs cell m
    have q := (countCells_tile c.p t cs (issueOut c (d.effect c) (issueFaults c (d.effect c) cell m))).1
    exact dueAs_mono q.due q.mask ((issueOut_quiet c (d.effect c) _ he ht).dueAs (k _ _))
  exact q ..

/-- A fault raised as a stream passes a command stops it: the tile keeps what is in flight and held. -/
theorem pass_stops {d : OpDef} {p : Part} {t : TileId} {st : Stream} {s : State} {r : BitVec 64 × BitVec 64 × Nat × Tile}
    (hr : (s.m.tile t).pops (nextWord t st s.m) (nowOf p s) = some r) (loop : Option Loop) (ended : Bool)
    (code cause object : Nat) (lb : Option Loc) (m : Mod)
    (hm : m = raise p (nowOf p s) code cause (some (nextLoc t st s.m)) lb object
      ((countImem (issueCtx d false p t st s.m) false s.m).setTile t
        (passCommand (issueCtx d false p t st s.m) loop ended (takeWait (issueCtx d false p t st s.m) r.2.2.2)))) :
    StopsAs p t st s code cause object { s with m := m } := by
  subst hm
  have k0 : AtTile p t s.m (countImem (issueCtx d false p t st s.m) false s.m) :=
    (countImem_quiet (issueCtx d false p t st s.m) false s.m).atTile t
  have hv := pops_stream _ _ _ _ hr
  have hx : ∀ c : Ctx, (passCommand c loop ended (takeWait c r.2.2.2)).inflight = r.2.2.2.inflight
      ∧ (passCommand c loop ended (takeWait c r.2.2.2)).ventries = r.2.2.2.ventries := by
    intro c; unfold passCommand takeWait
    cases c.st <;> split <;> exact ⟨rfl, rfl⟩
  refine ⟨AtTile.frame (k0.trans ((atTile_setTile ..).trans ((raise_quiet ..).atTile t))), raise_due .., ?_, ?_⟩
  · show ((raise ..).tile t).inflight = _
    rw [(raise_quiet ..).tile t, tile_setTile]
    exact (hx _).1.trans (hv st).2.1
  · show ((raise ..).tile t).ventries = _
    rw [(raise_quiet ..).tile t, tile_setTile]
    exact (hx _).2.trans (pops_ventries _ _ _ _ hr)

/-- A command whose own check fails is stopped by its fault. -/
theorem issueCmd_stops {d : OpDef} {p : Part} {t : TileId} {st : Stream} {s : State} (h : ResolvesNow d p t st s)
    {code cause object : Nat} {lb : Option Loc}
    (hf : (d.effect (issuedCtx d p t st s.m)).fault = some (code, cause, object, lb)) :
    StopsAs p t st s code cause object { s with m := issueCmd d t st s.m } := by
  obtain ⟨⟨ea, eb, v, y⟩, hr⟩ := pops_of_ready h.ready
  have hr' : (issueCtx0 false p t st s.m).x.pops (issueCtx0 false p t st s.m).w (issueCtx0 false p t st s.m).cyc
      = some (ea, eb, v, y) := hr
  have hcell : (issueCtx d false p t st s.m).x.badCell (headerCells (issueCtx d false p t st s.m).x
      (issueCtx d false p t st s.m).w) = none := h.cells
  have hrefs : (checkRefs (issueCtx0 false p t st s.m) (d.refs (issueCtx d false p t st s.m).w)).1 = none := h.refs
  have hown : (d.effect (seeLines d (issueCtx d false p t st s.m))).fault = some (code, cause, object, lb) := hf
  rw [issueCmd_now h.toComesNow]
  unfold doIssue
  simp only [hr', hcell, hrefs, hown]
  exact pass_stops (d := d) hr _ _ _ _ _ _ _ rfl

/-- A command whose reference faults is stopped by that fault (R106). -/
theorem issueCmd_refs {d : OpDef} {p : Part} {t : TileId} {st : Stream} {s : State} (h : ComesNow d p t st s)
    (hc : (s.m.tile t).badCell (headerCells (s.m.tile t) (nextWord t st s.m)) = none) {code cause object : Nat}
    (hf : (checkRefs (issueCtx0 false p t st s.m) (d.refs (nextWord t st s.m))).1 = some (code, cause, object)) :
    StopsAs p t st s code cause object { s with m := issueCmd d t st s.m } := by
  obtain ⟨⟨ea, eb, v, y⟩, hr⟩ := pops_of_ready h.ready
  have hr' : (issueCtx0 false p t st s.m).x.pops (issueCtx0 false p t st s.m).w (issueCtx0 false p t st s.m).cyc
      = some (ea, eb, v, y) := hr
  have hcell : (issueCtx d false p t st s.m).x.badCell (headerCells (issueCtx d false p t st s.m).x
      (issueCtx d false p t st s.m).w) = none := hc
  have hrefs : (checkRefs (issueCtx0 false p t st s.m) (d.refs (issueCtx d false p t st s.m).w)).1
      = some (code, cause, object) := hf
  rw [issueCmd_now h]
  unfold doIssue
  simp only [hr', hcell, hrefs]
  exact pass_stops (d := d) hr _ _ _ _ _ _ _ rfl

/-- A command of whose header an entry or the flag cannot be read is stopped by MEM_UE (R227). -/
theorem issueCmd_cells {d : OpDef} {p : Part} {t : TileId} {st : Stream} {s : State} (h : ComesNow d p t st s) {k : Nat}
    (hc : (s.m.tile t).badCell (headerCells (s.m.tile t) (nextWord t st s.m)) = some k) :
    StopsAs p t st s cMemUe 3 k { s with m := issueCmd d t st s.m } := by
  obtain ⟨⟨ea, eb, v, y⟩, hr⟩ := pops_of_ready h.ready
  have hr' : (issueCtx0 false p t st s.m).x.pops (issueCtx0 false p t st s.m).w (issueCtx0 false p t st s.m).cyc
      = some (ea, eb, v, y) := hr
  have hcell : (issueCtx d false p t st s.m).x.badCell (headerCells (issueCtx d false p t st s.m).x
      (issueCtx d false p t st s.m).w) = some k := hc
  rw [issueCmd_now h]
  unfold doIssue
  simp only [hr', hcell]
  exact pass_stops (d := d) hr _ _ _ _ _ _ _ rfl

end Sys2Proof.Machine
end

