-- ==== Sys2Proof/Laws/Memory.lean ====
section
/-!
SUPPORT. The canonical form of the sparse maps and byte memories: every operation keeps it, and the memories after reset
have it.
-/
namespace Sys2Proof.Machine

/-! ### The form as a property of the entries -/

theorem wfFrom_iff {α : Type} [DecidableEq α] (d : α) (l : Sparse α) : ∀ lo, Sparse.wfFrom d lo l = true ↔
    (∀ e ∈ l, lo ≤ e.1 ∧ e.2 ≠ d) ∧ l.Pairwise (fun a b => a.1 < b.1) := by
  induction l with
  | nil => simp [Sparse.wfFrom]
  | cons e r ih =>
    intro lo
    obtain ⟨k, v⟩ := e
    simp only [Sparse.wfFrom, Bool.and_eq_true, decide_eq_true_eq, ih (k + 1), List.mem_cons, forall_eq_or_imp,
      List.pairwise_cons]
    constructor
    · rintro ⟨⟨h, hv⟩, h2, h3⟩
      exact ⟨⟨⟨h, hv⟩, fun e he => ⟨by have := (h2 e he).1; omega, (h2 e he).2⟩⟩, fun e he => by have := (h2 e he).1; omega, h3⟩
    · rintro ⟨⟨⟨h, hv⟩, h2⟩, h3, h4⟩
      exact ⟨⟨h, hv⟩, fun e he => ⟨h3 e he, (h2 e he).2⟩, h4⟩

/-- A part of a map in its form has it too. -/
theorem wfFrom_sublist {α : Type} [DecidableEq α] {d : α} {l k : Sparse α} {lo : Nat} (h : Sparse.wfFrom d lo l = true)
    (s : k.Sublist l) : Sparse.wfFrom d lo k = true := by
  rw [wfFrom_iff] at h ⊢
  exact ⟨fun e he => h.1 e (s.mem he), h.2.sublist s⟩

theorem wfFrom_mono {α : Type} [DecidableEq α] {d : α} {l : Sparse α} {lo hi : Nat} (h : Sparse.wfFrom d hi l = true)
    (le : lo ≤ hi) : Sparse.wfFrom d lo l = true := by
  rw [wfFrom_iff] at h ⊢
  exact ⟨fun e he => ⟨Nat.le_trans le (h.1 e he).1, (h.1 e he).2⟩, h.2⟩

/-- Two maps in their form, one behind the other. -/
theorem wfFrom_append {α : Type} [DecidableEq α] {d : α} {l k : Sparse α} {lo hi : Nat} (hl : Sparse.wfFrom d lo l = true)
    (hk : Sparse.wfFrom d hi k = true) (le : lo ≤ hi) (ends : ∀ e ∈ l, e.1 < hi) : Sparse.wfFrom d lo (l ++ k) = true := by
  rw [wfFrom_iff] at hl hk ⊢
  refine ⟨fun e he => ?_, List.pairwise_append.2 ⟨hl.2, hk.2, fun a ha b hb => ?_⟩⟩
  · rcases List.mem_append.1 he with h | h
    · exact hl.1 e h
    · exact ⟨Nat.le_trans le (hk.1 e h).1, (hk.1 e h).2⟩
  · exact Nat.lt_of_lt_of_le (ends a ha) (hk.1 b hb).1

/-- What stands before a bound lies below it. -/
theorem takeWhile_below {α : Type} (l : Sparse α) (a : Nat) : ∀ e ∈ l.takeWhile (fun c => c.1 < a), e.1 < a := by
  intro e he
  have := List.all_takeWhile (p := fun c : Nat × α => decide (c.1 < a)) (l := l)
  exact of_decide_eq_true (List.all_eq_true.1 this e he)

/-- What stands behind a bound in a map in its form has the form from there. -/
theorem wfFrom_dropWhile {α : Type} [DecidableEq α] {d : α} {l : Sparse α} {lo : Nat} (a : Nat)
    (h : Sparse.wfFrom d lo l = true) : Sparse.wfFrom d (max lo a) (l.dropWhile (fun c => c.1 < a)) = true := by
  induction l generalizing lo with
  | nil => rfl
  | cons e r ih =>
    obtain ⟨k, v⟩ := e
    simp only [Sparse.wfFrom, Bool.and_eq_true, decide_eq_true_eq] at h
    by_cases hk : k < a
    · simp only [List.dropWhile_cons, hk, decide_true, if_true]
      exact wfFrom_mono (ih h.2) (by omega)
    · simp only [List.dropWhile_cons, hk, decide_false]
      simp only [Bool.false_eq_true, if_false, Sparse.wfFrom, Bool.and_eq_true, decide_eq_true_eq]
      exact ⟨⟨by omega, h.1.2⟩, h.2⟩

/-! ### Byte memories -/

/-- The cells of a run stand within it, in their form. -/
theorem cells_wf (bs : Bytes) : ∀ a, Sparse.wfFrom (0 : BitVec 8) a (Mem.cells a bs) = true
    ∧ ∀ e ∈ Mem.cells a bs, e.1 < a + bs.length := by
  induction bs with
  | nil => intro a; simp [Mem.cells, Sparse.wfFrom]
  | cons b r ih =>
    intro a
    by_cases hb : b = 0
    · simp only [Mem.cells, hb, if_true, List.length_cons]
      exact ⟨wfFrom_mono (ih (a + 1)).1 (by omega), fun e he => by have := (ih (a + 1)).2 e he; omega⟩
    · simp only [Mem.cells, hb, if_false, List.length_cons, Sparse.wfFrom, List.mem_cons, forall_eq_or_imp,
        Bool.and_eq_true, decide_eq_true_eq]
      exact ⟨⟨⟨Nat.le_refl _, hb⟩, (ih (a + 1)).1⟩, by omega, fun e he => by have := (ih (a + 1)).2 e he; omega⟩

theorem write_wfFrom {m : Mem} {lo : Nat} (a : Nat) (bs : Bytes) (le : lo ≤ a)
    (h : Sparse.wfFrom (0 : BitVec 8) lo m = true) : Sparse.wfFrom (0 : BitVec 8) lo (m.write a bs) = true := by
  have head := wfFrom_append (wfFrom_sublist h (List.takeWhile_sublist (fun c => decide (c.1 < a)))) (cells_wf bs a).1 le
    (takeWhile_below m a)
  refine wfFrom_append head (wfFrom_dropWhile (a + bs.length) h) (by omega) ?_
  intro e he
  rcases List.mem_append.1 he with h | h
  · have := takeWhile_below m a e h; omega
  · have := (cells_wf bs a).2 e h; omega

/-- A write keeps the form. -/
@[simp] theorem write_wf {m : Mem} (a : Nat) (bs : Bytes) (h : m.wf = true) : (m.write a bs).wf = true :=
  write_wfFrom a bs (Nat.zero_le _) h

/-- A clearing keeps the form. -/
@[simp] theorem clear_wf {m : Mem} (a n : Nat) (h : m.wf = true) : (m.clear a n).wf = true :=
  wfFrom_sublist h List.filter_sublist

/-- A memory cut to some of its cells keeps the form. -/
theorem filter_wf {m : Mem} (p : Host.Cell → Bool) (h : m.wf = true) : Mem.wf (m.filter p) = true :=
  wfFrom_sublist h List.filter_sublist

theorem writesUp_wfFrom (ws : List (Nat × Bytes)) : ∀ (lo : Nat) (m : Mem),
    runsRise (ws.map (fun w => (w.1, w.2.length))) = true → (∀ w, ws.head? = some w → lo ≤ w.1) →
    Sparse.wfFrom (0 : BitVec 8) lo m = true → Sparse.wfFrom (0 : BitVec 8) lo (Mem.writesUp ws m) = true := by
  induction ws with
  | nil => intro lo m _ _ h; exact h
  | cons w ws ih =>
    intro lo m up le h
    have le := le w rfl
    have head := wfFrom_append (wfFrom_sublist h (List.takeWhile_sublist (fun c => decide (c.1 < w.1))))
      (cells_wf w.2 w.1).1 le (takeWhile_below m w.1)
    have next : runsRise (ws.map (fun w => (w.1, w.2.length))) = true ∧ ∀ v, ws.head? = some v → w.1 + w.2.length ≤ v.1 := by
      cases ws with
      | nil => simp [runsRise]
      | cons v r =>
        simp only [List.map_cons, runsRise, Bool.and_eq_true, decide_eq_true_eq] at up ⊢
        exact ⟨up.2, fun u hu => by simp at hu; subst hu; exact up.1⟩
    refine wfFrom_append head (hi := w.1 + w.2.length) (ih _ _ next.1 next.2 ?_) (by omega) ?_
    · exact wfFrom_mono (wfFrom_dropWhile (w.1 + w.2.length) h) (by omega)
    · intro e he
      rcases List.mem_append.1 he with h | h
      · have := takeWhile_below m w.1 e h; omega
      · have := (cells_wf w.2 w.1).2 e h; omega

/-- Several writes keep the form. -/
@[simp] theorem writes_wf {m : Mem} (ws : List (Nat × Bytes)) (h : m.wf = true) : (m.writes ws).wf = true := by
  unfold Mem.writes
  split
  · exact writesUp_wfFrom ws 0 m ‹_› (fun _ _ => Nat.zero_le _) h
  · exact foldl h ws
where
  /-- Runs written one after another. -/
  foldl {m : Mem} (h : m.wf = true) (ws : List (Nat × Bytes)) : Mem.wf (ws.foldl (fun m w => m.write w.1 w.2) m) = true := by
    induction ws generalizing m with
    | nil => exact h
    | cons w ws ih => exact ih (write_wf w.1 w.2 h)

/-! ### Sparse maps -/

theorem put_wfFrom {α : Type} [DecidableEq α] {d : α} (i : Nat) (x : α) : ∀ (l : Sparse α) (lo : Nat), lo ≤ i →
    Sparse.wfFrom d lo l = true → Sparse.wfFrom d lo (Sparse.put d l i x) = true := by
  intro l
  induction l with
  | nil =>
    intro lo le _
    by_cases hx : x = d <;> simp [Sparse.put, hx, Sparse.wfFrom, le]
  | cons e r ih =>
    obtain ⟨k, v⟩ := e
    intro lo le h
    have hkv := h
    simp only [Sparse.wfFrom, Bool.and_eq_true, decide_eq_true_eq] at h
    by_cases h1 : i < k
    · by_cases hx : x = d
      · simpa [Sparse.put, h1, hx] using hkv
      · simp only [Sparse.put, h1, if_true, hx, if_false, Sparse.wfFrom, Bool.and_eq_true, decide_eq_true_eq]
        exact ⟨⟨le, hx⟩, ⟨by omega, h.1.2⟩, h.2⟩
    · by_cases h2 : i = k
      · subst h2
        by_cases hx : x = d
        · simp only [Sparse.put, Nat.lt_irrefl, if_false, if_true, hx]
          exact wfFrom_mono h.2 (by omega)
        · simp only [Sparse.put, Nat.lt_irrefl, if_false, if_true, hx, Sparse.wfFrom, Bool.and_eq_true, decide_eq_true_eq]
          exact ⟨⟨le, hx⟩, h.2⟩
      · simp only [Sparse.put, h1, if_false, h2, Sparse.wfFrom, Bool.and_eq_true, decide_eq_true_eq]
        exact ⟨h.1, ih (k + 1) (by omega) h.2⟩

/-- A key put reads as put, and every other key as before. -/
theorem get_put {α : Type} [DecidableEq α] {d : α} (i j : Nat) (x : α) : ∀ (l : Sparse α) (lo : Nat),
    Sparse.wfFrom d lo l = true → Sparse.get d (Sparse.put d l i x) j = if j = i then x else Sparse.get d l j := by
  have low : ∀ (l : Sparse α) (lo j : Nat), Sparse.wfFrom d lo l = true → j < lo → Sparse.get d l j = d := by
    intro l lo j h hj
    cases l with
    | nil => rfl
    | cons e r =>
      obtain ⟨k, v⟩ := e
      simp only [Sparse.wfFrom, Bool.and_eq_true, decide_eq_true_eq] at h
      have h1 : j ≠ k := by omega
      have h2 : j < k := by omega
      simp [Sparse.get, h1, h2]
  intro l
  induction l with
  | nil =>
    intro lo _
    by_cases hx : x = d <;> by_cases hj : j = i <;> simp [Sparse.put, Sparse.get, hx, hj]
  | cons e r ih =>
    obtain ⟨k, v⟩ := e
    intro lo h
    simp only [Sparse.wfFrom, Bool.and_eq_true, decide_eq_true_eq] at h
    have htail := h.2
    by_cases h1 : i < k
    · by_cases hx : x = d
      · by_cases hj : j = i
        · subst hj
          have : j ≠ k := by omega
          simp [Sparse.put, Sparse.get, h1, hx, this]
        · simp [Sparse.put, h1, hx, hj]
      · by_cases hj : j = i
        · simp [Sparse.put, Sparse.get, h1, hx, hj]
        · by_cases h3 : j < i
          · have h4 : j ≠ k := by omega
            have h5 : j < k := by omega
            simp [Sparse.put, Sparse.get, h1, hx, hj, h3, h4, h5]
          · simp [Sparse.put, Sparse.get, h1, hx, hj, h3]
    · by_cases h2 : i = k
      · subst h2
        by_cases hx : x = d
        · by_cases hj : j = i
          · subst hj
            simp [Sparse.put, hx, low r (j + 1) j htail (by omega)]
          · by_cases h3 : j < i
            · simp [Sparse.put, Sparse.get, hx, hj, h3, low r (i + 1) j htail (by omega)]
            · simp [Sparse.put, Sparse.get, hx, hj, h3]
        · by_cases hj : j = i
          · simp [Sparse.put, Sparse.get, hx, hj]
          · simp [Sparse.put, Sparse.get, hx, hj]
      · by_cases hj : j = k
        · have : j ≠ i := by omega
          have hki : ¬ k = i := fun h => h2 h.symm
          simp [Sparse.put, Sparse.get, h1, h2, hj, hki]
        · by_cases h3 : j < k
          · have : j ≠ i := by omega
            simp [Sparse.put, Sparse.get, h1, h2, hj, h3, this]
          · simp [Sparse.put, Sparse.get, h1, h2, hj, h3, ih (k + 1) htail]

/-! ### The memories of the module -/

/-- What the form of every memory says of each. -/
theorem memWf_iff (m : Mod) : m.memWf = true ↔ (∀ k, (m.ls.get k).wf = true) ∧ (∀ k, (m.hbm.get k).wf = true)
    ∧ m.hostMem.wf = true ∧ ∀ k, (m.cxl.get k).data.wf = true := by
  have all : ∀ {α : Type} {n : Nat} (v : Vector α n) (p : α → Bool), v.toList.all p = true ↔ ∀ k, p (v.get k) = true := by
    intro α n v p
    rw [List.all_eq_true]
    constructor
    · intro h k
      exact h _ (by simp [Vector.get])
    · intro h x hx
      obtain ⟨i, hi, rfl⟩ := List.mem_iff_getElem.1 hx
      have := h ⟨i, by simpa using hi⟩
      simpa [Vector.get] using this
  simp only [Mod.memWf, Bool.and_eq_true, all, and_assoc]

/-- The memories after reset have the form. -/
theorem reset_memWf : State.reset.m.memWf = true := by
  rw [memWf_iff]
  refine ⟨fun k => ?_, fun k => ?_, rfl, fun k => ?_⟩
  · simp [State.reset, Vector.get, Mem.wf, Sparse.wfFrom]
  · simp [State.reset, Vector.get, Mem.wf, Sparse.wfFrom]
  · simp [State.reset, Vector.get, Mem.wf, Sparse.wfFrom]

/-- A replaced place of a vector. -/
theorem vector_get_set {α : Type} {n : Nat} (v : Vector α n) (i : Fin n) (x : α) (k : Fin n) :
    (v.set i.val x i.isLt).get k = if i = k then x else v.get k := by
  show (v.set i.val x i.isLt)[k.val] = if i = k then x else v[k.val]
  rw [Vector.getElem_set]
  simp only [Fin.ext_iff]

/-- Writes to the stack of a bay keep the form of every memory. -/
@[simp] theorem writeHbm_memWf {m : Mod} (h : m.memWf = true) (b : Fin 8) (ws : List (Nat × Bytes)) :
    (writeHbm b ws m).memWf = true := by
  rw [memWf_iff] at h ⊢
  refine ⟨h.1, fun k => ?_, h.2.2.1, h.2.2.2⟩
  simp only [writeHbm, vector_get_set]
  split
  · exact writes_wf ws (h.2.1 b)
  · exact h.2.1 k

/-- Writes to a local store keep the form of every memory. -/
@[simp] theorem writeStore_memWf {m : Mod} (h : m.memWf = true) (t : TileId) (ws : List (Nat × Bytes)) :
    (writeStore t ws m).memWf = true := by
  rw [memWf_iff] at h ⊢
  refine ⟨fun k => ?_, h.2.1, h.2.2.1, h.2.2.2⟩
  simp only [writeStore, vector_get_set]
  split
  · exact writes_wf ws (h.1 _)
  · exact h.1 k

/-! ### Reading what stands in a memory -/

theorem readGo_skip (l : Mem) (a n : Nat) (h : ∀ e ∈ l, a < e.1) : Mem.readGo l a (n + 1) = 0 :: Mem.readGo l (a + 1) n := by
  cases l with
  | nil => rfl
  | cons e r =>
    have : e.1 ≠ a := Nat.ne_of_gt (h e (.head _))
    simp [Mem.readGo, this]

theorem readGo_take (n : Nat) : ∀ (l : Mem) (a k : Nat), n ≤ k → (Mem.readGo l a k).take n = Mem.readGo l a n := by
  induction n with
  | zero => intro l a k _; simp [Mem.readGo]
  | succ n ih =>
    intro l a k h
    obtain ⟨k, rfl⟩ : ∃ j, k = j + 1 := ⟨k - 1, by omega⟩
    match l with
    | [] => simp [Mem.readGo, ih [] (a + 1) k (by omega)]
    | (i, v) :: r =>
      simp only [Mem.readGo]
      split <;> simp [ih _ (a + 1) k (by omega)]

theorem readGo_cells (bs : Bytes) : ∀ a, Mem.readGo (Mem.cells a bs) a bs.length = bs := by
  induction bs with
  | nil => intro a; rfl
  | cons b r ih =>
    intro a
    have low : ∀ e ∈ Mem.cells (a + 1) r, a < e.1 := fun e he => ((wfFrom_iff _ _ _).1 (cells_wf r (a + 1)).1).1 e he |>.1
    simp only [Mem.cells, List.length_cons]
    split
    · rename_i h; rw [readGo_skip _ _ _ low, ih, h]
    · simp [Mem.readGo, ih]

theorem cells_append (bs cs : Bytes) : ∀ a, Mem.cells a (bs ++ cs) = Mem.cells a bs ++ Mem.cells (a + bs.length) cs := by
  induction bs with
  | nil => intro a; rfl
  | cons b r ih =>
    intro a
    simp only [List.cons_append, Mem.cells, ih, List.length_cons, show a + (r.length + 1) = a + 1 + r.length by omega]
    split <;> simp

/-- What is read past a run of placed bytes is the bytes that follow it. -/
theorem read_cells (bs cs : Bytes) (a n : Nat) (h : n ≤ cs.length) :
    (Mem.cells a (bs ++ cs)).read (a + bs.length) n = cs.take n := by
  have low : ∀ e ∈ Mem.cells a bs, decide (e.1 < a + bs.length) = true := fun e he => decide_eq_true ((cells_wf bs a).2 e he)
  have high : (Mem.cells (a + bs.length) cs).dropWhile (fun c => c.1 < a + bs.length) = Mem.cells (a + bs.length) cs := by
    have : ∀ e ∈ Mem.cells (a + bs.length) cs, a + bs.length ≤ e.1 :=
      fun e he => ((wfFrom_iff _ _ _).1 (cells_wf cs (a + bs.length)).1).1 e he |>.1
    generalize Mem.cells (a + bs.length) cs = l at this
    cases l with
    | nil => rfl
    | cons e r => simp [List.dropWhile, Nat.not_lt.2 (this e (.head _))]
  rw [Mem.read, cells_append, List.dropWhile_append_of_pos low, high, ← readGo_take n _ _ _ h, readGo_cells]

end Sys2Proof.Machine
end

