-- ==== Sys2Proof/Laws/OnlyMod.lean ====
section
/-!
SUPPORT. The rows that leave the hub alone: each answers a next state that differs in the module part at most (the two of a
teardown where the module is not on its way to OFF). The other
rows are those of the power state, the clock, the firmware, the doorbells, and the resets of chapters 14, 15, 17 and 18.
-/
namespace Sys2Proof.Machine

/-- The answer is a next state with the queue and the hub as they were. -/
def OnlyMod (o : Host.Outcome State Fault Refusal) (s : State) : Prop := ∃ m, o = .next { s with m := m }

/-- A module that is not on its way to OFF stays as it is as a cycle ends. -/
theorem settleOff_stays (s : State) (h : s.hub.power.leaving = none) : settleOff s = s := by
  unfold settleOff; rw [h]

theorem execEnd_onlyMod : ∀ t st s, OnlyMod (execEnd t st s) s := by
  intros; unfold OnlyMod execEnd onTile; try dsimp only
  exact ⟨_, rfl⟩

theorem execSync_onlyMod : ∀ t st s, OnlyMod (execSync t st s) s := by
  intros; unfold OnlyMod execSync onTile; try dsimp only
  exact ⟨_, rfl⟩

theorem execRepeat_onlyMod : ∀ t st s, OnlyMod (execRepeat t st s) s := by
  intros; unfold OnlyMod execRepeat onTile; try dsimp only
  exact ⟨_, rfl⟩

theorem execPset_onlyMod : ∀ t st s, OnlyMod (execPset t st s) s := by
  intros; unfold OnlyMod execPset onTile; try dsimp only
  exact ⟨_, rfl⟩

theorem execFset_onlyMod : ∀ t st s, OnlyMod (execFset t st s) s := by
  intros; unfold OnlyMod execFset onTile; try dsimp only
  exact ⟨_, rfl⟩

theorem execQpush_onlyMod : ∀ t st s, OnlyMod (execQpush t st s) s := by
  intros; unfold OnlyMod execQpush onTile; try dsimp only
  exact ⟨_, rfl⟩

theorem execLoadHbm_onlyMod : ∀ t s, OnlyMod (execLoadHbm t s) s := by
  intros; unfold OnlyMod execLoadHbm onTile; try dsimp only
  exact ⟨_, rfl⟩

theorem execStoreHbm_onlyMod : ∀ t s, OnlyMod (execStoreHbm t s) s := by
  intros; unfold OnlyMod execStoreHbm onTile; try dsimp only
  exact ⟨_, rfl⟩

theorem execPageGather_onlyMod : ∀ t s, OnlyMod (execPageGather t s) s := by
  intros; unfold OnlyMod execPageGather onTile; try dsimp only
  exact ⟨_, rfl⟩

theorem execPageScatter_onlyMod : ∀ t s, OnlyMod (execPageScatter t s) s := by
  intros; unfold OnlyMod execPageScatter onTile; try dsimp only
  exact ⟨_, rfl⟩

theorem execSend_onlyMod : ∀ t s, OnlyMod (execSend t s) s := by
  intros; unfold OnlyMod execSend onTile; try dsimp only
  exact ⟨_, rfl⟩

theorem execRelease_onlyMod : ∀ t s, OnlyMod (execRelease t s) s := by
  intros; unfold OnlyMod execRelease onTile; try dsimp only
  exact ⟨_, rfl⟩

theorem execCxlRead_onlyMod : ∀ t s, OnlyMod (execCxlRead t s) s := by
  intros; unfold OnlyMod execCxlRead onTile; try dsimp only
  exact ⟨_, rfl⟩

theorem execCxlWrite_onlyMod : ∀ t s, OnlyMod (execCxlWrite t s) s := by
  intros; unfold OnlyMod execCxlWrite onTile; try dsimp only
  exact ⟨_, rfl⟩

theorem execFlashStage_onlyMod : ∀ t s, OnlyMod (execFlashStage t s) s := by
  intros; unfold OnlyMod execFlashStage onTile; try dsimp only
  exact ⟨_, rfl⟩

theorem execHostRead_onlyMod : ∀ t s, OnlyMod (execHostRead t s) s := by
  intros; unfold OnlyMod execHostRead onTile; try dsimp only
  exact ⟨_, rfl⟩

theorem execHostWrite_onlyMod : ∀ t s, OnlyMod (execHostWrite t s) s := by
  intros; unfold OnlyMod execHostWrite onTile; try dsimp only
  exact ⟨_, rfl⟩

theorem execMatmul_onlyMod : ∀ t s, OnlyMod (execMatmul t s) s := by
  intros; unfold OnlyMod execMatmul onTile; try dsimp only
  exact ⟨_, rfl⟩

theorem execVload_onlyMod : ∀ t s, OnlyMod (execVload t s) s := by
  intros; unfold OnlyMod execVload onTile; try dsimp only
  exact ⟨_, rfl⟩

theorem execVstore_onlyMod : ∀ t s, OnlyMod (execVstore t s) s := by
  intros; unfold OnlyMod execVstore onTile; try dsimp only
  exact ⟨_, rfl⟩

theorem execVop_onlyMod : ∀ t s, OnlyMod (execVop t s) s := by
  intros; unfold OnlyMod execVop onTile; try dsimp only
  exact ⟨_, rfl⟩

theorem execTrans_onlyMod : ∀ t s, OnlyMod (execTrans t s) s := by
  intros; unfold OnlyMod execTrans onTile; try dsimp only
  exact ⟨_, rfl⟩

theorem execAccadd_onlyMod : ∀ t s, OnlyMod (execAccadd t s) s := by
  intros; unfold OnlyMod execAccadd onTile; try dsimp only
  exact ⟨_, rfl⟩

theorem execSelect_onlyMod : ∀ t s, OnlyMod (execSelect t s) s := by
  intros; unfold OnlyMod execSelect onTile; try dsimp only
  exact ⟨_, rfl⟩

theorem execSeedHw_onlyMod : ∀ t s, OnlyMod (execSeedHw t s) s := by
  intros; unfold OnlyMod execSeedHw onTile; try dsimp only
  exact ⟨_, rfl⟩

theorem execCxlGather_onlyMod : ∀ t s, OnlyMod (execCxlGather t s) s := by
  intros; unfold OnlyMod execCxlGather onTile; try dsimp only
  exact ⟨_, rfl⟩

theorem execCommandComplete_onlyMod : ∀ t st index s, OnlyMod (execCommandComplete t st index s) s := by
  intros; unfold OnlyMod execCommandComplete ; try dsimp only
  repeat' (first | exact ⟨_, rfl⟩ | split)

theorem execVExternalComplete_onlyMod : ∀ t index out off s, OnlyMod (execVExternalComplete t index out off s) s := by
  intros; unfold OnlyMod execVExternalComplete ; try dsimp only
  repeat' (first | exact ⟨_, rfl⟩ | split)

theorem execVCommandDeadline_onlyMod : ∀ t index s, OnlyMod (execVCommandDeadline t index s) s := by
  intros; unfold OnlyMod execVCommandDeadline ; try dsimp only
  repeat' (first | exact ⟨_, rfl⟩ | split)

theorem execT0Reached_onlyMod : ∀ p s, OnlyMod (execT0Reached p s) s := by
  intros; unfold OnlyMod execT0Reached ; try dsimp only
  repeat' (first | exact ⟨_, rfl⟩ | split)

theorem execFurlongBoundary_onlyMod : ∀ p s, OnlyMod (execFurlongBoundary p s) s := by
  intros; unfold OnlyMod execFurlongBoundary ; try dsimp only
  repeat' (first | exact ⟨_, rfl⟩ | split)

theorem execPlanEnd_onlyMod : ∀ p s, OnlyMod (execPlanEnd p s) s := by
  intros; unfold OnlyMod execPlanEnd ; try dsimp only
  repeat' (first | exact ⟨_, rfl⟩ | split)

theorem execStreamDeadlock_onlyMod : ∀ t s, OnlyMod (execStreamDeadlock t s) s := by
  intros; unfold OnlyMod execStreamDeadlock ; try dsimp only
  repeat' (first | exact ⟨_, rfl⟩ | split)

theorem execBooksCheck_onlyMod : ∀ upset s, OnlyMod (execBooksCheck upset s) s := by
  intros; unfold OnlyMod execBooksCheck ; try dsimp only
  repeat' (first | exact ⟨_, rfl⟩ | split)

theorem execPlannedFlitWatch_onlyMod : ∀ q s, OnlyMod (execPlannedFlitWatch q s) s := by
  intros; unfold OnlyMod execPlannedFlitWatch ; try dsimp only
  repeat' (first | exact ⟨_, rfl⟩ | split)

theorem execVHoldCheck_onlyMod : ∀ p rod s, OnlyMod (execVHoldCheck p rod s) s := by
  intros; unfold OnlyMod execVHoldCheck ; try dsimp only
  repeat' (first | exact ⟨_, rfl⟩ | split)

theorem execThermalHoldNotice_onlyMod : ∀ p s, OnlyMod (execThermalHoldNotice p s) s := by
  intros; unfold OnlyMod execThermalHoldNotice ; try dsimp only
  repeat' (first | exact ⟨_, rfl⟩ | split)

theorem execHoldStart_onlyMod : ∀ p s, OnlyMod (execHoldStart p s) s := by
  intros; unfold OnlyMod execHoldStart ; try dsimp only
  repeat' (first | exact ⟨_, rfl⟩ | split)

theorem execHoldEnd_onlyMod : ∀ p s, OnlyMod (execHoldEnd p s) s := by
  intros; unfold OnlyMod execHoldEnd ; try dsimp only
  repeat' (first | exact ⟨_, rfl⟩ | split)

theorem execLinkSlot_onlyMod : ∀ q s, OnlyMod (execLinkSlot q s) s := by
  intros; unfold OnlyMod execLinkSlot ; try dsimp only
  repeat' (first | exact ⟨_, rfl⟩ | split)

theorem execFlitReceive_onlyMod : ∀ q flit fec s, OnlyMod (execFlitReceive q flit fec s) s := by
  intros; unfold OnlyMod execFlitReceive ; try dsimp only
  repeat' (first | exact ⟨_, rfl⟩ | split)

theorem execHoldNotice_onlyMod : ∀ q s, OnlyMod (execHoldNotice q s) s := by
  intros; unfold OnlyMod execHoldNotice ; try dsimp only
  exact ⟨_, rfl⟩

theorem execInit_onlyMod : ∀ q s, OnlyMod (execInit q s) s := by
  intros; unfold OnlyMod execInit ; try dsimp only
  exact ⟨_, rfl⟩

theorem execKaReq_onlyMod : ∀ q s, OnlyMod (execKaReq q s) s := by
  intros; unfold OnlyMod execKaReq ; try dsimp only
  exact ⟨_, rfl⟩

theorem execKaAck_onlyMod : ∀ q s, OnlyMod (execKaAck q s) s := by
  intros; unfold OnlyMod execKaAck ; try dsimp only
  exact ⟨_, rfl⟩

theorem execKaReqRetry_onlyMod : ∀ q s, OnlyMod (execKaReqRetry q s) s := by
  intros; unfold OnlyMod execKaReqRetry ; try dsimp only
  repeat' (first | exact ⟨_, rfl⟩ | split)

theorem execSwapReq_onlyMod : ∀ q s, OnlyMod (execSwapReq q s) s := by
  intros; unfold OnlyMod execSwapReq ; try dsimp only
  exact ⟨_, rfl⟩

theorem execLaneSwap_onlyMod : ∀ q s, OnlyMod (execLaneSwap q s) s := by
  intros; unfold OnlyMod execLaneSwap ; try dsimp only
  exact ⟨_, rfl⟩

theorem execPv_onlyMod : ∀ q s, OnlyMod (execPv q s) s := by
  intros; unfold OnlyMod execPv ; try dsimp only
  repeat' (first | exact ⟨_, rfl⟩ | split)

theorem execNakResend_onlyMod : ∀ q s, OnlyMod (execNakResend q s) s := by
  intros; unfold OnlyMod execNakResend ; try dsimp only
  repeat' (first | exact ⟨_, rfl⟩ | split)

theorem execGoBackReplay_onlyMod : ∀ q s, OnlyMod (execGoBackReplay q s) s := by
  intros; unfold OnlyMod execGoBackReplay ; try dsimp only
  repeat' (first | exact ⟨_, rfl⟩ | split)

theorem execLossOfSymbolLock_onlyMod : ∀ q lane s, OnlyMod (execLossOfSymbolLock q lane s) s := by
  intros; unfold OnlyMod execLossOfSymbolLock ; try dsimp only
  repeat' (first | exact ⟨_, rfl⟩ | split)

theorem execPrbs31Check_onlyMod : ∀ q lane errors s, OnlyMod (execPrbs31Check q lane errors s) s := by
  intros; unfold OnlyMod execPrbs31Check ; try dsimp only
  repeat' (first | exact ⟨_, rfl⟩ | split)

theorem execAlignLost_onlyMod : ∀ q s, OnlyMod (execAlignLost q s) s := by
  intros; unfold OnlyMod execAlignLost ; try dsimp only
  repeat' (first | exact ⟨_, rfl⟩ | split)

theorem execTrainStart_onlyMod : ∀ q s, OnlyMod (execTrainStart q s) s := by
  intros; unfold OnlyMod execTrainStart ; try dsimp only
  repeat' (first | exact ⟨_, rfl⟩ | split)

theorem execTrainComplete_onlyMod : ∀ q rx tx roundTrip s, OnlyMod (execTrainComplete q rx tx roundTrip s) s := by
  intros; unfold OnlyMod execTrainComplete ; try dsimp only
  repeat' (first | exact ⟨_, rfl⟩ | split)

theorem execTrainFailed_onlyMod : ∀ q laneOrder s, OnlyMod (execTrainFailed q laneOrder s) s := by
  intros; unfold OnlyMod execTrainFailed ; try dsimp only
  repeat' (first | exact ⟨_, rfl⟩ | split)

theorem execCalibrateTimeout_onlyMod : ∀ q s, OnlyMod (execCalibrateTimeout q s) s := by
  intros; unfold OnlyMod execCalibrateTimeout ; try dsimp only
  repeat' (first | exact ⟨_, rfl⟩ | split)

theorem execPwrite_onlyMod : ∀ q s, OnlyMod (execPwrite q s) s := by
  intros; unfold OnlyMod execPwrite ; try dsimp only
  repeat' (first | exact ⟨_, rfl⟩ | split)

theorem execWrite_onlyMod : ∀ q s, OnlyMod (execWrite q s) s := by
  intros; unfold OnlyMod execWrite ; try dsimp only
  repeat' (first | exact ⟨_, rfl⟩ | split)

theorem execRead_onlyMod : ∀ q s, OnlyMod (execRead q s) s := by
  intros; unfold OnlyMod execRead ; try dsimp only
  exact ⟨_, rfl⟩

theorem execRdata_onlyMod : ∀ q s, OnlyMod (execRdata q s) s := by
  intros; unfold OnlyMod execRdata ; try dsimp only
  repeat' (first | exact ⟨_, rfl⟩ | split)

theorem execStatus_onlyMod : ∀ q s, OnlyMod (execStatus q s) s := by
  intros; unfold OnlyMod execStatus ; try dsimp only
  repeat' (first | exact ⟨_, rfl⟩ | split)

theorem execChain_onlyMod : ∀ q s, OnlyMod (execChain q s) s := by
  intros; unfold OnlyMod execChain ; try dsimp only
  repeat' (first | exact ⟨_, rfl⟩ | split)

theorem execMcast_onlyMod : ∀ q s, OnlyMod (execMcast q s) s := by
  intros; unfold OnlyMod execMcast ; try dsimp only
  repeat' (first | exact ⟨_, rfl⟩ | split)

theorem execPacketRoute_onlyMod : ∀ src s, OnlyMod (execPacketRoute src s) s := by
  intros; unfold OnlyMod execPacketRoute ; try dsimp only
  repeat' (first | exact ⟨_, rfl⟩ | split)

theorem execRequestTimeout_onlyMod : ∀ p tag s, OnlyMod (execRequestTimeout p tag s) s := by
  intros; unfold OnlyMod execRequestTimeout ; try dsimp only
  repeat' (first | exact ⟨_, rfl⟩ | split)

theorem execPrepare_onlyMod : ∀ p src test s, OnlyMod (execPrepare p src test s) s := by
  intros; unfold OnlyMod execPrepare ; try dsimp only
  repeat' (first | exact ⟨_, rfl⟩ | split)

theorem execVote_onlyMod : ∀ p src s, OnlyMod (execVote p src s) s := by
  intros; unfold OnlyMod execVote ; try dsimp only
  repeat' (first | exact ⟨_, rfl⟩ | split)

theorem execCommit_onlyMod : ∀ p src s, OnlyMod (execCommit p src s) s := by
  intros; unfold OnlyMod execCommit ; try dsimp only
  repeat' (first | exact ⟨_, rfl⟩ | split)

theorem execAbandon_onlyMod : ∀ p src s, OnlyMod (execAbandon p src s) s := by
  intros; unfold OnlyMod execAbandon ; try dsimp only
  repeat' (first | exact ⟨_, rfl⟩ | split)

theorem execAbort_onlyMod : ∀ p src s, OnlyMod (execAbort p src s) s := by
  intros; unfold OnlyMod execAbort ; try dsimp only
  repeat' (first | exact ⟨_, rfl⟩ | split)

theorem execFreeze_onlyMod : ∀ p src s, OnlyMod (execFreeze p src s) s := by
  intros; unfold OnlyMod execFreeze ; try dsimp only
  repeat' (first | exact ⟨_, rfl⟩ | split)

theorem execDrained_onlyMod : ∀ p src s, OnlyMod (execDrained p src s) s := by
  intros; unfold OnlyMod execDrained ; try dsimp only
  repeat' (first | exact ⟨_, rfl⟩ | split)

theorem execSwitch_onlyMod : ∀ p src s, OnlyMod (execSwitch p src s) s := by
  intros; unfold OnlyMod execSwitch ; try dsimp only
  repeat' (first | exact ⟨_, rfl⟩ | split)

theorem execPrepareTimeout_onlyMod : ∀ p s, OnlyMod (execPrepareTimeout p s) s := by
  intros; unfold OnlyMod execPrepareTimeout ; try dsimp only
  repeat' (first | exact ⟨_, rfl⟩ | split)

theorem execVoteTimeout_onlyMod : ∀ p s, OnlyMod (execVoteTimeout p s) s := by
  intros; unfold OnlyMod execVoteTimeout ; try dsimp only
  repeat' (first | exact ⟨_, rfl⟩ | split)

theorem execReissueDelay_onlyMod : ∀ p s, OnlyMod (execReissueDelay p s) s := by
  intros; unfold OnlyMod execReissueDelay ; try dsimp only
  repeat' (first | exact ⟨_, rfl⟩ | split)

theorem execRouteDrain_onlyMod : ∀ p s, OnlyMod (execRouteDrain p s) s := by
  intros; unfold OnlyMod execRouteDrain ; try dsimp only
  repeat' (first | exact ⟨_, rfl⟩ | split)

theorem execTeardownComplete_onlyMod : ∀ p s, s.hub.power.leaving = none → OnlyMod (execTeardownComplete p s) s := by
  intro p s h; unfold OnlyMod execTeardownComplete
  split
  · exact ⟨_, rfl⟩
  · exact ⟨_, congrArg Host.Outcome.next (settleOff_stays _ h)⟩

theorem execTeardownTimeout_onlyMod : ∀ p q s, s.hub.power.leaving = none → OnlyMod (execTeardownTimeout p q s) s := by
  intro p q s h; unfold OnlyMod execTeardownTimeout
  split
  · exact ⟨_, rfl⟩
  · exact ⟨_, congrArg Host.Outcome.next (settleOff_stays _ h)⟩

theorem execStepCommit_onlyMod : ∀ p db s, OnlyMod (execStepCommit p db s) s := by
  intros; unfold OnlyMod execStepCommit ; try dsimp only
  repeat' (first | exact ⟨_, rfl⟩ | split)

theorem execOutRelease_onlyMod : ∀ p buf s, OnlyMod (execOutRelease p buf s) s := by
  intros; unfold OnlyMod execOutRelease ; try dsimp only
  repeat' (first | exact ⟨_, rfl⟩ | split)

theorem execStepGate_onlyMod : ∀ p s, OnlyMod (execStepGate p s) s := by
  intros; unfold OnlyMod execStepGate ; try dsimp only
  repeat' (first | exact ⟨_, rfl⟩ | split)

theorem execStepEnd_onlyMod : ∀ p s, OnlyMod (execStepEnd p s) s := by
  intros; unfold OnlyMod execStepEnd ; try dsimp only
  repeat' (first | exact ⟨_, rfl⟩ | split)

theorem execFirmwareCommit_onlyMod : ∀ p s, OnlyMod (execFirmwareCommit p s) s := by
  intros; unfold OnlyMod execFirmwareCommit ; try dsimp only
  repeat' (first | exact ⟨_, rfl⟩ | split)

theorem execResultRecordPost_onlyMod : ∀ p s, OnlyMod (execResultRecordPost p s) s := by
  intros; unfold OnlyMod execResultRecordPost ; try dsimp only
  repeat' (first | exact ⟨_, rfl⟩ | split)

theorem execTierMoveComplete_onlyMod : ∀ p handle s, OnlyMod (execTierMoveComplete p handle s) s := by
  intros; unfold OnlyMod execTierMoveComplete ; try dsimp only
  repeat' (first | exact ⟨_, rfl⟩ | split)

theorem execNop_onlyMod : ∀ f n s, OnlyMod (execNop f n s) s := by
  intros; unfold OnlyMod execNop onRing; try dsimp only
  repeat' (first | exact ⟨_, rfl⟩ | split)

theorem execPlanLoad_onlyMod : ∀ f n s, OnlyMod (execPlanLoad f n s) s := by
  intros; unfold OnlyMod execPlanLoad onRing; try dsimp only
  repeat' (first | exact ⟨_, rfl⟩ | split)

theorem execPlanDrop_onlyMod : ∀ f n s, OnlyMod (execPlanDrop f n s) s := by
  intros; unfold OnlyMod execPlanDrop onRing; try dsimp only
  repeat' (first | exact ⟨_, rfl⟩ | split)

theorem execJobAbort_onlyMod : ∀ f n s, OnlyMod (execJobAbort f n s) s := by
  intros; unfold OnlyMod execJobAbort onRing; try dsimp only
  repeat' (first | exact ⟨_, rfl⟩ | split)

theorem execExwinSet_onlyMod : ∀ f n s, OnlyMod (execExwinSet f n s) s := by
  intros; unfold OnlyMod execExwinSet onRing; try dsimp only
  repeat' (first | exact ⟨_, rfl⟩ | split)

theorem execCopyIn_onlyMod : ∀ f n s, OnlyMod (execCopyIn f n s) s := by
  intros; unfold OnlyMod execCopyIn onRing; try dsimp only
  repeat' (first | exact ⟨_, rfl⟩ | split)

theorem execCopyOut_onlyMod : ∀ f n s, OnlyMod (execCopyOut f n s) s := by
  intros; unfold OnlyMod execCopyOut onRing; try dsimp only
  repeat' (first | exact ⟨_, rfl⟩ | split)

theorem execManifestPut_onlyMod : ∀ f n s, OnlyMod (execManifestPut f n s) s := by
  intros; unfold OnlyMod execManifestPut onRing; try dsimp only
  repeat' (first | exact ⟨_, rfl⟩ | split)

theorem execManifestDrop_onlyMod : ∀ f n s, OnlyMod (execManifestDrop f n s) s := by
  intros; unfold OnlyMod execManifestDrop onRing; try dsimp only
  repeat' (first | exact ⟨_, rfl⟩ | split)

theorem execStoneWrite_onlyMod : ∀ f n s, OnlyMod (execStoneWrite f n s) s := by
  intros; unfold OnlyMod execStoneWrite onRing; try dsimp only
  repeat' (first | exact ⟨_, rfl⟩ | split)

theorem execStoneRecordEntered_onlyMod : ∀ p foff s, OnlyMod (execStoneRecordEntered p foff s) s := by
  intros; unfold OnlyMod execStoneRecordEntered ; try dsimp only
  repeat' (first | exact ⟨_, rfl⟩ | split)

theorem execStoneDelete_onlyMod : ∀ f n s, OnlyMod (execStoneDelete f n s) s := by
  intros; unfold OnlyMod execStoneDelete onRing; try dsimp only
  repeat' (first | exact ⟨_, rfl⟩ | split)

theorem execStoneLoad_onlyMod : ∀ f n s, OnlyMod (execStoneLoad f n s) s := by
  intros; unfold OnlyMod execStoneLoad onRing; try dsimp only
  repeat' (first | exact ⟨_, rfl⟩ | split)

theorem execStoneRecordArrival_onlyMod : ∀ p flashUe s, OnlyMod (execStoneRecordArrival p flashUe s) s := by
  intros; unfold OnlyMod execStoneRecordArrival ; try dsimp only
  repeat' (first | exact ⟨_, rfl⟩ | split)

theorem execLoadZeroingComplete_onlyMod : ∀ p s, OnlyMod (execLoadZeroingComplete p s) s := by
  intros; unfold OnlyMod execLoadZeroingComplete ; try dsimp only
  repeat' (first | exact ⟨_, rfl⟩ | split)

theorem execChainInstall_onlyMod : ∀ f n s, OnlyMod (execChainInstall f n s) s := by
  intros; unfold OnlyMod execChainInstall onRing; try dsimp only
  repeat' (first | exact ⟨_, rfl⟩ | split)

theorem execReqSubmit_onlyMod : ∀ f n s, OnlyMod (execReqSubmit f n s) s := by
  intros; unfold OnlyMod execReqSubmit onRing; try dsimp only
  repeat' (first | exact ⟨_, rfl⟩ | split)

theorem execReqCancel_onlyMod : ∀ f n s, OnlyMod (execReqCancel f n s) s := by
  intros; unfold OnlyMod execReqCancel onRing; try dsimp only
  repeat' (first | exact ⟨_, rfl⟩ | split)

theorem execReqPause_onlyMod : ∀ f n s, OnlyMod (execReqPause f n s) s := by
  intros; unfold OnlyMod execReqPause onRing; try dsimp only
  repeat' (first | exact ⟨_, rfl⟩ | split)

theorem execReqResume_onlyMod : ∀ f n s, OnlyMod (execReqResume f n s) s := by
  intros; unfold OnlyMod execReqResume onRing; try dsimp only
  repeat' (first | exact ⟨_, rfl⟩ | split)

theorem execPartAdmit_onlyMod : ∀ f n s, OnlyMod (execPartAdmit f n s) s := by
  intros; unfold OnlyMod execPartAdmit onRing; try dsimp only
  repeat' (first | exact ⟨_, rfl⟩ | split)

theorem execPartRelease_onlyMod : ∀ f n s, OnlyMod (execPartRelease f n s) s := by
  intros; unfold OnlyMod execPartRelease onRing; try dsimp only
  repeat' (first | exact ⟨_, rfl⟩ | split)

theorem execNsCreate_onlyMod : ∀ f n s, OnlyMod (execNsCreate f n s) s := by
  intros; unfold OnlyMod execNsCreate onRing; try dsimp only
  repeat' (first | exact ⟨_, rfl⟩ | split)

theorem execNsDelete_onlyMod : ∀ f n s, OnlyMod (execNsDelete f n s) s := by
  intros; unfold OnlyMod execNsDelete onRing; try dsimp only
  repeat' (first | exact ⟨_, rfl⟩ | split)

theorem execCxlWindowSet_onlyMod : ∀ f n s, OnlyMod (execCxlWindowSet f n s) s := by
  intros; unfold OnlyMod execCxlWindowSet onRing; try dsimp only
  repeat' (first | exact ⟨_, rfl⟩ | split)

theorem execDomainPut_onlyMod : ∀ f n s, OnlyMod (execDomainPut f n s) s := by
  intros; unfold OnlyMod execDomainPut onRing; try dsimp only
  repeat' (first | exact ⟨_, rfl⟩ | split)

theorem execDomainStart_onlyMod : ∀ f n s, OnlyMod (execDomainStart f n s) s := by
  intros; unfold OnlyMod execDomainStart onRing; try dsimp only
  repeat' (first | exact ⟨_, rfl⟩ | split)

theorem execServingPut_onlyMod : ∀ f n s, OnlyMod (execServingPut f n s) s := by
  intros; unfold OnlyMod execServingPut onRing; try dsimp only
  repeat' (first | exact ⟨_, rfl⟩ | split)

theorem execTransactionGroup_onlyMod : ∀ f n s, OnlyMod (execTransactionGroup f n s) s := by
  intros; unfold OnlyMod execTransactionGroup ; try dsimp only
  repeat' (first | exact ⟨_, rfl⟩ | split)

theorem execCompletionPost_onlyMod : ∀ f n s, OnlyMod (execCompletionPost f n s) s := by
  intros; unfold OnlyMod execCompletionPost ; try dsimp only
  exact ⟨_, rfl⟩

theorem execRingDrainComplete_onlyMod : ∀ f n s, OnlyMod (execRingDrainComplete f n s) s := by
  intros; unfold OnlyMod execRingDrainComplete ; try dsimp only
  repeat' (first | exact ⟨_, rfl⟩ | split)

theorem execHostMemoryError_onlyMod : ∀ f ring s, OnlyMod (execHostMemoryError f ring s) s := by
  intros; unfold OnlyMod execHostMemoryError ; try dsimp only
  repeat' (first | exact ⟨_, rfl⟩ | split)

theorem execMsixCoalesceTimer_onlyMod : ∀ f n s, OnlyMod (execMsixCoalesceTimer f n s) s := by
  intros; unfold OnlyMod execMsixCoalesceTimer ; try dsimp only
  repeat' (first | exact ⟨_, rfl⟩ | split)

theorem execHotReset_onlyMod : ∀ s, OnlyMod (execHotReset s) s := by
  intros; unfold OnlyMod execHotReset ; try dsimp only
  exact ⟨_, rfl⟩

theorem execVfFlr_onlyMod : ∀ p s, OnlyMod (execVfFlr p s) s := by
  intros; unfold OnlyMod execVfFlr ; try dsimp only
  exact ⟨_, rfl⟩

theorem execHostLinkDegraded_onlyMod : ∀ s, OnlyMod (execHostLinkDegraded s) s := by
  intros; unfold OnlyMod execHostLinkDegraded ; try dsimp only
  exact ⟨_, rfl⟩

theorem execRingsLost_onlyMod : ∀ s, OnlyMod (execRingsLost s) s := by
  intros; unfold OnlyMod execRingsLost ; try dsimp only
  repeat' (first | exact ⟨_, rfl⟩ | split)

theorem execRingReset_onlyMod : ∀ f ring w s, OnlyMod (execRingReset f ring w s) s := by
  intros; unfold OnlyMod execRingReset ; try dsimp only
  repeat' (first | exact ⟨_, rfl⟩ | split)

theorem execEventWriteBack_onlyMod : ∀ f w s, OnlyMod (execEventWriteBack f w s) s := by
  intros; unfold OnlyMod execEventWriteBack ; try dsimp only
  repeat' (first | exact ⟨_, rfl⟩ | split)

theorem execNodeAddr_onlyMod : ∀ w s, OnlyMod (execNodeAddr w s) s := by
  intros; unfold OnlyMod execNodeAddr ; try dsimp only
  repeat' (first | exact ⟨_, rfl⟩ | split)

theorem execPortRelease_onlyMod : ∀ w s, OnlyMod (execPortRelease w s) s := by
  intros; unfold OnlyMod execPortRelease ; try dsimp only
  repeat' (first | exact ⟨_, rfl⟩ | split)

theorem execHoldReq_onlyMod : ∀ w s, OnlyMod (execHoldReq w s) s := by
  intros; unfold OnlyMod execHoldReq ; try dsimp only
  repeat' (first | exact ⟨_, rfl⟩ | split)

theorem execTileRetire_onlyMod : ∀ w s, OnlyMod (execTileRetire w s) s := by
  intros; unfold OnlyMod execTileRetire ; try dsimp only
  repeat' (first | exact ⟨_, rfl⟩ | split)

theorem execCfgParityCheck_onlyMod : ∀ f upset s, OnlyMod (execCfgParityCheck f upset s) s := by
  intros; unfold OnlyMod execCfgParityCheck ; try dsimp only
  repeat' (first | exact ⟨_, rfl⟩ | split)

theorem execTelemetryCapture_onlyMod : ∀ m s, OnlyMod (execTelemetryCapture m s) s := by
  intros; unfold OnlyMod execTelemetryCapture ; try dsimp only
  repeat' (first | exact ⟨_, rfl⟩ | split)

theorem execScrub_onlyMod : ∀ line s, OnlyMod (execScrub line s) s := by
  intros; unfold OnlyMod execScrub ; try dsimp only
  repeat' (first | exact ⟨_, rfl⟩ | split)

theorem execHbmPhyCalibration_onlyMod : ∀ bay pc s, OnlyMod (execHbmPhyCalibration bay pc s) s := by
  intros; unfold OnlyMod execHbmPhyCalibration ; try dsimp only
  repeat' (first | exact ⟨_, rfl⟩ | split)

theorem execCorrectedLineRewrite_onlyMod : ∀ line s, OnlyMod (execCorrectedLineRewrite line s) s := by
  intros; unfold OnlyMod execCorrectedLineRewrite ; try dsimp only
  repeat' (first | exact ⟨_, rfl⟩ | split)

theorem execIntervalCheck_onlyMod : ∀ p s, OnlyMod (execIntervalCheck p s) s := by
  intro p s; unfold OnlyMod execIntervalCheck
  extract_lets x
  split
  · exact ⟨s.m, rfl⟩
  · split
    exact ⟨_, rfl⟩

theorem execHbmRowRepair_onlyMod : ∀ bay pc row s, OnlyMod (execHbmRowRepair bay pc row s) s := by
  intros; unfold OnlyMod execHbmRowRepair ; try dsimp only
  repeat' (first | exact ⟨_, rfl⟩ | split)

theorem execReencryptionPage_onlyMod : ∀ p s, OnlyMod (execReencryptionPage p s) s := by
  intros; unfold OnlyMod execReencryptionPage ; try dsimp only
  repeat' (first | exact ⟨_, rfl⟩ | split)

theorem execTierPageAck_onlyMod : ∀ p page s, OnlyMod (execTierPageAck p page s) s := by
  intros; unfold OnlyMod execTierPageAck ; try dsimp only
  repeat' (first | exact ⟨_, rfl⟩ | split)

theorem execCxlDeviceFail_onlyMod : ∀ x s, OnlyMod (execCxlDeviceFail x s) s := by
  intros; unfold OnlyMod execCxlDeviceFail ; try dsimp only
  repeat' (first | exact ⟨_, rfl⟩ | split)

theorem execFlashSpareExhausted_onlyMod : ∀ s, OnlyMod (execFlashSpareExhausted s) s := by
  intros; unfold OnlyMod execFlashSpareExhausted ; try dsimp only
  repeat' (first | exact ⟨_, rfl⟩ | split)

theorem execTileFailed_onlyMod : ∀ t s, OnlyMod (execTileFailed t s) s := by
  intros; unfold OnlyMod execTileFailed ; try dsimp only
  repeat' (first | exact ⟨_, rfl⟩ | split)

theorem execGetVersion_onlyMod : ∀ f msg s, OnlyMod (execGetVersion f msg s) s := by
  intros; unfold OnlyMod execGetVersion onSpdm onDoe; try dsimp only
  repeat' (first | exact ⟨_, rfl⟩ | split)

theorem execGetCapabilities_onlyMod : ∀ f msg s, OnlyMod (execGetCapabilities f msg s) s := by
  intros; unfold OnlyMod execGetCapabilities onSpdm onDoe; try dsimp only
  repeat' (first | exact ⟨_, rfl⟩ | split)

theorem execNegotiateAlgorithms_onlyMod : ∀ f msg s, OnlyMod (execNegotiateAlgorithms f msg s) s := by
  intros; unfold OnlyMod execNegotiateAlgorithms onSpdm onDoe; try dsimp only
  repeat' (first | exact ⟨_, rfl⟩ | split)

theorem execGetDigests_onlyMod : ∀ f msg s, OnlyMod (execGetDigests f msg s) s := by
  intros; unfold OnlyMod execGetDigests onSpdm onDoe; try dsimp only
  repeat' (first | exact ⟨_, rfl⟩ | split)

theorem execGetCertificate_onlyMod : ∀ f msg s, OnlyMod (execGetCertificate f msg s) s := by
  intros; unfold OnlyMod execGetCertificate onSpdm onDoe; try dsimp only
  repeat' (first | exact ⟨_, rfl⟩ | split)

theorem execChallenge_onlyMod : ∀ f msg s, OnlyMod (execChallenge f msg s) s := by
  intros; unfold OnlyMod execChallenge onSpdm onDoe; try dsimp only
  repeat' (first | exact ⟨_, rfl⟩ | split)

theorem execGetMeasurements_onlyMod : ∀ f msg s, OnlyMod (execGetMeasurements f msg s) s := by
  intros; unfold OnlyMod execGetMeasurements onSpdm onDoe; try dsimp only
  repeat' (first | exact ⟨_, rfl⟩ | split)

theorem execChunkSend_onlyMod : ∀ f msg s, OnlyMod (execChunkSend f msg s) s := by
  intros; unfold OnlyMod execChunkSend onDoe; try dsimp only
  repeat' (first | exact ⟨_, rfl⟩ | split)

theorem execChunkGet_onlyMod : ∀ f msg s, OnlyMod (execChunkGet f msg s) s := by
  intros; unfold OnlyMod execChunkGet onDoe; try dsimp only
  repeat' (first | exact ⟨_, rfl⟩ | split)

theorem execUnsupportedRequest_onlyMod : ∀ f msg s, OnlyMod (execUnsupportedRequest f msg s) s := by
  intros; unfold OnlyMod execUnsupportedRequest ; try dsimp only
  repeat' (first | exact ⟨_, rfl⟩ | split)

theorem execEncapGet_onlyMod : ∀ f msg s, OnlyMod (execEncapGet f msg s) s := by
  intros; unfold OnlyMod execEncapGet onKey onSpdm onDoe; try dsimp only
  repeat' (first | exact ⟨_, rfl⟩ | split)

theorem execKeyPut_onlyMod : ∀ f msg s, OnlyMod (execKeyPut f msg s) s := by
  intros; unfold OnlyMod execKeyPut onKey onSpdm onDoe; try dsimp only
  repeat' (first | exact ⟨_, rfl⟩ | split)

theorem execKeyDrop_onlyMod : ∀ f msg s, OnlyMod (execKeyDrop f msg s) s := by
  intros; unfold OnlyMod execKeyDrop onKey onSpdm onDoe; try dsimp only
  repeat' (first | exact ⟨_, rfl⟩ | split)

theorem execTierRotate_onlyMod : ∀ f msg s, OnlyMod (execTierRotate f msg s) s := by
  intros; unfold OnlyMod execTierRotate onKey onSpdm onDoe; try dsimp only
  repeat' (first | exact ⟨_, rfl⟩ | split)

theorem execKeyStatus_onlyMod : ∀ f msg s, OnlyMod (execKeyStatus f msg s) s := by
  intros; unfold OnlyMod execKeyStatus onKey onSpdm onDoe; try dsimp only
  repeat' (first | exact ⟨_, rfl⟩ | split)

theorem execBayZeroingComplete_onlyMod : ∀ bay s, OnlyMod (execBayZeroingComplete bay s) s := by
  intros; unfold OnlyMod execBayZeroingComplete ; try dsimp only
  repeat' (first | exact ⟨_, rfl⟩ | split)

theorem execNamespaceEraseComplete_onlyMod : ∀ p s, OnlyMod (execNamespaceEraseComplete p s) s := by
  intros; unfold OnlyMod execNamespaceEraseComplete ; try dsimp only
  repeat' (first | exact ⟨_, rfl⟩ | split)

theorem execWindowZeroingComplete_onlyMod : ∀ p s, OnlyMod (execWindowZeroingComplete p s) s := by
  intros; unfold OnlyMod execWindowZeroingComplete ; try dsimp only
  repeat' (first | exact ⟨_, rfl⟩ | split)

theorem execCopyComplete_onlyMod : ∀ f n s, OnlyMod (execCopyComplete f n s) s := by
  intros; unfold OnlyMod execCopyComplete ; try dsimp only
  repeat' (first | exact ⟨_, rfl⟩ | split)

theorem execTableBufferWrite_onlyMod : ∀ p buf line data s, OnlyMod (execTableBufferWrite p buf line data s) s := by
  intros; unfold OnlyMod execTableBufferWrite ; try dsimp only
  repeat' (first | exact ⟨_, rfl⟩ | split)

end Sys2Proof.Machine
end

