-- ==== Sys2Proof/WellFormed.lean ====
section
/-!
DEFINITION. Which commands can be spelled at all: operands of unbounded types lie in the ranges that the spec gives the
things they name. Every other operand is bounded by its type.
-/
namespace Sys2Proof

/-- The sensors of Tables OPS-6 and PHY-6: four compute and four base readings, one a stack, in the ranges that 16-bit
fields of R465 carry. -/
def wfSensors (r : Sensors) : Bool :=
  decide (r.compute.length = 4) && decide (r.base.length = 4) && decide (r.hbm.length = 8)
    && (r.compute ++ r.base ++ r.hbm ++ [r.hub, r.inlet, r.outlet]).all (fun t => decide (-32768 ≤ t) && decide (t ≤ 32767))
    && decide (r.flow < 2 ^ 16) && decide (r.pressure < 2 ^ 16)

/-- A line number within its array: 32 MiB of local store, 80 GiB of an HBM stack (R22, R23). -/
def wfLine : LineRef → Bool
  | .localStore _ l => decide (l < 524288)
  | .hbm _ l => decide (l < 0x50000000)

/-- The command can be spelled. -/
def Instr.wellFormed : Instr → Bool
  | .endCmd _ _ => true
  | .sync _ _ => true
  | .repeatCmd _ _ => true
  | .pset _ _ => true
  | .fset _ _ => true
  | .qpush _ _ => true
  | .loadHbm _ => true
  | .storeHbm _ => true
  | .pageGather _ => true
  | .pageScatter _ => true
  | .send _ => true
  | .release _ => true
  | .cxlRead _ => true
  | .cxlWrite _ => true
  | .flashStage _ => true
  | .hostRead _ => true
  | .hostWrite _ => true
  | .matmul _ => true
  | .vload _ => true
  | .vstore _ => true
  | .vop _ => true
  | .trans _ => true
  | .accadd _ => true
  | .select _ => true
  | .seedHw _ => true
  | .cxlGather _ => true
  | .commandComplete _ _ index => decide (index < 4096)
  | .vExternalComplete _ index _ off => decide (index < 4096) && decide (off < 2 ^ 26)
  | .vCommandDeadline _ index => decide (index < 4096)
  | .t0Reached _ => true
  | .furlongBoundary _ => true
  | .planEnd _ => true
  | .streamDeadlock _ => true
  | .booksCheck u => u.all (fun b => decide (1 ≤ b.quantity) && decide (b.quantity ≤ 8))
  | .plannedFlitWatch _ => true
  | .vHoldCheck _ rod => decide (rod < 2 ^ 62)
  | .thermalHoldNotice _ => true
  | .holdStart _ => true
  | .holdEnd _ => true
  | .linkSlot _ => true
  | .flitReceive _ _ fec => decide (fec.errors.length = 5) && fec.markers.all (fun l => decide (l.length = 5))
  | .holdNotice _ => true
  | .init _ => true
  | .kaReq _ => true
  | .kaAck _ => true
  | .kaReqRetry _ => true
  | .swapReq _ => true
  | .laneSwap _ => true
  | .pv _ => true
  | .nakResend _ => true
  | .goBackReplay _ => true
  | .lossOfSymbolLock _ _ => true
  | .prbs31Check _ _ n => decide (n ≤ 2 ^ 20)
  | .alignLost _ => true
  | .trainStart _ => true
  | .trainComplete _ _ _ rt => decide (rt < 2 ^ 12)
  | .trainFailed _ _ => true
  | .calibrateTimeout _ => true
  | .keepaliveExit _ => true
  | .pwrite _ => true
  | .write _ => true
  | .read _ => true
  | .rdata _ => true
  | .status _ => true
  | .chain _ => true
  | .mcast _ => true
  | .packetRoute _ => true
  | .requestTimeout _ _ => true
  | .prepare _ _ _ => true
  | .vote _ _ => true
  | .commit _ _ => true
  | .abandon _ _ => true
  | .abort _ _ => true
  | .freeze _ _ => true
  | .drained _ _ => true
  | .switch _ _ => true
  | .counterSync _ => true
  | .prepareTimeout _ => true
  | .voteTimeout _ => true
  | .reissueDelay _ => true
  | .routeDrain _ => true
  | .teardownComplete _ => true
  | .teardownTimeout _ _ => true
  | .stepCommit _ _ => true
  | .outRelease _ _ => true
  | .stepGate _ => true
  | .stepEnd _ => true
  | .firmwareCommit _ => true
  | .resultRecordPost _ => true
  | .tierMoveComplete _ _ => true
  | .ttlExpiry _ _ => true
  | .sqTailDoorbell _ _ => true
  | .cqHeadDoorbell _ _ => true
  | .resultHeadDoorbell _ _ => true
  | .nop _ _ => true
  | .planLoad _ _ => true
  | .planDrop _ _ => true
  | .jobAbort _ _ => true
  | .exwinSet _ _ => true
  | .copyIn _ _ => true
  | .copyOut _ _ => true
  | .manifestPut _ _ => true
  | .manifestDrop _ _ => true
  | .stoneWrite _ _ => true
  | .stoneRecordEntered _ foff => decide (foff % 4096 = 0)
  | .stoneDelete _ _ => true
  | .stoneLoad _ _ => true
  | .stoneRecordArrival _ _ => true
  | .loadZeroingComplete _ => true
  | .chainInstall _ _ => true
  | .reqSubmit _ _ => true
  | .reqCancel _ _ => true
  | .reqPause _ _ => true
  | .reqResume _ _ => true
  | .partAdmit _ _ => true
  | .partRelease _ _ => true
  | .nsCreate _ _ => true
  | .nsDelete _ _ => true
  | .cxlWindowSet _ _ => true
  | .domainPut _ _ => true
  | .domainStart _ _ => true
  | .servingPut _ _ => true
  | .transactionGroup _ _ => true
  | .completionPost _ _ => true
  | .ringDrainComplete _ _ => true
  | .hostMemoryError _ _ => true
  | .msixCoalesceTimer _ _ => true
  | .hotReset => true
  | .vfFlr _ => true
  | .pf0Flr => true
  | .hostLinkDegraded => true
  | .ringsLost => true
  | .update _ _ => true
  | .ringReset _ _ _ => true
  | .eventWriteBack _ _ => true
  | .nodeAddr _ => true
  | .portRelease _ => true
  | .holdReq _ => true
  | .tileRetire _ => true
  | .recoveryGo => true
  | .firmwareUpdate => true
  | .svnCommit => true
  | .reqStandby _ => true
  | .standbyEntered => true
  | .reqWake _ => true
  | .reqShutdown _ => true
  | .restoreFactory _ _ => true
  | .registerWrite _ _ _ _ => true
  | .cfgParityCheck _ _ => true
  | .clockLocked => true
  | .holdoverEntry _ => true
  | .holdoverExit => true
  | .powerApplied mv _ _ flow => decide (mv < 2 ^ 17) && decide (flow < 2 ^ 16)
  | .secureBoot _ => true
  | .startNoReference => true
  | .startupCalibration _ found => decide (found.cxl0 < 2 ^ 24) && decide (found.cxl1 < 2 ^ 24)
  | .inputUv mv _ _ => decide (mv < 2 ^ 17)
  | .inputOv mv _ => decide (mv < 2 ^ 17)
  | .inputOc ma _ => decide (ma < 2 ^ 20)
  | .leakDetected => true
  | .thermalSample r => wfSensors r
  | .criticalSensorRead r => wfSensors r
  | .telemetryCapture r => wfSensors r.sensors && decide (r.energy.length = 8)
  | .powerOn args => decide (args.length ≤ 32)
  | .powerOff args => decide (args.length ≤ 32)
  | .wake args => decide (args.length ≤ 32)
  | .i3cSelect args => decide (args.length ≤ 32)
  | .i3cDynamicAddress _ => true
  | .scrub l => wfLine l
  | .hbmPhyCalibration _ _ => true
  | .correctedLineRewrite l => wfLine l
  | .intervalCheck _ => true
  | .hbmRowRepair _ _ row => decide (row < 2 ^ 20)
  | .reencryptionPage _ => true
  | .tierPageAck _ page => decide (page < 2 ^ 29)
  | .cxlDeviceFail _ => true
  | .flashSpareExhausted => true
  | .tileFailed _ => true
  | .contextSlice _ => true
  | .getVersion _ msg => decide (msg.length ≤ 4096)
  | .getCapabilities _ msg => decide (msg.length ≤ 4096)
  | .negotiateAlgorithms _ msg => decide (msg.length ≤ 4096)
  | .getDigests _ msg => decide (msg.length ≤ 4096)
  | .getCertificate _ msg => decide (msg.length ≤ 4096)
  | .challenge _ msg => decide (msg.length ≤ 4096)
  | .getMeasurements _ msg => decide (msg.length ≤ 4096)
  | .chunkSend _ msg => decide (msg.length ≤ 4096)
  | .chunkGet _ msg => decide (msg.length ≤ 4096)
  | .unsupportedRequest _ msg => decide (msg.length ≤ 4096)
  | .encapGet _ msg => decide (msg.length ≤ 4096)
  | .keyPut _ msg => decide (msg.length ≤ 4096)
  | .keyDrop _ msg => decide (msg.length ≤ 4096)
  | .tierRotate _ msg => decide (msg.length ≤ 4096)
  | .keyStatus _ msg => decide (msg.length ≤ 4096)
  | .oscFail => true
  | .bayZeroingComplete _ => true
  | .namespaceEraseComplete _ => true
  | .windowZeroingComplete _ => true
  | .copyComplete _ _ => true
  | .tableBufferWrite _ _ line _ => decide (line < 2 ^ 20)

end Sys2Proof
end

