-- ==== Sys2Proof/Tests/Slice0.lean ====
section
/-!
SUPPORT. Small tests of single steps, ill-formed commands that WellFormed refuses, and for every statement with hypotheses
a state and operands that meet them.
-/
namespace Sys2Proof.Tests
open Sys2Proof Sys2Proof.Machine

set_option Elab.async false

/-! ### Small states -/

/-- A state made of the one after reset, in a power state with its clock. -/
def made (g : Mod → Mod) (st : PowerSt := .ready) : State :=
  { State.reset with m := g State.reset.m
                     hub := { State.reset.hub with clock := if st == .ready then .locked else .off
                                                   power := { State.reset.hub.power with st, input := st != .off } } }

/-- Partition 0 of all bays, admitted, its context with its windows. -/
def part0 (g : Partition → Partition) (m : Mod) : Mod :=
  m.updPart 0 (fun x => g { x with admitted := true, bayMask := 0xFF, gen := some 3, ctx := { windows := partWindows } })

/-- Its member in a state. -/
def member (st : MemberSt) (x : Partition) : Partition := { x with member := { x.member with st } }

/-- Its member changed. -/
def mem (g : Member → Member) (x : Partition) : Partition := { x with member := g x.member }

/-- Its plan of two furlongs runs in furlong f, the counter at cycle c. -/
def running (f c : Nat) (x : Partition) : Partition :=
  { member .running x with ctrOn := true, ctr := c, running := true, furlongs := 2, furlong := f }

/-- A command word: the opcode, and values at byte offsets. -/
def word (op : Nat) (fs : List (Nat × Nat)) : CmdWord :=
  BitVec.ofNat 256 (op + (fs.map (fun f => f.2 * 2 ^ (8 * f.1))).foldl (· + ·) 0)

/-- A tile with one command at index 0 of a stream. -/
def tileOf (st : Stream) (w : CmdWord) (x : Tile) : Tile :=
  match st with
  | .access => { x with codeA := [w] }
  | .execute => { x with codeX := [w] }

/-- Tile 0 comes to a command in cycle 10 of furlong 0. -/
def atCmd (st : Stream) (op : Nat) (fs : List (Nat × Nat)) (g : Partition → Partition := id) : State :=
  made (fun m => (part0 (fun x => g (running 0 10 x)) m).updTile 0 (tileOf st (word op fs)))

/-! ### Commands of the tile streams -/

/-- The conditions of an issue, as one Bool each. -/
def comesB (d : OpDef) (p : Part) (t : TileId) (st : Stream) (s : State) : Bool :=
  decide (s.m.partOfTile t = some p) && (s.m.part p).live && !((s.m.tile t).stream st).ended
  && decide (((s.m.tile t).stream st).pc < 4096) && d.carries st && decide (cmdOp (nextWord t st s.m) = d.op)
  && !(s.m.tile t).imemErr.any (fun e => e.1 == st && e.2.1 == ((s.m.tile t).stream st).pc && e.2.2)
  && decide (readyAt d (s.m.tile t) st (nextWord t st s.m) (nowOf p s) = .inl (nowOf p s))
def resolvesB (d : OpDef) (p : Part) (t : TileId) (st : Stream) (s : State) : Bool :=
  comesB d p t st s && decide ((s.m.tile t).badCell (headerCells (s.m.tile t) (nextWord t st s.m)) = none)
  && decide ((checkRefs (issueCtx0 false p t st s.m) (d.refs (nextWord t st s.m))).1 = none)
def issuesB (d : OpDef) (p : Part) (t : TileId) (st : Stream) (s : State) : Bool :=
  resolvesB d p t st s && decide ((d.effect (issuedCtx d p t st s.m)).fault = none)

theorem comes_of {d p t st s} (h : comesB d p t st s = true) : ComesNow d p t st s := by
  simp only [comesB, Bool.and_eq_true, decide_eq_true_eq, Bool.not_eq_true'] at h
  exact ⟨h.1.1.1.1.1.1.1, h.1.1.1.1.1.1.2, h.1.1.1.1.1.2, h.1.1.1.1.2, h.1.1.1.2, h.1.1.2, h.1.2, h.2⟩
theorem resolves_of {d p t st s} (h : resolvesB d p t st s = true) : ResolvesNow d p t st s := by
  simp only [resolvesB, Bool.and_eq_true, decide_eq_true_eq] at h
  exact ⟨comes_of h.1.1, h.1.2, h.2⟩
theorem issues_of {d p t st s} (h : issuesB d p t st s = true) : IssuesNow d p t st s := by
  simp only [issuesB, Bool.and_eq_true, decide_eq_true_eq] at h
  exact ⟨resolves_of h.1, h.2⟩

/-- Tile 0 of a state, changed. -/
def onTile (g : Tile → Tile) (s : State) : State := { s with m := s.m.updTile 0 g }

/-- A line of the local store of tile 0 and lines of stack 0 that cannot be read. -/
def badLines (s : State) : State :=
  { s with m := { s.m with lineErrs := [{ line := .localStore 0 0, double := true }, { line := .hbm 0 0, double := true }] } }

/-- Every row issues; PLOAD of a block that can be read and of one that cannot; a SYNC that waits on a flag that cannot be
read, and a LOAD_HBM whose destination's first line lies beyond the tile. -/
theorem witness_HeaderCommandsIssue :
    IssuesNow syncDef 0 0 .access (atCmd .access 0x01 []) ∧ IssuesNow repeatDef 0 0 .access (atCmd .access 0x02 [(12, 2), (14, 1)])
    ∧ IssuesNow fsetDef 0 0 .execute (atCmd .execute 0x04 [(12, 63), (14, 65535)])
    ∧ IssuesNow qpushDef 0 0 .execute (atCmd .execute 0x05 [(10, 0x1F), (12, 5)])
    ∧ IssuesNow psetDef 0 0 .access (atCmd .access 0x03 [(12, 1)]) ∧ IssuesNow psetDef 0 0 .execute (atCmd .execute 0x03 [(12, 5)])
    ∧ IssuesNow psetDef 0 0 .execute (atCmd .execute 0x03 [(12, 4), (13, 63), (16, 1)])
    ∧ IssuesNow psetDef 0 0 .access (badLines (atCmd .access 0x03 [(12, 1)]))
    ∧ (let s := onTile (fun x => { x with cellErr := [.flag 9], flags := [(9, 1)] }) (atCmd .access 0x01 [(4, 9), (5, 1)])
       ComesNow syncDef 0 0 .access s
         ∧ (s.m.tile 0).badCell (headerCells (s.m.tile 0) (nextWord 0 .access s.m)) = some 9)
    ∧ (let s := atCmd .access 0x10 [(12, 0xFFFFF)]
       ComesNow loadHbmDef 0 0 .access s ∧ (s.m.tile 0).badCell (headerCells (s.m.tile 0) (nextWord 0 .access s.m)) = none
         ∧ (checkRefs (issueCtx0 false 0 0 .access s.m) (loadHbmDef.refs (nextWord 0 .access s.m))).1.isSome = true) := by
  refine ⟨issues_of ?_, issues_of ?_, issues_of ?_, issues_of ?_, issues_of ?_, issues_of ?_, issues_of ?_, issues_of ?_,
    ⟨comes_of ?_, ?_⟩, ⟨comes_of ?_, ?_, ?_⟩⟩ <;> decide +kernel

theorem witness_EndEndsItsStream : IssuesNow endDef 0 0 .execute (atCmd .execute 0x00 [(6, 3), (7, 1)])
    ∧ cmdSig (nextWord 0 .execute (atCmd .execute 0x00 [(6, 3), (7, 1)]).m) = some (3, 1) :=
  ⟨issues_of (by decide +kernel), by decide +kernel⟩

/-- A transfer of one line at line 0 of the partition's stack 0, of the last one, of one beyond it, and one that meets a bad line. -/
theorem witness_HbmTransfersIssue :
    let fits (d : OpDef) (s : State) : Prop :=
      let c := issuedCtx d 0 0 .access s.m
      ResolvesNow d 0 0 .access s ∧ (c.skip = false ∧ (hbmBlock c).1.isSome = true
        ∧ (hbmBlock c).2.1 + (hbmBlock c).2.2.extent ≤ hbmLines)
    let beyond (d : OpDef) (s : State) : Prop :=
      let c := issuedCtx d 0 0 .access s.m
      ResolvesNow d 0 0 .access s ∧ (c.skip = false
        ∧ ((hbmBlock c).1 = none ∨ hbmLines < (hbmBlock c).2.1 + (hbmBlock c).2.2.extent))
    let each (d : OpDef) (op : Nat) : Prop :=
      fits d (atCmd .access op []) ∧ fits d (badLines (atCmd .access op [])) ∧ fits d (atCmd .access op [(16, hbmLines - 1)])
        ∧ beyond d (atCmd .access op [(16, hbmLines)])
    each loadHbmDef 0x10 ∧ each storeHbmDef 0x11 := by
  refine ⟨⟨⟨resolves_of ?_, ?_⟩, ⟨resolves_of ?_, ?_⟩, ⟨resolves_of ?_, ?_⟩, ⟨resolves_of ?_, ?_⟩⟩,
    ⟨⟨resolves_of ?_, ?_⟩, ⟨resolves_of ?_, ?_⟩, ⟨resolves_of ?_, ?_⟩, ⟨resolves_of ?_, ?_⟩⟩⟩ <;> decide +kernel

/-- Entries that are absent, so that no firkin moves, and entries that cannot be read. -/
theorem witness_PagedTransfersIssue :
    let late (d : OpDef) (s : State) : List (Nat × Nat × Nat × Nat) :=
      let c := issuedCtx d 0 0 .access s.m
      pageLate c (c.resolve (cb c.w 16 4)) (pageFault c (c.resolve (cb c.w 16 4)))
    (IssuesNow pageGatherDef 0 0 .access (atCmd .access 0x12 [(24, 1)]) ∧ late pageGatherDef (atCmd .access 0x12 [(24, 1)]) = [])
    ∧ (IssuesNow pageScatterDef 0 0 .access (atCmd .access 0x13 [(24, 1)]) ∧ late pageScatterDef (atCmd .access 0x13 [(24, 1)]) = [])
    ∧ (let s := badLines (atCmd .access 0x12 [(24, 1)])
       IssuesNow pageGatherDef 0 0 .access s ∧ late pageGatherDef s ≠ [])
    ∧ (let s := badLines (atCmd .access 0x13 [(24, 1)])
       IssuesNow pageScatterDef 0 0 .access s ∧ late pageScatterDef s ≠ []) := by
  refine ⟨⟨issues_of ?_, ?_⟩, ⟨issues_of ?_, ?_⟩, ⟨issues_of ?_, ?_⟩, issues_of ?_, ?_⟩ <;> decide +kernel

/-- A command of the execute stream in flight, complete at cycle 10. -/
def flightOf : Inflight :=
  { stream := .execute, index := 4095, iter0 := 0, iter1 := 0, op := 0x2A, issue := 4, complete := 10, skipped := false }

/-- Furlong 1, in which the halves filled in furlong 0 are valid; bin 2 of tile 0 is declared with one line: it is free, a
command in flight reads it, and a V command does. In furlong 0 no half is valid. -/
theorem witness_ReleaseIssues :
    let at1 (g : Tile → Tile) : State := made (fun m => (part0 (running 1 1290) m).updTile 0
      (fun x => g { tileOf .access (word 0x15 [(16, 2)]) x with bins := [0, 0, 0x8000000000000040] }))
    let valid (s : State) : Prop :=
      let c := issuedCtx releaseDef 0 0 .access s.m
      ResolvesNow releaseDef 0 0 .access s ∧ (c.skip = false ∧ c.fur ≠ 0 ∧ releaseBin c.w = 2
        ∧ (s.m.tile 0).released.contains 2 = false ∧ ((s.m.tile 0).bin 2).isSome = true)
    (valid (at1 id) ∧ ((at1 id).m.tile 0).inflight = [] ∧ ((at1 id).m.tile 0).ventries = [])
    ∧ (valid (at1 (fun x => { x with inflight := [{ flightOf with bins := [2], complete := 1291 }] })))
    ∧ (ResolvesNow releaseDef 0 0 .access (atCmd .access 0x15 [])
      ∧ (issuedCtx releaseDef 0 0 .access (atCmd .access 0x15 []).m).fur = 0
      ∧ (issuedCtx releaseDef 0 0 .access (atCmd .access 0x15 []).m).skip = false) := by
  refine ⟨⟨⟨resolves_of ?_, ?_⟩, ?_⟩, ⟨resolves_of ?_, ?_⟩, ⟨resolves_of ?_, ?_⟩⟩ <;> decide +kernel

theorem witness_VCommandsAreHeld :
    let win (x : Partition) : Partition :=
      { x with exwin := some (0, 4096), window := some { extents := [(0, 0, 1)], registered := true, waiting := none } }
    IssuesNow cxlReadDef 0 0 .access (atCmd .access 0x18 [(1, 1), (24, 1)])
    ∧ IssuesNow cxlWriteDef 0 0 .access (atCmd .access 0x19 [(1, 1), (24, 1)])
    ∧ IssuesNow flashStageDef 0 0 .access (atCmd .access 0x1A [(1, 1), (24, 1)])
    ∧ IssuesNow hostReadDef 0 0 .access (atCmd .access 0x1B [(1, 1), (16, 4032), (24, 1)] win)
    ∧ IssuesNow hostWriteDef 0 0 .access (atCmd .access 0x1C [(1, 1), (24, 1)] win)
    ∧ IssuesNow seedHwDef 0 0 .access (atCmd .access 0x1D [(1, 1), (24, 1)])
    ∧ IssuesNow cxlGatherDef 0 0 .access (atCmd .access 0x1E [(1, 1), (24, 1), (26, 1)] win) := by
  refine ⟨issues_of ?_, issues_of ?_, issues_of ?_, issues_of ?_, issues_of ?_, issues_of ?_, issues_of ?_⟩ <;> decide +kernel

theorem witness_VectorFunctionsIssue : IssuesNow vopDef 0 0 .execute (atCmd .execute 0x2A [(12, 1)])
    ∧ IssuesNow transDef 0 0 .execute (atCmd .execute 0x30 [(12, 1), (13, 31)]) := by
  refine ⟨issues_of ?_, issues_of ?_⟩ <;> decide +kernel

theorem witness_VectorTransfersIssue : IssuesNow vloadDef 0 0 .execute (atCmd .execute 0x28 [(16, 31), (17, 7)])
    ∧ IssuesNow vloadDef 0 0 .execute (badLines (atCmd .execute 0x28 [(16, 31), (17, 7)]))
    ∧ IssuesNow vstoreDef 0 0 .execute (atCmd .execute 0x29 [(17, 7)]) := by
  refine ⟨issues_of ?_, issues_of ?_, issues_of ?_⟩ <;> decide +kernel

/-- MATMUL opens set 1 and leaves it open; ACCADD opens and closes set 0; SELECT routes one row. Operands that cannot be read.
A set opened that stands open, one added to that stands closed, and one added to in FJ3 under another anchor. -/
theorem witness_EngineCommandsIssue :
    let e (op : Nat) (fs : List (Nat × Nat)) : State := atCmd .execute op fs
    let opened (a : Int) (s : State) : State := onTile (fun x => { x with sets := #v[{ isOpen := true, anchor := a }, {}] }) s
    let stops (d : OpDef) (zero isOpen : Bool) (s : State) : Prop :=
      let c := issuedCtx d 0 0 .execute s.m
      ResolvesNow d 0 0 .execute s ∧ (c.skip = false ∧ ctlZero c.w = zero ∧ ((s.m.tile 0).set (ctlSet c.w)).isOpen = isOpen)
    IssuesNow matmulDef 0 0 .execute (e 0x20 [(28, 0x77), (29, 0x37)])
    ∧ IssuesNow accaddDef 0 0 .execute (e 0x21 [(29, 0x67)]) ∧ IssuesNow selectDef 0 0 .execute (e 0x38 [(19, 7)])
    ∧ IssuesNow matmulDef 0 0 .execute (badLines (e 0x20 [(28, 0x77), (29, 0x37)]))
    ∧ IssuesNow accaddDef 0 0 .execute (badLines (e 0x21 [(29, 0x67)]))
    ∧ IssuesNow selectDef 0 0 .execute (badLines (e 0x38 [(19, 7)]))
    ∧ stops accaddDef true true (opened 0 (e 0x21 [(29, 0x67)])) ∧ stops accaddDef false false (e 0x21 [])
    ∧ (let s := opened 5 (e 0x21 [])
       let c := issuedCtx accaddDef 0 0 .execute s.m
       stops accaddDef false true s ∧ c.gen = 3 ∧ ((s.m.tile 0).set (ctlSet c.w)).anchor ≠ ctlAnchor c.w) := by
  refine ⟨issues_of ?_, issues_of ?_, issues_of ?_, issues_of ?_, issues_of ?_, issues_of ?_, ⟨resolves_of ?_, ?_⟩,
    ⟨resolves_of ?_, ?_⟩, ⟨⟨resolves_of ?_, ?_⟩, ?_, ?_⟩⟩ <;> decide +kernel

/-- A domain of this module alone, as its descriptor and its serving descriptor say. -/
def alone (digest : BitVec 256 := 0) : DomainDesc :=
  { domain := 5, fexp := 8, sealUse := false, xw := 1, yw := 1, root := 0, greq := 0, hreq := 0, plan := 0
    sealDigest := digest, members := [(0, 0xFF)], links := [], raw := [] }

/-- A domain of this module and one more, with a link from port 0 of this one to port 1 of the other. -/
def pairDomain : DomainDesc :=
  { alone with xw := 2, members := [(0, 0xFF), (1, 0xFF)], links := [{ nodeA := 0, portA := 0, nodeB := 1, portB := 1 }] }

def inDomain (d : DomainDesc) (x : Partition) : Partition := { x with member := { x.member with desc := some d } }

/-- The transfers that the slot tables hold for furlong 0: one flit from tile 0, in slot 8 of port 0 or on this module. -/
def schedule (hops : List (Nat × Nat × Nat)) (x : Partition) : Partition :=
  { inDomain pairDomain x with member := { (inDomain pairDomain x).member with sched := { furlongs := [(0, [{
      member := 0, tile := 0, xfer := 0, dst := 1, dbay := 0, offset := lsWindow, half := 64, readEnd := 4, slots := [8]
      hops, rem := 3 }])] } } }

/-- Before its first slot, and, at cycle 110 of furlong 0, after it. -/
theorem witness_SendIssues :
    let first (e : SendPlan) : Nat := slotCycle (e.slots.headD 0)
    let at' (n : Nat) (bad : Bool) (hops : List (Nat × Nat × Nat)) : State :=
      let s := atCmd .access 0x14 [] (fun x => { schedule hops x with ctr := n })
      let s := onTile (fun x => { x with acc := { x.acc with nextIssue := n } }) s
      if bad then badLines s else s
    let goes (s : State) : Prop := ResolvesNow sendDef 0 0 .access s
      ∧ ∃ e, sendPlan (issuedCtx sendDef 0 0 .access s.m) = some e ∧ nowOf 0 s < first e
    goes (at' 10 false [(0, 0, 0)]) ∧ goes (at' 10 true [(0, 0, 0)]) ∧ goes (at' 10 false [])
    ∧ (ResolvesNow sendDef 0 0 .access (at' 110 false [(0, 0, 0)])
      ∧ ∃ e, sendPlan (issuedCtx sendDef 0 0 .access (at' 110 false [(0, 0, 0)]).m) = some e
          ∧ first e ≤ nowOf 0 (at' 110 false [(0, 0, 0)])) := by
  refine ⟨⟨resolves_of ?_, _, rfl, ?_⟩, ⟨resolves_of ?_, _, rfl, ?_⟩, ⟨resolves_of ?_, _, rfl, ?_⟩,
    resolves_of ?_, _, rfl, ?_⟩ <;> decide +kernel

/-! ### Completions and deadlines -/

def flight : Inflight :=
  { flightOf with push := some (15, 7, 9), sig := some (63, 1), landing := { vreg := some (31, []), writes := [(0, [1])] } }

theorem witness_CommandCompletes :
    let s := made (fun m => (part0 (running 0 10) m).updTile 63 (fun x => { x with inflight := [flight] }))
    s.m.partOfTile 63 = some 0 ∧ (s.m.part 0).live = true ∧
    (s.m.tile 63).inflight.find? (fun i => i.stream == .execute && i.index == 4095) = some flight ∧
    flight.complete = nowOf 0 s ∧ (s.m.store 63).wf = true
    ∧ ((s.m.tile 63).acc.ended && (s.m.tile 63).exe.ended) = false
    ∧ (finalLanding 0 63 flight s.m).vreg = some (31, []) ∧ (finalLanding 0 63 flight s.m).mesh = [] := by decide +kernel

def ventry (op : Nat) (ext : ExtState) : VEntry :=
  { index := 0, iter0 := 0, iter1 := 0, op, issue := 4, deadline := 1280, vhold := 1, used := 0, skipped := false
    entered := false, ext, first := 0, rows := 1, cols := 1, stride := 0, xaddr := 0, data := [], firkins := []
    error := none, touch := [], push := none, sig := some (3, 2) }

def holding (c : Nat) (v : VEntry) : State :=
  made (fun m => (part0 (running 0 c) m).updTile 0 (fun x => { x with ventries := [v] }))

/-- Every opcode with an outcome that fits it, with no error of the access and with one. -/
theorem witness_ExternalPartEnds : ∀ e ∈ [(0x18, ExtOutcome.ok), (0x19, .writeRejected), (0x1A, .ok), (0x1A, .flashUe),
      (0x1B, .ok), (0x1B, .targetAbsent), (0x1C, .ok), (0x1D, .ok), (0x1D, .entropyFailure), (0x1E, .ok)],
    ∀ err ∈ [none, some (3, 64)],
      let v := { ventry e.1 .pending with error := err }
      let s := holding 10 v
      s.m.partOfTile 0 = some 0 ∧ (s.m.tile 0).ventries.find? (·.awaits 0) = some v ∧ outcomeFits v.op e.2 = true := by
  decide +kernel

/-- Bytes of the exchange window that a host which is up takes, and one that is not. -/
theorem witness_host_pages : ∀ up : Bool, let s := holding 10 (ventry 0x1B .pending)
    ({ s with m := { s.m with hostUp := up } } : State).m.hostFault 4096 4032 128 = if up then none else some 0 := by
  decide +kernel

/-- Reads and writes whose data has come, one that is skipped, a SEED_HW, one whose external part runs, and one that failed. -/
theorem witness_DeadlineSettlesVCommand :
    ∀ v ∈ [ventry 0x18 (.done [1]), ventry 0x19 (.done []), { ventry 0x18 .pending with skipped := true },
           { ventry 0x19 .pending with skipped := true }, { ventry 0x1D (.done [1]) with push := some (15, 7, 9) },
           ventry 0x1B .pending, ventry 0x1C (.failed 3 64)],
      let s := holding 1280 v
      s.m.partOfTile 0 = some 0 ∧ (s.m.part 0).live = true ∧
      (s.m.tile 0).ventries.find? (fun v => v.index == 0 && !v.entered) = some v ∧ v.deadline = nowOf 0 s
      ∧ ((s.m.tile 0).acc.ended && (s.m.tile 0).exe.ended) = false := by decide +kernel

/-! ### Plan time -/

/-- Ready or not, and ready with the port of its plan without alignment. -/
theorem witness_T0StartsThePlan : ∀ e ∈ [(true, false), (true, true), (false, false)],
    let s := made (fun m => (part0 (fun x => { schedule [(0, 0, 0)] x with
        ctrOn := true, ctr := 1280
        member := { (schedule [(0, 0, 0)] x).member with st := .committed, t0 := 1280, ready := e.1 } }) m).updPort 0
      (fun x => { x with alignLost := e.2 }))
    (s.m.part 0).member.st = .committed ∧ (s.m.part 0).member.t0 = (s.m.part 0).ctr ∧ (s.m.part 0).member.ready = e.1
    ∧ (s.m.domainPorts 0).any (fun q => (s.m.port q).alignLost && s.m.planUses 0 q) = e.2 := by
  decide +kernel

/-- A planned SEND that has issued, and one that has not; a bin of furlong 1 that is not released. -/
theorem witness_FurlongBoundaryAdvances :
    let planned (f c : Nat) (sent : List Nat) (bin : BitVec 64) : State :=
      made (fun m => (part0 (fun x => { running f c x with member := { (schedule [] x).member with st := .running } }) m).updTile 0
        (fun x => { x with sends := sent, bins := [bin] }))
    let turns (s : State) : Prop := let x := s.m.part 0
      x.live = true ∧ x.ctr = x.furStart (x.furlong + 1) ∧ x.ctr < x.planEnd
    let ends (s : State) : Prop := let x := s.m.part 0
      x.live = true ∧ x.furlong + 1 = x.furlongs ∧ x.ctr = x.planEnd
    let quiet (s : State) : Prop := (∀ q, (s.m.part q).dueFaults = []) ∧ (s.m.part 0).member.st = .running
    (HandedOver 0 (planned 0 1280 [0] 0).m ∧ turns (planned 0 1280 [0] 0))
    ∧ (HandedOver 0 (planned 1 2560 [] 0).m ∧ ends (planned 1 2560 [] 0))
    ∧ (quiet (planned 0 1280 [] 0) ∧ turns (planned 0 1280 [] 0)
      ∧ (∃ e ∈ (planned 0 1280 [] 0).m.part 0 |>.member.sched.sends 0, some e.member = (planned 0 1280 [] 0).m.memberIndex 0 ∧
          ∃ t, ((planned 0 1280 [] 0).m.part 0).tileAt e.tile = some t
            ∧ ((planned 0 1280 [] 0).m.tile t).sends.contains e.xfer = false))
    ∧ (quiet (planned 1 2560 [] 0x8000000000000040) ∧ ends (planned 1 2560 [] 0x8000000000000040)
      ∧ ∃ t ∈ ((planned 1 2560 [] 0x8000000000000040).m.part 0).tiles,
          unreleased ((planned 1 2560 [] 0x8000000000000040).m.tile t) 1 ≠ []) := by
  refine ⟨⟨⟨?_, ?_, ?_⟩, ?_⟩, ⟨⟨?_, ?_, ?_⟩, ?_⟩, ⟨?_, ?_, ?_⟩, ?_, ?_, ?_⟩ <;> decide +kernel

/-- Tile 5 waits on a flag that nothing in flight will signal, at the last cycle of furlong 0. -/
theorem witness_WatchdogAndBooksRaise :
    let w := word 0x01 [(4, 9), (5, 1)]
    let s := made (fun m => (part0 (running 0 1279) m).updTile 5 (fun x => { x with codeA := [w], codeX := [w] }))
    s.m.partOfTile 5 = some 0 ∧ (s.m.part 0).live = true ∧ (s.m.tile 5).deadRaised = false
    ∧ (deadState (s.m.tile 5) (s.m.part 0).ctr).isSome = true
    ∧ (s.m.part 0).ctr = (s.m.part 0).furStart ((s.m.part 0).furlong + 1) - 1 ∧ (s.m.part 0).admitted = true
    ∧ (∀ q ∈ allParts, s.m.booksOut q = [])
    ∧ (made (fun m => (part0 (running 0 1279) m).updPort 0 (fun x => { x with nextSeq := 1 }))).m.booksOut 0
        = [{ part := 0, quantity := 2, object := 0 }] := by
  decide +kernel

/-! ### Holds -/

def holdAt (t e : Nat) : HoldEntry := { target := t, ext := e, reason := rHostRequest, origin := 0 }

/-- At a furlong boundary, off one, COMMITTED before its T0, and the end of a stand extended 15 times. -/
theorem witness_HoldsStopTheCounter :
    let starts (s : State) (t : Nat) : Prop := let x := s.m.part 0
      x.counts = true ∧ (x.member.st = .committed ∨ x.member.st = .running) ∧ x.nextHold = some t ∧ x.ctr = t
    (let s := made (part0 (fun x => { running 0 1280 x with holds := [holdAt 1280 0] }))
     starts s 1280 ∧ 1280 = (s.m.part 0).furStart ((s.m.part 0).furlong + 1) ∧ HandedOver 0 s.m)
    ∧ (let s := made (part0 (fun x => { running 1 1600 x with holds := [holdAt 1600 0] }))
       starts s 1600 ∧ 1600 ≠ (s.m.part 0).furStart ((s.m.part 0).furlong + 1))
    ∧ (let s := made (part0 (fun x => { mem (fun b => { b with t0 := 1280 }) (member .committed x) with
           ctrOn := true, ctr := 320, holds := [holdAt 320 0] }))
       starts s 320 ∧ (s.m.part 0).running = false)
    ∧ (let s := made (fun m => { part0 (fun x => { running 0 320 x with
           holds := [holdAt 320 15], standing := some { target := 320, since := 0 } }) m with wall := 5 * 16 * 128 })
       let x := s.m.part 0
       x.standing = some { target := 320, since := 0 } ∧ x.hold 320 = some (holdAt 320 15)
         ∧ s.m.wall = 0 + 5 * (15 + 1) * x.member.params.h) := by
  refine ⟨⟨?_, ?_, ⟨?_, ?_, ?_⟩⟩, ?_, ?_, ?_⟩ <;> decide +kernel

/-- A planned flit of this member, due at a plan rod. -/
def plannedFlit (d : Nat) : TxFlit :=
  { type := 1, vc := 0, sop := true, eop := true, domain := 5, payload := [], planned := true, deadline := d, rem := 1 }

/-- A good notice of a new hold, or of an extension, at TARGET 320. -/
def notice (ext : Nat) : Bytes :=
  ({ target := 320, ext, reason := 5, domain := 0, origin := 1, port := 0xF, serial := 0, issued := 0 } : Notice).bytes

/-- Flits not at risk; one at risk, with a new hold that still helps, with an extension, and with neither. V checks in a rod of
the plan, in the first rod of a stand, and with G rods of a stand left. The thermal notice in its rod. HOLD_REQ with and
without a plan. A notice of a new hold, of a larger and a smaller extension, and of one in a stand, beside a second port. -/
theorem witness_HoldNoticesAreIssued :
    let watch (c d r : Nat) (es : List HoldEntry) : State :=
      made (fun m => (part0 (fun x => { mem (fun b => { b with params := { b.params with g := 10 } }) (running 0 c x) with
          holds := es }) m).updPort 0 (fun x => { x with replayBuf := [{ seq := 0, flit := { plannedFlit d with rem := r } }] }))
    let risky (s : State) (d r : Nat) : Prop := let x := s.m.part 0
      s.m.partOfPort 0 = some 0 ∧ x.running = true ∧ x.member.st = .running ∧ (s.m.port 0).displacedQ = []
        ∧ (s.m.port 0).replayBuf = [{ seq := 0, flit := { plannedFlit d with rem := r } }]
        ∧ wallSlack x s.m.wall d r ≤ x.member.params.theta
    let held (c : Nat) (g : Nat) (vh : Nat) (st : Option Standing) (es : List HoldEntry) (w : Nat) : State :=
      let s := holding c { ventry 0x18 .pending with vhold := vh }
      { s with m := { s.m.updPart 0 (fun x => { mem (fun b => { b with params := { b.params with g } }) x with
                                                standing := st, holds := es }) with wall := w } }
    let checks (s : State) (rod : Nat) : Prop := let x := s.m.part 0
      0 ∈ x.tiles ∧ x.running = true ∧ (s.m.tile 0).ventries.map (fun v => (v.ext, v.skipped, v.entered, v.used, v.deadline / 5))
          = [(ExtState.pending, false, false, 0, 256)]
        ∧ (x.standing = none → x.live = true ∧ rod = x.rod)
        ∧ ∀ st ∈ x.standing, st.target / 5 ≤ rod ∧ s.m.wall = st.since + 5 * (rod - st.target / 5) ∧ s.m.wall < x.holdEndsAt st
    let asked (ext c : Nat) (es : List HoldEntry) (st : Option Standing) : State :=
      made (fun m => (part0 (fun x => { inDomain pairDomain (running 0 c x) with holds := es, standing := st }) m).updPort 15
        (fun x => { x with rxHold := [(notice ext, 0, 0)] }))
    let told (s : State) (ext : Nat) : Prop := let x := s.m.part 0
      (s.m.port 15).rxHold = [(notice ext, 0, 0)] ∧ noticeGood (notice ext) (s.m.port 15).domain = true
        ∧ s.m.partOfPort 15 = some 0 ∧ x.member.st = .running
        ∧ (x.ctr < (Notice.parse (notice ext)).target
          ∨ ∃ st, x.standing = some st ∧ st.target = (Notice.parse (notice ext)).target)
        ∧ 0 ∈ s.m.domainPorts 0
    let x' (s : State) : Partition := s.m.part 0
    (wallSlack (x' (watch 10 2000 1 [])) 0 2000 1 > (x' (watch 10 2000 1 [])).member.params.theta)
    ∧ (risky (watch 10 100 1 []) 100 1 ∧ chooseNotice (x' (watch 10 100 1 [])) 100 1 = some (320, 0))
    ∧ (risky (watch 50 40 20 [holdAt 100 0]) 40 20 ∧ chooseNotice (x' (watch 50 40 20 [holdAt 100 0])) 40 20 = some (100, 1))
    ∧ (risky (watch 10 60 1 []) 60 1 ∧ chooseNotice (x' (watch 10 60 1 [])) 60 1 = none)
    ∧ (let s := held 955 1 1 none [] 0
       checks s 191 ∧ 256 = (x' s).rod + (x' s).member.params.g + 64)
    ∧ (let s := held 640 64 1 (some { target := 640, since := 0 }) [holdAt 640 0] 0
       checks s 128 ∧ 256 = (x' s).rod + (x' s).member.params.g + 64)
    ∧ (let s := held 960 10 2 (some { target := 960, since := 0 }) [holdAt 960 0] (5 * 118)
       let x := x' s
       checks s (192 + 118) ∧ x.hold 960 = some (holdAt 960 0) ∧ 256 ≠ x.rod + x.member.params.g + 64
         ∧ (0 + 1) * x.member.params.h - (s.m.wall - 0) / 5 = x.member.params.g)
    ∧ (let s := { made (part0 (fun x => { running 0 315 x with thermNext := some 64 })) with
                  hub := { (made id).hub with power := { (made id).hub.power with thermStep := 1 } } }
       let x := x' s
       x.thermNext = some 64 ∧ x.running = true ∧ s.hub.power.thermStep ≠ 0 ∧ 5 * (64 - x.member.params.g) ≤ x.ctr)
    ∧ (∀ r : Bool, let s := made (part0 (if r then running 0 10 else id))
       s.regLive pf0 0x0B00 = true ∧ (0x80000000 : Reg).getLsbD 31 = true ∧ toFin 8 (fld (0x80000000 : Reg) 2 0) = 0
         ∧ (x' s).running = r ∧ (x' s).failing = false)
    ∧ (told (asked 0 10 [] none) 0 ∧ (x' (asked 0 10 [] none)).hold 320 = none)
    ∧ (told (asked 2 10 [holdAt 320 1] none) 2 ∧ (x' (asked 2 10 [holdAt 320 1] none)).hold 320 = some (holdAt 320 1))
    ∧ (told (asked 1 320 [holdAt 320 1] (some { target := 320, since := 0 })) 1
      ∧ (x' (asked 1 320 [holdAt 320 1] (some { target := 320, since := 0 }))).hold 320 = some (holdAt 320 1)) := by
  refine ⟨?_, ?_, ?_, ?_, ?_, ?_, ?_, ?_, ?_, ⟨⟨?_, ?_, ?_, ?_, .inl ?_, ?_⟩, ?_⟩, ⟨⟨?_, ?_, ?_, ?_, .inl ?_, ?_⟩, ?_⟩,
    ⟨⟨?_, ?_, ?_, ?_, .inr ⟨{ target := 320, since := 0 }, ?_, ?_⟩, ?_⟩, ?_⟩⟩ <;> decide +kernel

/-- A new hold just passed, an extension of a hold that ended in this cycle, and a new hold past in a stand at a later TARGET. -/
theorem witness_LateHoldFailsTheDomain : ∀ k ∈ [(321, 0, none), (320, 1, none), (640, 0, some ({ target := 640, since := 0 } : Standing))],
    let s := made (fun m => (part0 (fun x => { inDomain pairDomain (running 0 k.1 x) with standing := k.2.2 }) m).updPort 0
      (fun x => { x with rxHold := [(notice k.2.1, 0, 0)] }))
    let x := s.m.part 0
    (s.m.port 0).rxHold = [(notice k.2.1, 0, 0)] ∧ noticeGood (notice k.2.1) (s.m.port 0).domain = true
    ∧ s.m.partOfPort 0 = some 0 ∧ x.member.st = .running
    ∧ (∀ st ∈ x.standing, st.target ≠ (Notice.parse (notice k.2.1)).target)
    ∧ ((Notice.parse (notice k.2.1)).target < x.ctr
        ∨ ((Notice.parse (notice k.2.1)).target = x.ctr ∧ x.hold (Notice.parse (notice k.2.1)).target = none))
    ∧ x.faultLog.length < 16 ∧ s.m.isDomainPort 0 0 = true := by decide +kernel

/-! ### Links -/

/-- Port 0, changed, on a READY module with partition 0 admitted and no plan. -/
def onPort (g : Port → Port) (w : Nat := 0) : State := made (fun m => (part0 id { m with wall := w }).updPort 0 g)

def flitOf (type vc : Nat) : TxFlit := { type, vc, sop := true, eop := true, domain := 5, payload := [7] }

/-- Port 0, changed, of a running plan at the slot that its tables assign: slot 8, in cycle 20 of furlong 0. -/
def inSlot (g : Port → Port) : State :=
  made (fun m => (part0 (fun x => { running 0 20 x with member := { (schedule [(0, 0, 0)] x).member with st := .running } }) m).updPort 0
    (fun x => g { x with st := .active }))

/-- A slot of port 0 begins. -/
def slotB (s : State) : Bool :=
  decide ((s.m.port 0).st = .active ∨ (s.m.port 0).st = .narrow ∨ (s.m.port 0).st = .calibrate)
  && decide (s.m.nextSlot 0 (max (s.m.port 0).slotAt s.m.wall) = s.m.wall)
  && decide ((s.m.port 0).kaDue = false ∨ s.m.nextFrame 0 s.m.wall ≠ s.m.wall)

theorem slot_of {s} (h : slotB s = true) : SlotBegins 0 s := by
  simp only [slotB, Bool.and_eq_true, decide_eq_true_eq] at h
  exact ⟨h.1.1, h.1.2, h.2⟩

/-- Nothing of orders 1 to 6 is ready. -/
def sevenB (s : State) : Bool :=
  (s.m.port 0).carries && !s.m.slotAssigned 0 && decide (s.m.slotFlit 0 = none)
  && decide ((s.m.port 0).wide = true → (s.m.port 0).txHold = [] ∧ (s.m.port 0).displacedQ = [])
  && decide ((s.m.port 0).replays s.m.wall false = []) && decide ((s.m.port 0).nextLctl = none)
  && decide ((s.m.port 0).txPv = []) && decide ((s.m.port 0).replayBuf.length < 1008)

theorem seven_of {s} (h : sevenB s = true) : OrderSeven 0 s := by
  simp only [sevenB, Bool.and_eq_true, decide_eq_true_eq, Bool.not_eq_true'] at h
  exact ⟨h.1.1.1.1.1.1.1, h.1.1.1.1.1.1.2, h.1.1.1.1.1.2, h.1.1.1.1.2, h.1.1.1.2, h.1.1.2, h.1.2, h.2⟩

/-- A HOLD in a slot without a planned flit, and in one with it; the planned flit alone; an LCTL in CALIBRATE; and nothing. -/
theorem witness_LinkSlotSendsHoldFirst :
    let e : PlannedFlit := { slot := 8, furlong := 0, flit := plannedFlit 100 }
    (let s := onPort (fun x => { x with st := .active, txHold := [flitOf 2 0] })
     SlotBegins 0 s ∧ ((s.m.port 0).wide = true ∧ (s.m.port 0).txHold = [flitOf 2 0] ∧ (s.m.port 0).replayBuf.length < 1024
       ∧ s.m.slotFlit 0 = none))
    ∧ (let s := inSlot (fun x => { x with txHold := [flitOf 2 0], planned := [e] })
       SlotBegins 0 s ∧ ((s.m.port 0).wide = true ∧ (s.m.port 0).txHold = [flitOf 2 0] ∧ (s.m.port 0).replayBuf.length < 1024
         ∧ s.m.slotFlit 0 = some e ∧ (s.m.port 0).displacedQ.length < 256))
    ∧ (let s := inSlot (fun x => { x with planned := [e] })
       SlotBegins 0 s ∧ ((s.m.port 0).carries = true ∧ (s.m.port 0).txHold = [] ∧ (s.m.port 0).replays s.m.wall true = []
         ∧ s.m.slotAssigned 0 = true ∧ s.m.slotFlit 0 = some e ∧ (s.m.port 0).replayBuf.length < 1008))
    ∧ (let s := onPort (fun x => { x with st := .calibrate, txLctl := [lctlFlit 1 []] })
       SlotBegins 0 s ∧ ((s.m.port 0).st = .calibrate ∧ (s.m.port 0).nextLctl = some (lctlFlit 1 [])
         ∧ (s.m.port 0).initRcvd = none ∧ s.m.slotFlit 0 = none))
    ∧ (let s := onPort (fun x => { x with st := .active, nextSeq := 4095 }) 2
       SlotBegins 0 s ∧ ((s.m.port 0).carries = true ∧ s.m.slotAssigned 0 = false ∧ s.m.slotFlit 0 = none
         ∧ (s.m.port 0).pick s.m.wall false none = .idle)) := by
  refine ⟨⟨slot_of ?_, ?_⟩, ⟨slot_of ?_, ?_⟩, ⟨slot_of ?_, ?_⟩, ⟨slot_of ?_, ?_⟩, slot_of ?_, ?_⟩ <;> decide +kernel

/-- VC 5 was served last: VC 1 has a flit and no credit, VC 2 has both, VC 3 too; and no VC has a flit. -/
theorem witness_VcsAreServedInTurn :
    let able (x : Port) (v : Nat) : Bool := !(x.txVc[v - 1]!).isEmpty && decide (0 < x.creditOf v 0)
    (let s := onPort (fun x => { x with st := .active, credits := #v[0, 1, 1, 0, 0]
                                        txVc := #v[[flitOf 1 1], [flitOf 1 2], [flitOf 1 3], [], []] })
     let x := s.m.port 0
     SlotBegins 0 s ∧ OrderSeven 0 s ∧ (able x ((x.lastVc + 0) % 5 + 1) = false ∧ able x ((x.lastVc + 1) % 5 + 1) = true))
    ∧ (let s := onPort (fun x => { x with st := .active })
       let x := s.m.port 0
       SlotBegins 0 s ∧ OrderSeven 0 s ∧ ∀ i < 5, able x ((x.lastVc + i) % 5 + 1) = false) := by
  refine ⟨⟨slot_of ?_, seven_of ?_, ?_⟩, slot_of ?_, seven_of ?_, ?_⟩ <;> decide +kernel

/-- The flit of a header and a payload, checked under a sequence number or as an IDLE. -/
def wireFlit (h : BitVec 64) (payload : Bytes) (n : Option Nat) : BitVec 2048 :=
  let body := leBytes 8 h.toNat ++ sliceB payload 0 240
  BitVec.ofNat 2048 (leNat (body ++ leBytes 8 (flitCheck body (implicitWord n)).toNat))

/-- The bytes of such a flit are its header, its payload and a check that is its own under n alone, and nothing in it is wrong. -/
def sound (g : Port → Port) (h : BitVec 64) (payload : Bytes) (n : Option Nat) : Bool :=
  let x := (onPort (fun x => g { x with st := .active })).m.port 0
  let bytes := leBytes 256 (wireFlit h payload n).toNat
  decide (BitVec.ofNat 64 (leAt bytes 248 8) = flitCheck (sliceB bytes 0 248) (implicitWord n) ∧ n ∈ windowSet x.ack)
  && decide (BitVec.ofNat 64 (leAt bytes 0 8) = h ∧ headerFault x h = none ∧ contentFault x h (sliceB bytes 8 240) = none
    ∧ ((decide (x.rxSlots % 34 ≠ 0) && x.rxDiscard)
        || (x.slotErrors { errors := [], markers := none }).any (fun e => symbolErrors e > 15)) = false)

/-- What the receiver of port 0 takes such a flit for. -/
def SeenAs (g : Port → Port) (h : BitVec 64) (payload : Bytes) (n : Option Nat) : Prop :=
  let x := (onPort (fun x => g { x with st := .active })).m.port 0
  let bytes := leBytes 256 (wireFlit h payload n).toNat
  windowHits x (sliceB bytes 0 248) (BitVec.ofNat 64 (leAt bytes 248 8)) = [n] ∧ BitVec.ofNat 64 (leAt bytes 0 8) = h
    ∧ headerFault x h = none ∧ contentFault x h (sliceB bytes 8 240) = none
    ∧ ((decide (x.rxSlots % 34 ≠ 0) && x.rxDiscard)
        || (x.slotErrors { errors := [], markers := none }).any (fun e => symbolErrors e > 15)) = false

theorem seen_of {g h payload n} (k : sound g h payload n = true) : SeenAs g h payload n := by
  simp only [sound, Bool.and_eq_true, decide_eq_true_eq] at k
  refine ⟨?_, k.2⟩
  rw [k.1.1, flitCheck_eq]
  exact windowHits_check _ _ _ k.1.2

set_option maxRecDepth 100000 in
/-- Good flits, with credit field 1 of no credits: an IDLE, a HOLD of number 0, the first DATA flit of a packet, an older
number, one held already, and one ahead. -/
theorem witness_ReceivedFlitIsClassified :
    let hd (type vc : Nat) (sop : Bool) : BitVec 64 :=
      mkHeader { type, vc, sop, eop := false, domain := 5, payload := [] } 0 0 0 1 0
    SeenAs id (hd 0 0 false) [] none ∧ SeenAs id (hd 2 0 false) [7] (some 0) ∧ SeenAs id (hd 1 1 true) [7] (some 0)
    ∧ SeenAs id (hd 2 0 false) [7] (some 4095) ∧ SeenAs (fun x => { x with held := [(5, 0, [])] }) (hd 2 0 false) [7] (some 5)
    ∧ SeenAs id (hd 2 0 false) [7] (some 63)
    ∧ (3072 ≤ seqDist 4095 0 ∧ seqDist 63 0 < 64 ∧ hType (hd 0 0 false) = 0 ∧ hType (hd 2 0 false) = 2
      ∧ hType (hd 1 1 true) = 1 ∧ hVc (hd 1 1 true) = 1 ∧ hSop (hd 1 1 true) = true ∧ hEop (hd 1 1 true) = false) := by
  refine ⟨seen_of ?_, seen_of ?_, seen_of ?_, seen_of ?_, seen_of ?_, seen_of ?_, ?_⟩ <;> decide +kernel

/-- A port whose counts are in their ranges, and slots that are corrupt: a codeword with 16 symbol errors. -/
theorem witness_spoiled_slot :
    let x := (onPort (fun x => { x with st := .calibrate, winCorrupt := 4095 })).m.port 0
    let fec : FecReport := { errors := [16, 0, 0, 0], markers := some [0, 1, 2, 3, 255] }
    x.st = .calibrate ∧ (∀ ps ∈ fec.markers, mapAgrees x.rxLanes ps = true) ∧ (∀ i < 5, x.winSymbols[i]! + 30 ≤ 131072)
      ∧ x.winCorrupt < 4096 ∧ x.ack < 4096 ∧ (x.slotErrors fec).any (fun e => symbolErrors e > 15) = true := by decide +kernel

/-- INIT with a buffer too large, before this end's INIT has left, and after it, at a full and a narrow port; KA_REQ at a
drained end and at one that is not; KA_ACK; a port due for KEEPALIVE at its frame; a KA_REQ unanswered; and PV. -/
theorem witness_LctlRowsAct :
    let b (first : Nat) : Bytes := leBytes 1 1 ++ leBytes 4 0 ++ ((first :: vcBuffers.drop 1).flatMap (leBytes 2 ·))
    let inits (first : Nat) (g : Port → Port) : Port :=
      (onPort (fun x => g { x with st := .calibrate, rxLctl := [(b first, 0, 0)] })).m.port 0
    let large (first : Nat) : Bool :=
      (((List.range 5).map (fun i => leAt (b first) (5 + 2 * i) 2)).zip vcBuffers).any (fun e => e.1 > e.2)
    (leAt (b 257) 0 1 = 1 ∧ large 257 = true ∧ (inits 257 id).winViol < 64)
    ∧ (leAt (b 256) 0 1 = 1 ∧ large 256 = false ∧ (inits 256 id).st = .calibrate ∧ (inits 256 id).initSent = false)
    ∧ (∀ n : Bool, let x := inits 256 (fun x => { x with initSent := true, narrowBuild := n })
       x.st = .calibrate ∧ x.initSent = true
         ∧ (x.narrowBuild = true ∨ (wantsNarrow x.rxLanes = false ∧ wantsNarrow x.txLanes = false)))
    ∧ (∀ r : Bool, let x := (onPort (fun x => { x with
           st := .active, rxLctl := [([2], 0, 0)]
           replayBuf := [{ seq := 0, flit := if r then lctlFlit 2 [] else flitOf 1 1 }] })).m.port 0
       leAt [2] 0 1 = 2 ∧ x.rxLctl = [([2], 0, 0)] ∧ x.drained = r)
    ∧ leAt [3] 0 1 = 3
    ∧ (let s := onPort (fun x => { x with st := .active, kaRcvd := true, kaSent := some 0 })
       (s.m.port 0).kaDue = true ∧ s.m.nextSlot 0 (max (s.m.port 0).slotAt s.m.wall) = s.m.wall
         ∧ s.m.nextFrame 0 s.m.wall = s.m.wall)
    ∧ (let s := onPort (fun x => { x with st := .active, kaSent := some 5 }) 2005
       (s.m.port 0).kaSent = some 5 ∧ (s.m.port 0).st = .active ∧ (s.m.port 0).kaRcvd = false ∧ 5 + 2000 ≤ s.m.wall) := by
  decide +kernel

/-- Lanes 0 to 3 carry data and lane 4 is the spare. A SWAP_REQ of lane 3 with no plan, in a hold with 85 rods left, with fewer,
and without a spare; the swap at its frame, and before its hold; a bad receive lane; a spare beyond its limit; and a lane
without lock. -/
theorem witness_LanesAreSwapped :
    let b := leBytes 17 4 ++ leBytes 1 3
    let asks (g : Port → Port) (part : Partition → Partition) : State :=
      made (fun m => (part0 part m).updPort 0 (fun x => g { x with st := .active, rxLctl := [(b, 0, 0)] }))
    let planned (t : Option Nat) (x : Partition) : Partition :=
      { running 0 320 x with
        member := { (schedule [(0, 0, 0)] x).member with st := .running }
        holds := t.toList.map (holdAt · 0), standing := t.map ({ target := ·, since := 0 }) }
    let named (s : State) : Prop := let x := s.m.port 0
      x.rxLctl = [(b, 0, 0)] ∧ leAt b 0 1 = 4 ∧ leAt b 17 1 = 3 ∧ (x.txLanes[leAt b 17 1]!).active = true
    let free (s : State) : Prop := let x := s.m.port 0
      x.st ≠ .narrow ∧ (spareLane x.txLanes).isSome = true ∧ x.swapLane = none
    let used (s : State) : Prop := s.m.partOfPort 0 = some 0 ∧ (s.m.part 0).running = true ∧ s.m.planUses 0 0 = true
    (named (asks id id) ∧ free (asks id id) ∧ ((asks id id).m.part 0).running = false)
    ∧ (let s := asks id (planned (some 320))
       named s ∧ free s ∧ used s ∧ (s.m.part 0).standing = some { target := 320, since := 0 }
         ∧ s.m.wall + 425 ≤ (s.m.part 0).holdEndsAt { target := 320, since := 0 })
    ∧ (named (asks id (planned none)) ∧ free (asks id (planned none)) ∧ used (asks id (planned none))
      ∧ ((asks id (planned none)).m.part 0).standing = none)
    ∧ (∀ k ∈ [(none, true), (some 2, false)],
       let s := asks (fun x => { x with swapLane := k.1, txLanes := if k.2 then x.txLanes.set! 4 { failed := true } else x.txLanes }) id
       let x := s.m.port 0
       named s ∧ x.carries = true ∧ x.swapLane ≠ some 3 ∧ ((spareLane x.txLanes).isNone = true ∨ x.swapLane.isSome = true)
         ∧ activeLanes (narrowRoles (x.failTx (3 :: x.swapLane.toList)).txLanes) ≠ [] ∧ activeLanes (narrowRoles x.rxLanes) ≠ [])
    ∧ (∀ t ∈ [none, some 640], let s := asks (fun x => { x with swapLane := some 3, swapTarget := t }) (planned none)
       s.m.nextFrame 0 s.m.wall = s.m.wall ∧ (s.m.port 0).swapLane = some 3 ∧ swapMay 0 s.m = t.isNone
         ∧ spareLane (s.m.port 0).txLanes = some 4)
    ∧ badLanes (((asks id id).m.port 0).rxLanes.set! 2 { active := true, degraded := true }) = [2]
    ∧ ((asks id id).m.port 0).carries = true ∧ ((((asks id id).m.port 0).rxLanes)[4]!).active = false
    ∧ ((((asks id id).m.port 0).rxLanes)[4]!).failed = false ∧ ((asks id id).m.port 0).locked = true
    ∧ ((((asks id id).m.port 0).rxLanes)[0]!).active = true ∧ ((((asks id id).m.port 0).rxLanes)[0]!).failed = false
    ∧ badLanes ((asks id id).m.port 0).rxLanes = [] ∧ (spareLane ((asks id id).m.port 0).rxLanes).isSome = true := by
  refine ⟨?_, ?_, ?_, ?_, ?_, ?_⟩ <;> decide +kernel

/-- A hole due alone, and one of two due; a go-back at the end of its rod, the fourth and the fifth. -/
theorem witness_ReplaysAreTimed :
    (let s := onPort (fun x => { x with holes := [{ seq := 9, lastNak := some 0 }, { seq := 7, lastNak := some 1 }]
                                        latency := some 5 }) (5 * (2 * 1 + 6))
     let x := s.m.port 0
     x.holes = [{ seq := 9, lastNak := some 0 }, { seq := 7, lastNak := some 1 }] ∧ 0 + 5 * (2 * x.hop + 6) ≤ s.m.wall)
    ∧ ∀ n ∈ [3, 4],
        let s := onPort (fun x => { x with st := .narrow, replayBuf := [{ seq := 1, flit := flitOf 1 1 }], goBackRun := n }) 2004
        let x := s.m.port 0
        x.replayBuf ≠ [] ∧ x.carries = true ∧ x.goBackRun = n ∧ x.ackSince + 2000 ≤ s.m.wall
          ∧ (s.m.wall + s.m.rodPhase 0) % 5 = 4 := by
  refine ⟨?_, ?_⟩ <;> decide +kernel

theorem witness_PortsTrain :
    (let s := onPort (fun x => x)
     (s.m.port 0).st = .down ∧ s.hub.clock ≠ .off ∧ ({ s.m.regs with nodeWritten := true } : ModRegs).nodeWritten = true)
    ∧ (let x := (onPort (fun x => { x with st := .train })).m.port 0
       x.st = .train ∧ activeLanes (trainedRoles x.rxLanes 0x1F) ≠ [] ∧ activeLanes (trainedRoles x.txLanes 1) ≠ [])
    ∧ hopRods (ceilDiv 1980 2) ≤ 198 ∧ 198 < hopRods (ceilDiv 1982 2)
    ∧ (let s := onPort (fun x => { x with st := .train }) 300000000
       (s.m.port 0).st = .train ∧ (s.m.port 0).enteredAt + 3 * (if (s.m.port 0).stored then ms 2 else ms 100) ≤ s.m.wall)
    ∧ (let s := onPort (fun x => { x with st := .calibrate }) 100000
       (s.m.port 0).st = .calibrate ∧ (s.m.port 0).enteredAt + us 100 ≤ s.m.wall)
    ∧ (onPort (fun x => { x with st := .keepalive })).m.port 0 = { ({} : Port) with st := .keepalive }
    ∧ (let s := onPort (fun x => { x with st := .active })
       (s.m.port 0).st = .active ∧ ∀ p, s.m.partOfPort 0 = some p → s.m.planUses p 0 = false)
    ∧ (let s := inSlot id
       (s.m.port 0).st = .active ∧ s.m.partOfPort 0 = some 0 ∧ s.m.planUses 0 0 = true) := by
  refine ⟨?_, ?_, ?_, ?_, ?_, ?_, ?_, ?_, ?_⟩ <;> decide +kernel

/-! ### Packets -/

/-- A target is a place, or a status code: the two ways in which an equation with it can hold. -/
def okAs (e : Except Nat BayPlace) (w : BayPlace) : Bool := match e with | .ok v => v == w | .error _ => false
def errAs (e : Except Nat BayPlace) (c : Nat) : Bool := match e with | .ok _ => false | .error d => d == c
theorem okAs_eq {e : Except Nat BayPlace} {w : BayPlace} (h : okAs e w = true) : e = .ok w := by
  cases e <;> simp_all [okAs]
theorem errAs_eq {e : Except Nat BayPlace} {c : Nat} (h : errAs e c = true) : e = .error c := by
  cases e <;> simp_all [errAs]

/-- A packet from node 1 to node dn, of one line. -/
def packetOf (vc kind : Nat) (dn : BitVec 24) (offset tag : Nat) (lines : Nat := 1) : Packet :=
  { vc, header := packetHeader dn 0 kind offset 1 0 (lines - 1) tag 0, body := List.replicate 64 7, flits := 1, since := 0
    domain := 5 }

/-- A running member of the two, its link ACTIVE with a credit on every VC, a packet at the head of a queue of port 0. -/
def withPacket (vc : Nat) (pk : Packet) (g : Partition → Partition := id) (w : Nat := 0) : State :=
  made (fun m => ((part0 (fun x => g (inDomain pairDomain (running 0 10 x))) { m with wall := w }).updPort 0 (fun x =>
    { x with st := .active, credits := #v[1, 1, 1, 1, 1], pkts := x.pkts.set! vc [pk] })).updTile 0 (fun x =>
    { x with bins := [0x8000000000000000] }))

def asking (tag : BitVec 12) (x : Partition) : Partition :=
  { x with member := { x.member with requests := [{ tag, kind := kRead, sentAt := 0, done := none }] } }

/-- No ring acts on a group. -/
def noGroupB (m : Mod) : Bool :=
  allB (fun f : Fn => allB (fun n : PairId => ((m.func f).pair n).busy.all (fun b => !b.group)))
where allB {k : Nat} (g : Fin k → Bool) : Bool := (List.finRange k).all g

theorem noGroup_of {m} (h : noGroupB m = true) : NoGroup m := by
  intro f n b k
  simp only [noGroupB, noGroupB.allB, List.all_eq_true] at h
  have := h f (List.mem_finRange f) n (List.mem_finRange n)
  rw [k] at this
  simpa using this

/-- PWRITE into a receiving half, outside one, of an earlier furlong, and into a stack; RDATA that a request awaits, and that
none does; MCAST that ends here, and that goes on; and CHAIN. -/
theorem witness_ArrivedPacketsLand :
    let lands (s : State) (kind : Nat) (vcs : List Nat) (vc : Nat) (pk : Packet) (w : BayPlace) : Prop :=
      s.m.memWf = true ∧ s.m.partOfPort 0 = some 0 ∧ arrived 0 kind vcs s.m = some (vc, pk)
        ∧ okAs (packetTarget (s.m.part 0) (pkDbay pk.header) (pkOffset pk.header) pk.body.length) w = true
    let plan (x : Partition) : Partition := mem (fun b => { b with sched := { furlongs := [(0, [{
      member := 1, tile := 0, xfer := 0, dst := 0, dbay := 0, offset := lsWindow + 64, half := 64, readEnd := 4, slots := [8]
      hops := [(1, 1, 0)], rem := 3 }])] } }) { x with furlong := 1, ctr := 1280 }
    let p (a : Nat) : Packet := packetOf 0 kPwrite 0 a 3
    let runs (s : State) : Prop := (s.m.part 0).running = true ∧ (s.m.part 0).member.st = .running
    (let s := withPacket 0 (p lsWindow)
     lands s kPwrite [0] 0 (p lsWindow) (.store 0 0) ∧ runs s ∧ s.m.planOf 0 (p lsWindow).header = none
       ∧ inReceiving (s.m.tile 0) (s.m.part 0).furlong (0 / 64) ((p lsWindow).body.length / 64) = true)
    ∧ (let s := withPacket 0 (p (lsWindow + 128))
       lands s kPwrite [0] 0 (p (lsWindow + 128)) (.store 0 128) ∧ runs s ∧ s.m.planOf 0 (p (lsWindow + 128)).header = none
         ∧ inReceiving (s.m.tile 0) (s.m.part 0).furlong (128 / 64) ((p (lsWindow + 128)).body.length / 64) = false)
    ∧ (let s := withPacket 0 (p (lsWindow + 64)) plan
       lands s kPwrite [0] 0 (p (lsWindow + 64)) (.store 0 64) ∧ runs s
         ∧ (s.m.planOf 0 (p (lsWindow + 64)).header).map (·.1) = some 0 ∧ (s.m.part 0).furlong = 1)
    ∧ (lands (withPacket 0 (p 64)) kPwrite [0] 0 (p 64) (.hbm 64) ∧ runs (withPacket 0 (p 64)))
    ∧ (let pk := packetOf 2 kRdata 0 64 4095
       let s := withPacket 2 pk (asking 4095)
       lands s kRdata [2] 2 pk (.hbm 64)
         ∧ ∃ k ∈ (s.m.part 0).member.requests, k.tag = BitVec.ofNat 12 (pkTag pk.header) ∧ k.done = none)
    ∧ (let pk := packetOf 2 kRdata 0 64 4095
       let s := withPacket 2 pk (asking 7)
       arrived 0 kRdata [2] s.m = some (2, pk)
         ∧ ¬ ∃ k ∈ (s.m.part 0).member.requests, k.tag = BitVec.ofNat 12 (pkTag pk.header) ∧ k.done = none)
    ∧ (∀ dn ∈ [0, 1], let pk := packetOf 3 kMcast (BitVec.ofNat 24 dn) 0 0
       let s := withPacket 3 pk
       (s.m.part 0).bayAt (pkDbay pk.header) = some 0
         ∧ okAs (packetTarget (s.m.part 0) 0 (pkOffset pk.header) pk.body.length) (.hbm 0) = true
         ∧ arrived 0 kMcast [3] s.m = some (3, pk) ∧ (pkDnode pk.header = s.m.node ↔ dn = 0)
         ∧ (s.m.part 0).member.desc = some pairDomain ∧ s.m.memberIndex 0 = some 0 ∧ pairDomain.memberOf 1 = some 1
         ∧ mcReaches pairDomain 0 1 (pkMcdir pk.header) = true)
    ∧ (let pk := packetOf 3 kChain 0 0 0
       lands (withPacket 3 pk) kChain [3, 4] 3 pk (.hbm 0) ∧ NoGroup (withPacket 3 pk).m) := by
  refine ⟨?_, ?_, ?_, ?_, ?_, ?_, ?_, ?_, noGroup_of ?_⟩ <;> decide +kernel

/-- A serving descriptor of steps of one furlong, with one request record; its window begins at line 0. -/
def serves (lead : Nat) : ServingDesc :=
  { sf := 1, f0 := 0, sd := 64, sp := 0, nreq := 1, lead, wline := 0, ptline := 65535, npt := 1, ptlines := 1 }

/-- A WRITE with its answer's credit, one inside the clean array of a lead, and one outside the windows; a READ, one of a line
that cannot be read, one outside the windows, and one whose answer has no credit; a STATUS awaited, and not; and a request
unanswered for 10 ms. -/
theorem witness_RequestsAreAnswered :
    let base (s : State) : Prop := s.m.memWf = true ∧ s.m.partOfPort 0 = some 0
    let answers (s : State) (pk : Packet) : Prop :=
      s.m.sourceOf 0 pk = some 1 ∧ s.m.escapePort 0 1 = some 0 ∧ answerCredit 0 1 s.m = true
    let came (s : State) (kind : Nat) (pk : Packet) : Prop := arrived 0 kind [1, 4] s.m = some (1, pk)
    let target (s : State) (pk : Packet) (n : Nat) : Except Nat BayPlace :=
      packetTarget (s.m.part 0) (pkDbay pk.header) (pkOffset pk.header) n
    let w := packetOf 1 kWrite 0 64 1
    let cleanAt := 64 * (serves 0).clean
    let wc := packetOf 1 kWrite 0 cleanAt 1
    let wo := packetOf 1 kWrite 0 (64 * hbmLines) 1
    let r := packetOf 1 kRead 0 0 1 1
    let ro := packetOf 1 kRead 0 (64 * hbmLines) 1 1
    (NoGroup (withPacket 1 w).m ∧ base (withPacket 1 w) ∧ answers (withPacket 1 w) w ∧ came (withPacket 1 w) kWrite w
      ∧ okAs (target (withPacket 1 w) w w.body.length) (.hbm 64) = true ∧ (withPacket 1 w).m.servingWindow 0 = none)
    ∧ (let s := withPacket 1 wc (fun x => { x with serving := { x.serving with desc := some (serves 0) } })
       NoGroup s.m ∧ base s ∧ answers s wc ∧ came s kWrite wc
         ∧ okAs (target s wc wc.body.length) (.hbm cleanAt) = true
         ∧ s.m.servingWindow 0 = some (serves 0, 2, pkDbay wc.header)
         ∧ cleanAt + wc.body.length ≤ 64 * ((serves 0).clean + ceilDiv 2 8) ∧ 8 ∣ wc.body.length)
    ∧ (NoGroup (withPacket 1 wo).m ∧ base (withPacket 1 wo) ∧ answers (withPacket 1 wo) wo ∧ came (withPacket 1 wo) kWrite wo
      ∧ errAs (target (withPacket 1 wo) wo wo.body.length) stWindow = true)
    ∧ (NoGroup (withPacket 1 r).m ∧ base (withPacket 1 r) ∧ answers (withPacket 1 r) r ∧ came (withPacket 1 r) kRead r
      ∧ okAs (target (withPacket 1 r) r (64 * (pkLines r.header + 1))) (.hbm 0) = true
      ∧ readBay (withPacket 1 r).m (pkDbay r.header) (.hbm 0) (64 * (pkLines r.header + 1)) = some (List.replicate 64 0)
      ∧ readBay (badLines (withPacket 1 r)).m (pkDbay r.header) (.hbm 0) (64 * (pkLines r.header + 1)) = none)
    ∧ (NoGroup (withPacket 1 ro).m ∧ answers (withPacket 1 ro) ro ∧ came (withPacket 1 ro) kRead ro
      ∧ errAs (target (withPacket 1 ro) ro (64 * (pkLines ro.header + 1))) stWindow = true)
    ∧ (let s := { withPacket 1 r with m := (withPacket 1 r).m.updPort 0 (fun x => { x with credits := #v[0, 0, 0, 0, 0] }) }
       s.m.sourceOf 0 r = some 1 ∧ answerCredit 0 1 s.m = false ∧ came s kRead r)
    ∧ (∀ tag ∈ [9, 10], arrived 0 kStatus [2] (withPacket 2 (packetOf 2 kStatus 0 255 9) (asking (BitVec.ofNat 12 tag))).m
        = some (2, packetOf 2 kStatus 0 255 9))
    ∧ (let s := withPacket 2 (packetOf 2 kStatus 0 0 0) (asking 9) 10000000
       (s.m.part 0).member.unsent 9 = false
         ∧ (s.m.part 0).member.requests.map (fun r => decide (r.done = none ∧ r.sentAt + 10000000 ≤ s.m.wall)) = [true]) := by
  refine ⟨⟨noGroup_of ?_, ?_⟩, ⟨noGroup_of ?_, ?_⟩, ⟨noGroup_of ?_, ?_⟩, ⟨noGroup_of ?_, ?_⟩, ⟨noGroup_of ?_, ?_⟩, ?_, ?_, ?_⟩
    <;> decide +kernel

/-- A packet of another port's bay toward member 1 goes out on port 0; without a credit it waits; one for this member is
delivered; one to no member is dropped; and the member sends one of its own, or, without a credit or frozen, none. -/
theorem witness_PacketsAreRouted :
    let go (pk : Packet) (c : Nat) : State :=
      made (fun m => ((part0 (fun x => inDomain pairDomain (running 0 10 x)) m).updPort 2 (fun x =>
        { x with pkts := x.pkts.set! 1 [pk] })).updPort 0 (fun x => { x with st := .active, credits := #v[c, c, c, c, c] }))
    let from' (pk : Packet) (c : Nat) (frozen : Bool) : State :=
      made (fun m => (part0 (fun x => mem (fun b => { b with st := .running, originQ := [pk], frozen }) (inDomain pairDomain
        (running 0 10 x))) m).updPort 0 (fun x => { x with st := .active, credits := #v[c, c, c, c, c] }))
    let at2 (s : State) (pk : Packet) : Prop := s.m.partOfPort 2 = some 0 ∧ headPacket 2 1 s.m = some pk
    let starts (s : State) (pk : Packet) : Prop := (s.m.part 0).member.originQ = [pk] ∧ (s.m.part 0).member.st = .running
    let w (dn : BitVec 24) : Packet := packetOf 1 kWrite dn 0 0
    (at2 (go (w 1) 1) (w 1) ∧ routeOf (go (w 1) 1).m 0 (w 1) false = some (.go 0 1))
    ∧ (at2 (go (w 1) 0) (w 1) ∧ routeOf (go (w 1) 0).m 0 (w 1) false = some .wait)
    ∧ (at2 (go (w 0) 0) (w 0) ∧ routeOf (go (w 0) 0).m 0 (w 0) false = some .deliver)
    ∧ (at2 (go (w 9) 1) (w 9) ∧ routeOf (go (w 9) 1).m 0 (w 9) false = none)
    ∧ (starts (from' (w 1) 1 false) (w 1) ∧ (((from' (w 1) 1 false).m.part 0).member.frozen = false)
      ∧ routeOf (from' (w 1) 1 false).m 0 (w 1) true = some (.go 0 1))
    ∧ (starts (from' (w 1) 0 false) (w 1) ∧ routeOf (from' (w 1) 0 false).m 0 (w 1) true = some .wait)
    ∧ (starts (from' (w 1) 1 true) (w 1) ∧ (((from' (w 1) 1 true).m.part 0).member.frozen = true)) := by
  refine ⟨?_, ?_, ?_, ?_, ?_, ?_, ?_⟩ <;> decide +kernel

/-! ### Starting, failing and ending a job domain -/

/-- A message of port 0, whole in one packet on VC MG. -/
def message (l : MgLine) (body : Bytes) : Packet :=
  { vc := 5, header := 0, body := l.bytes ++ body, flits := 1, since := 0, domain := 0 }

/-- A member changed, its port 0 ACTIVE with the message at the head of VC MG. -/
def told (l : MgLine) (body : Bytes) (g : Partition → Partition) (w : Nat := 0) : State :=
  made (fun m => (part0 g { m with wall := w }).updPort 0 (fun x =>
    { x with st := .active, latency := some 7, pkts := x.pkts.set! 5 [message l body] }))

/-- What the row takes. -/
def takes (k : Nat) (s : State) : Bool := (takeMg 0 (some 0) k s.m).isSome
def taken (k : Nat) (s : State) : MgIn × Mod := (takeMg 0 (some 0) k s.m).getD default

def startRec : StartRec :=
  { domain := 5, attempt := 2, since := 0, excl := [], sealed := false, sealDigest := 0, children := [(1, 0)]
    parentPort := none, cause := 0 }

theorem leNat_leBytes (n : Nat) : ∀ x, leNat (leBytes n x) = x % 256 ^ n := by
  induction n with
  | zero => intro x; simp [leBytes, leNat, Nat.mod_one]
  | succ n ih =>
    intro x
    simp only [leBytes, leNat, ih, BitVec.toNat_ofNat]
    have h : x % (256 * 256 ^ n) = x % 256 + 256 * (x / 256 % 256 ^ n) := Nat.mod_mul
    rw [show (256 : Nat) ^ (n + 1) = 256 * 256 ^ n from Nat.pow_succ', h]
theorem length_leBytes (n : Nat) : ∀ x, (leBytes n x).length = n := by
  induction n with
  | zero => intro x; rfl
  | succ n ih => intro x; simp [leBytes, ih]

/-- A digest placed in a message reads back. -/
theorem digest_reads (a r : Bytes) (d : BitVec 256) : BitVec.ofNat 256 (leAt (a ++ leBytes 32 d.toNat ++ r) a.length 32) = d := by
  have h : (List.drop a.length (a ++ leBytes 32 d.toNat ++ r)).take 32 = leBytes 32 d.toNat := by
    rw [List.append_assoc, List.drop_left]
    exact List.take_left' (length_leBytes 32 _)
  simp only [leAt, sliceB, h, length_leBytes]
  simp only [Nat.sub_self, List.replicate_zero, List.append_nil, leNat_leBytes]
  apply BitVec.eq_of_toNat_eq
  simp only [BitVec.toNat_ofNat]
  have : (256 : Nat) ^ 32 = 2 ^ 256 := by decide
  rw [this, Nat.mod_mod, Nat.mod_eq_of_lt d.isLt]

/-- The image of the plan: its generation, FEXP and bays, as the domain names them. -/
def image : Bytes := (List.range 256).map (fun i => if i = 4 then 3 else if i = 20 then 8 else if i = 21 then 8 else 0)

theorem image_fields : imgGen image = 3 ∧ imgFexp image = 8 ∧ imgBays image = 8 := by decide +kernel

/-- The member of a descriptor under root 1, its plan resident. -/
def joiner : DomainDesc := { pairDomain with root := 1, plan := Config.sha3d256 image }
def joining : State :=
  told { mtype := 1, attempt := 1, domain := 5, fexp := 8 } (secondLine (Config.sha3d256 joiner.raw) 0)
    (fun x => { inDomain joiner x with plans := #v[some image, none, none, none] })

theorem joining_plan (x : Partition) (h : x.plans = #v[some image, none, none, none]) : x.slotOf joiner.plan = some 0 := by
  simp [Partition.slotOf, h, joiner, List.findIdx?, List.findIdx?.go]

theorem joining_digest : (taken 1 joining).1.digest = Config.sha3d256 joiner.raw :=
  digest_reads (MgLine.bytes { mtype := 1, attempt := 1, domain := 5, fexp := 8 }) _ _

theorem joining_desc : ((taken 1 joining).2.part 0).member.descFor (taken 1 joining).2.node (taken 1 joining).1.digest = some joiner := by
  have e : ((taken 1 joining).2.part 0).member.desc = some joiner := rfl
  have k : (joiner.memberOf (taken 1 joining).2.node).isSome = true := by decide +kernel
  rw [Member.descFor, e, joining_digest]
  simp [k]

theorem joining_cause : memberCause joining.hub 0 (taken 1 joining).1.line (taken 1 joining).1.sealWord (some joiner)
    (jobStart 0 { fails := 0 } (taken 1 joining).2) = suOk := by
  have h : planBad ((jobStart 0 { fails := 0 } (taken 1 joining).2).part 0) joiner 0 = false := by
    unfold planBad
    rw [joining_plan _ rfl]
    decide +kernel
  have k : joiner.memberOf (jobStart 0 { fails := 0 } (taken 1 joining).2).node = some 0 := by decide +kernel
  simp only [memberCause, k, h]
  decide +kernel

/-- A PREPARE that finds no cause; one of a domain that the member does not hold; one at a running member; 200 ms in PREPARED;
and an ABANDON of the attempt held. -/
theorem witness_MembersPrepare :
    (∃ i m, takeMg 0 (some 0) 1 joining.m = some (i, m) ∧ rivalPorts 0 1 joining.m = []
      ∧ (m.part 0).member.start = none ∧ (m.part 0).member.st = .idle ∧ (m.part 0).member.since ≤ m.wall
      ∧ (m.part 0).member.descFor m.node i.digest = some joiner ∧ joiner.memberOf m.node = some 0 ∧ (m.part 0).admitted = true
      ∧ memberCause joining.hub 0 i.line i.sealWord (some joiner) (jobStart 0 { fails := 0 } m) = suOk
      ∧ (treePlace joiner (i.excl joiner.links.length) 0).2.isSome = true)
    ∧ (∀ st ∈ [MemberSt.idle, .running],
       let s := told { mtype := 1, domain := 6 } [] (member st)
       takes 1 s = true ∧ rivalPorts 0 1 s.m = [] ∧ ((taken 1 s).2.part 0).member = (s.m.part 0).member
         ∧ (s.m.part 0).member.desc = none ∧ (s.m.part 0).member.start = none ∧ (s.m.part 0).member.st = st
         ∧ (s.m.part 0).admitted = true ∧ (s.m.part 0).member.since ≤ s.m.wall
         ∧ memberCause s.hub 0 (taken 1 s).1.line (taken 1 s).1.sealWord none (jobStart 0 { fails := 0 } (taken 1 s).2) = suDesc)
    ∧ (let s := made (fun m => part0 (member .prepared) { m with wall := 200000000 })
       (s.m.part 0).member.st = .prepared ∧ (s.m.part 0).member.since + 200000000 ≤ s.m.wall)
    ∧ (let s := told { mtype := 4, attempt := 2, domain := 5 } [] (fun x => mem (fun b => { b with start := some startRec }) (member .prepared x))
       takes 4 s = true ∧ ((taken 4 s).2.part 0).member = (s.m.part 0).member ∧ (s.m.part 0).member.start = some startRec
         ∧ startRec.attempt = (taken 4 s).1.line.attempt ∧ startRec.domain = (taken 4 s).1.line.domain) := by
  refine ⟨⟨(taken 1 joining).1, (taken 1 joining).2, rfl, by decide +kernel, rfl, rfl, Nat.le_refl 0, joining_desc, by decide +kernel,
    rfl, joining_cause, by decide +kernel⟩, ?_, ?_, ?_⟩ <;> decide +kernel

/-- The VOTE of the one child awaited, and of the first of two; the last at a member, and at the root: with a cause, with a
set-up that fails, and with one. 100 ms without a VOTE, and a delay that has run out. -/
theorem witness_VotesAreGathered :
    let vote (cause : Nat) : MgLine := { mtype := 2, attempt := 2, domain := 5, cause, count := 1 }
    let voting (cause : Nat) (r : StartRec) (g : Member → Member) : State :=
      let s := told (vote cause) [] (fun x => mem (fun b => g { b with start := some r, desc := some pairDomain, rootAttempt := 1 })
        (member .prepared x))
      { s with m := s.m.updPort 1 (fun x => { x with st := .active }) }
    let came (cause : Nat) (r : StartRec) (g : Member → Member) : Prop := let s := voting cause r g
      takes 2 s = true ∧ ((taken 2 s).2.part 0).member = (s.m.part 0).member ∧ (s.m.part 0).member.start = some r
        ∧ r.children.find? (fun c => c.2 == 0) = some (1, 0) ∧ r.voted = false ∧ (taken 2 s).1.line.attempt = r.attempt
        ∧ (taken 2 s).1.line.domain = r.domain ∧ r.votes.any (fun v => v.child == 1) = false
    let next (cause : Nat) (r : StartRec) (g : Member → Member) : StartRec :=
      { r with votes := r.votes ++ [VoteRec.parse 1 (taken 2 (voting cause r g)).1.line (taken 2 (voting cause r g)).1.body] }
    let done (cause : Nat) (r : StartRec) (g : Member → Member) : Bool := (next cause r g).complete (taken 2 (voting cause r g)).2
    let result (cause : Nat) (r : StartRec) (g : Member → Member) : Ballot :=
      ballot 0 (next cause r g) (taken 2 (voting cause r g)).2
    let two := { startRec with children := [(1, 0), (2, 1)] }
    let sealed := { startRec with sealed := true }
    let keeps (b : Member) : Member := { b with retained := some { (default : Retained) with valid := true } }
    (NoGroup (voting 0 two id).m ∧ came 0 two id ∧ done 0 two id = false)
    ∧ (NoGroup (voting 0 { startRec with parentPort := some 3 } id).m ∧ came 0 { startRec with parentPort := some 3 } id
      ∧ done 0 { startRec with parentPort := some 3 } id = true)
    ∧ (NoGroup (voting 3 startRec id).m ∧ came 3 startRec id ∧ done 3 startRec id = true ∧ (result 3 startRec id).cause ≠ 0)
    ∧ (NoGroup (voting 0 sealed id).m ∧ came 0 sealed id ∧ done 0 sealed id = true ∧ (result 0 sealed id).cause = 0
      ∧ (result 0 sealed id).count = pairDomain.xw * pairDomain.yw ∧ ((voting 0 sealed id).m.part 0).member.retained = none)
    ∧ (NoGroup (voting 0 sealed keeps).m ∧ came 0 sealed keeps ∧ done 0 sealed keeps = true ∧ (result 0 sealed keeps).cause = 0
      ∧ (result 0 sealed keeps).count = pairDomain.xw * pairDomain.yw
      ∧ ((voting 0 sealed keeps).m.part 0).member.retained.isSome = true
      ∧ ((voting 0 sealed keeps).m.part 0).member.abortHeld = none ∧ ((voting 0 sealed keeps).m.part 0).member.unlocked = false
      ∧ ((voting 0 sealed keeps).m.part 0).ctrOn = false)
    ∧ (let s := made (fun m => part0 (mem (fun b => { b with preparedAt := some 0, rootAttempt := 7, start := some startRec }))
         { m with wall := 100000000 })
       NoGroup s.m ∧ (s.m.part 0).member.preparedAt = some 0 ∧ 0 + 100000000 ≤ s.m.wall
         ∧ (s.m.part 0).member.start = some startRec ∧ ∀ c ∈ startRec.children, takeMg 0 (some (toFin 16 c.2)) 2 s.m = none)
    ∧ (let s := made (part0 (mem (fun b => { b with reissueAt := some 0, desc := some pairDomain })))
       (s.m.part 0).member.reissueAt = some 0 ∧ 0 ≤ s.m.wall ∧ (s.m.part 0).member.desc = some pairDomain) := by
  refine ⟨⟨noGroup_of ?_, ?_⟩, ⟨noGroup_of ?_, ?_⟩, ⟨noGroup_of ?_, ?_⟩, ⟨noGroup_of ?_, ?_⟩, ⟨noGroup_of ?_, ?_⟩,
    ⟨noGroup_of ?_, ?_⟩, ?_⟩ <;> decide +kernel

/-- A PREPARED member takes a COMMIT with its own seal, and with another. -/
def commitLine : MgLine := { mtype := 3, attempt := 2, domain := 5, fexp := 8, stamp := 100, t0 := 1280 }
def ownSeal : BitVec 256 := sealOf pairDomain commitLine [9]
def committing (w : BitVec 256) (g : Member → Member) : State :=
  told { mtype := 3, attempt := 2, domain := 5, fexp := 8, stamp := 100, t0 := 1280 } (secondLine 0 w ++ [9, 0])
    (fun x => mem (fun b => g { b with attempt := 2, desc := some pairDomain }) (member .prepared x))

theorem committing_seal : (taken 3 (committing ownSeal id)).1.sealWord = ownSeal :=
  digest_reads (MgLine.bytes { mtype := 3, attempt := 2, domain := 5, fexp := 8, stamp := 100, t0 := 1280 }
    ++ leBytes 32 (0 : BitVec 256).toNat) [9, 0] ownSeal

theorem committing_line : (taken 3 (committing ownSeal id)).1.line = commitLine := by decide +kernel

theorem other_seal : (taken 3 (committing (ownSeal ^^^ 1) id)).1.sealWord = ownSeal ^^^ 1 :=
  digest_reads (MgLine.bytes { mtype := 3, attempt := 2, domain := 5, fexp := 8, stamp := 100, t0 := 1280 }
    ++ leBytes 32 (0 : BitVec 256).toNat) [9, 0] (ownSeal ^^^ 1)

theorem other_line : (taken 3 (committing (ownSeal ^^^ 1) id)).1.line = commitLine := by decide +kernel

theorem committing_latency (w : BitVec 256) (h : w = ownSeal ∨ w = ownSeal ^^^ 1) (img : Bytes) :
    (memberSetUp pairDomain img (taken 3 (committing w id)).1).latency = [9] := by
  have k : ∀ e : MgIn, (memberSetUp pairDomain img e).latency = [leAt e.body 128 2] := fun _ => rfl
  rw [k]
  obtain rfl | rfl := h <;> decide +kernel

/-- The message carries the member's own seal, or another. -/
theorem witness_seals (img : Bytes) :
    (let i := (taken 3 (committing ownSeal id)).1
     sealOf pairDomain i.line (memberSetUp pairDomain img i).latency = i.sealWord)
    ∧ (let i := (taken 3 (committing (ownSeal ^^^ 1) id)).1
       sealOf pairDomain i.line (memberSetUp pairDomain img i).latency ≠ i.sealWord) := by
  refine ⟨?_, ?_⟩
  · show sealOf pairDomain _ _ = _
    rw [committing_latency _ (.inl rfl), committing_line, committing_seal]; rfl
  · show sealOf pairDomain _ _ ≠ _
    rw [committing_latency _ (.inr rfl), other_line, other_seal]
    intro h
    have h : ownSeal = ownSeal ^^^ 1 := h
    have k : (ownSeal ^^^ ownSeal) ^^^ 1 = ownSeal ^^^ ownSeal := by rw [BitVec.xor_assoc, ← h]
    rw [BitVec.xor_self] at k
    exact absurd k (by decide)

/-- A COMMIT of the attempt, at a member that nothing has reached, one with a JOB_ABORT held, one that has lost lock, and one
whose T0 has passed; and an ABORT in every state. -/
theorem witness_MembersCommitAndAbort :
    (∀ g ∈ [id, (fun b => { b with abortHeld := some (0, 16) }), (fun (b : Member) => { b with unlocked := true })],
      let x := (committing 0 g).m.part 0
      let i := (taken 3 (committing 0 g)).1
      let m := (taken 3 (committing 0 g)).2
      takes 3 (committing 0 g) = true ∧ noGroupB (committing 0 g).m = true ∧ m.part 0 = x ∧ x.member.desc = some pairDomain
        ∧ x.member.st = .prepared ∧ x.member.attempt = i.line.attempt ∧ i.line.domain = pairDomain.domain ∧ x.member.aborts = []
        ∧ i.line.t0 % (5 * 2 ^ i.line.fexp) = 0 ∧ i.line.t0 < 2 ^ 63 ∧ i.line.sealed = false
        ∧ i.line.stamp + (m.port 0).latency.getD 0 + (m.wall - i.first) ≤ i.line.t0)
    ∧ (let s := told { commitLine with stamp := 1300 } (secondLine 0 0) id
       (taken 3 s).1.line.t0 < (taken 3 s).1.line.stamp + ((taken 3 s).2.port 0).latency.getD 0)
    ∧ ∀ st ∈ [MemberSt.committed, .running, .teardown, .prepared, .idle],
        let s := told { mtype := 5, domain := 5, cause := 0x33 } [] (fun x => inDomain pairDomain (member st x))
        takes 5 s = true ∧ (taken 5 s).2.part 0 = s.m.part 0 ∧ (taken 5 s).1.line.domain = s.m.domainId 0
          ∧ (s.m.part 0).member.st = st ∧ (s.m.part 0).member.aborts.length < 16 := by
  refine ⟨?_, ?_, ?_⟩ <;> decide +kernel

/-- FREEZE from the parent with tree children, at a root and at a leaf that are quiet, and from elsewhere; DRAINED of one child
of two, and of the only one, at the root and at another member; SWITCH; and 20 ms after the root's FREEZE. -/
theorem witness_RoutesChange :
    let under : DomainDesc := { pairDomain with root := 1 }
    let s (k : Nat) (d : DomainDesc) (g : Member → Member) : State :=
      told { mtype := k, domain := 5, count := 1 } [] (fun x => mem g (inDomain d (member .running x)))
    let came (k : Nat) (d : DomainDesc) (g : Member → Member) : Prop :=
      takes k (s k d g) = true ∧ ((taken k (s k d g)).2.part 0).member = ((s k d g).m.part 0).member
        ∧ ((s k d g).m.part 0).member.st = .running ∧ (taken k (s k d g)).1.line.domain = (taken k (s k d g)).2.domainId 0
    let now (k : Nat) (d : DomainDesc) (g : Member → Member) : Member := ((s k d g).m.part 0).member
    let after (k : Nat) (d : DomainDesc) (g : Member → Member) : Mod := (taken k (s k d g)).2
    let frozen (cs : List (Nat × Nat)) (b : Member) : Member := { b with frozen := true, freezeGen := 1, children := cs }
    let below (cs : List (Nat × Nat)) (b : Member) : Member := { b with parentPort := some 0, children := cs }
    (came 6 under (below [(1, 2), (2, 3)]) ∧ (now 6 under (below [(1, 2), (2, 3)])).freezeGen < 1)
    ∧ (came 6 pairDomain id ∧ (after 6 pairDomain id).isRoot 0 = true ∧ (after 6 pairDomain id).quiet 0 = true)
    ∧ (came 6 under (below []) ∧ (after 6 under (below [])).isRoot 0 = false ∧ (after 6 under (below [])).quiet 0 = true)
    ∧ (came 6 under (fun b => { b with parentPort := some 3 }) ∧ (after 6 under (fun b => { b with parentPort := some 3 })).isRoot 0 = false)
    ∧ (came 7 pairDomain (frozen [(1, 0), (2, 3)]) ∧ (now 7 pairDomain (frozen [(1, 0), (2, 3)])).drainedSent = false
      ∧ (now 7 pairDomain (frozen [(1, 0), (2, 3)])).drained = [])
    ∧ (came 7 pairDomain (frozen [(1, 0)]) ∧ (after 7 pairDomain (frozen [(1, 0)])).isRoot 0 = true
      ∧ (after 7 pairDomain (frozen [(1, 0)])).quiet 0 = true)
    ∧ (came 7 under (fun b => { frozen [(1, 0)] b with parentPort := some 3 })
      ∧ (after 7 under (frozen [(1, 0)])).isRoot 0 = false ∧ (after 7 under (frozen [(1, 0)])).quiet 0 = true)
    ∧ (came 8 pairDomain (frozen []) ∧ (now 8 pairDomain (frozen [])).freezeGen = 1)
    ∧ (let s := made (fun m => part0 (fun x => mem (fun b => { b with freezeAt := some 0 }) (inDomain pairDomain (member .running x)))
         { m with wall := 20000000 })
       (s.m.part 0).member.freezeAt = some 0 ∧ s.m.isRoot 0 = true ∧ (s.m.part 0).member.st = .running
         ∧ 0 + 20000000 ≤ s.m.wall) := by
  refine ⟨?_, ?_, ?_, ?_, ?_, ?_, ?_, ?_, ?_⟩ <;> decide +kernel

/-- A drained member of a job that ended, and of one that failed; a port that has not drained, and one that has. -/
theorem witness_TeardownCompletes :
    (∀ k ∈ [none, some 0x33], let s := made (part0 (fun x => mem (fun b => { b with failed := k }) (inDomain pairDomain (member .teardown x))))
     (s.m.part 0).member.st = .teardown ∧ s.hub.power.leaving = none ∧ s.m.tornDown 0 = true ∧ noGroupB s.m = true
       ∧ (s.m.part 0).member.failed = k)
    ∧ (∀ e : Bool, let s := made (fun m => (part0 (fun x => inDomain pairDomain (member .teardown x)) { m with wall := 12000000 }).updPort 0
         (fun x => { x with st := .active, replayBuf := if e then [] else [{ seq := 0, flit := flitOf 1 1 }] }))
       (s.m.part 0).member.st = .teardown ∧ s.hub.power.leaving = none ∧ s.m.isDomainPort 0 0 = true
         ∧ (s.m.part 0).member.since + 12000000 ≤ s.m.wall ∧ (s.m.port 0).empty = e ∧ (s.m.port 0).st ≠ .down) := by
  refine ⟨?_, ?_⟩ <;> decide +kernel

/-! ### Model serving -/

/-- A member of the two with a serving state. -/
def serving (v : ServingDesc) (g : Serving → Serving) (x : Partition) : Partition :=
  { inDomain pairDomain x with serving := g { ({} : Serving) with desc := some v } }

def named (k : Nat) : NameRec := { handle := 7, kind := k, depth := 2, pts := 0, run := 0 }
def table (prev : Nat) : TableCommit := { buf := 0, prev, names := [named 3] }

/-- A request that decodes. -/
def request (st : ReqSt) : Request :=
  { handle := 7, st, k := 5, total := 1, prompt := [1], maxTok := 100, stops := [], depth := 0, lastTok := none, drafts := [] }

/-- A table of step 0 that names the request of handle 7 stands in buffer 0 of bay 0. -/
def tabled (m : Mod) : Mod :=
  let at' (l : Nat) : Nat := 64 * ((serves 0).tableBuf 0 + l)
  { m with hbm := m.hbm.set 0 (((m.hbm.get 0).write (at' 0) (leBytes 8 0 ++ leBytes 8 noStep ++ leBytes 2 1)).write
      (at' (1 + ceilDiv (serves 0).slots 512 + (serves 0).slots / 8)) (leBytes 4 7 ++ List.replicate 4 0 ++ [0, 3])) }

/-- A commit that names a QUEUED request, one of another step, one with a reserved bit, and one without a job; a step without a
commit, one whose predecessor did not run, one whose output buffer is held, one whose buffer was released in its gate cycle,
and one that runs; the end of a step at the lead and at another member; and a line of a table, from a context without the
window, of a buffer that is free, and of one that is locked. -/
theorem witness_StepsRun :
    let win (s : State) : Prop := s.m.servingWindow 0 = some (serves 0, 2, 0)
    let asks (st : MemberSt) : State := made (fun m => part0 (fun x =>
      serving (serves 0) (fun y => { y with requests := [request .queued], submitted := 1 }) (member st x)) (tabled m))
    let rule (s : State) (db : BitVec 64) : Option Nat :=
      let m := refuseFresh 0 (serves 0) 0 (fld db 40 40) s.m
      commitRule m (m.part 0) (serves 0) 0 db
    let gate (g : Serving → Serving) : State := made (part0 (fun x => serving (serves 0) g (running 0 0 x)))
    let comes (s : State) : Prop := let x := s.m.part 0
      win s ∧ x.running = true ∧ x.serving.nextStep < x.stepCount (serves 0)
        ∧ x.furStart ((serves 0).firstFurlong x.serving.nextStep) ≤ x.ctr ∧ (serves 0).firstFurlong x.serving.nextStep ≤ x.furlong
    let run (s : State) : Option (Nat × Nat) := ((s.m.part 0).closeStep (serves 0)).serving.lastRun
    let k : TableCommit := table noStep
    let line (free : Bool) (w : List CtxPlace) : State := made (part0 (fun x => { serving (serves 0) (fun y =>
      { y with commit := if free then none else some k }) x with ctx := { windows := w } }))
    (win (asks .committed) ∧ rule (asks .committed) 0 = none ∧ rule (asks .committed) (1 <<< 63) = some 5
      ∧ rule (asks .committed) 1 = some 1 ∧ rule (asks .idle) 0 = some 1
      ∧ (((asks .committed).m.nameRec (serves 0) 0 0 0).handle, ((asks .committed).m.part 0).serving.live 7) = (7, some (request .queued)))
    ∧ (comes (gate id) ∧ ((gate id).m.part 0).serving.commit = none)
    ∧ (comes (gate (fun y => { y with commit := some (table 0) })) ∧ (0 : Nat) ≠ noStep
      ∧ run (gate (fun y => { y with commit := some (table 0) })) = none)
    ∧ (∀ r : Bool, let s := gate (fun y => { y with commit := some k, outBusy := if r then [] else [0]
                                                    releasedAt := if r then [(0, 0)] else [] })
       comes s ∧ k.prev = noStep ∧ (s.m.part 0).serving.nextOut = 0 ∧ (s.m.part 0).furStart 0 ≤ 0)
    ∧ (comes (gate (fun y => { y with commit := some k })) ∧ ((gate (fun y => { y with commit := some k })).m.part 0).serving.outBusy = []
      ∧ ((gate (fun y => { y with commit := some k })).m.part 0).serving.releasedAt = [])
    ∧ (∀ lead ∈ [0, 1], let s := made (part0 (fun x => serving (serves lead) (fun y => { y with nextStep := 1 }) (running 1 1280 x)))
       let x := s.m.part 0
       s.m.servingAs 0 = some (serves lead, 0) ∧ (serves lead).firstFurlong (x.serving.ended + 1) ≤ x.furlongsDone
         ∧ x.serving.ended < x.stepCount (serves lead) ∧ x.serving.ended < x.serving.nextStep ∧ x.serving.requests = []
         ∧ s.m.servingWindow 0 = (if lead = 0 then some (serves 0, 2, 0) else none) ∧ (s.m.hbm.get (toFin 8 0)).wf = true
         ∧ x.member.desc = some pairDomain ∧ pairDomain.members[(serves 1).lead]? = some (1, 0xFF))
    ∧ (∀ free : Bool, ∀ w ∈ [[], partWindows], let s := line free w
       win s ∧ 10 < (serves 0).tlines ∧ s.m.memWf = true ∧ (s.m.part 0).tableLocked (serves 0) 0 = !free
         ∧ (s.m.part 0).ctx.windows.contains .servingWindow = !w.isEmpty) := by
  refine ⟨?_, ?_, ?_, ?_, ?_, ?_, ?_⟩ <;> decide +kernel

/-- The clean array and the output record of step 0 stand in bay 0: record of handle 7, KIN 5, KADV 1, NTOK 1. -/
def cleaned (m : Mod) : Mod :=
  { m with hbm := m.hbm.set 0 (((m.hbm.get 0).write (64 * (serves 0).clean) (leBytes 8 1 ++ leBytes 8 1)).write
      (64 * (serves 0).outBuf 0) (leBytes 4 7 ++ leBytes 4 5 ++ [1, 0, 1, 0] ++ leBytes 4 0 ++ leBytes 4 77)) }

def ran : StepRec := { step := 0, ran := true, buf := 0, out := 0, names := [named 3] }

/-- The result ring of VF 0 runs with 64 entries. -/
def withResult (st : RingSt) (m : Mod) : Mod :=
  m.updFunc (vfOf 0) (fun x => { x with result := { x.result with st, ctrl := { shadow := 13, active := 13 } } })

def aRecord : ResultRec := { handle := 7, k := 6, step := 0, ntok := 1, endCode := 0, total := 2, tokens := [77] }

/-- A clean step that names a request: from a context without the window, one whose END stands, one with a bad output record, one
that decodes, and a prefill that goes on, and that ends; a buffer to release; a record to post, one whose write fails, and a
ring that drains; a pausing and a decoding request with a move; and an expiry in READY and in STANDBY. -/
theorem witness_RequestsAreServed :
    let commits (q : Request) (nr : NameRec) (w : List CtxPlace) : State :=
      made (fun m => part0 (fun x => { serving (serves 0) (fun y => { y with
        steps := [{ ran with names := [nr] }], ended := 1, requests := [q], outBusy := [0] }) x with ctx := { windows := w } }) (cleaned m))
    let names (q : Request) (nr : NameRec) : Prop := let s := commits q nr partWindows
      s.m.servingWindow 0 = some (serves 0, 2, 0) ∧ (s.m.part 0).serving.steps = [{ ran with names := [nr] }]
        ∧ ran.step < (s.m.part 0).serving.ended ∧ s.m.allClean 0 ran.step = true ∧ noGroupB s.m = true
        ∧ (s.m.part 0).ctx.windows.contains .servingWindow = true ∧ (s.m.part 0).serving.numbered nr.id = some q
    let good (q : Request) (nr : NameRec) : Bool := outGood nr q ((commits q nr partWindows).m.outRec (serves 0) 0 0 0)
    let kept (q : Request) (nr : NameRec) : List Reg × Nat := let s := commits q nr partWindows
      keepTokens (s.m.part 0).gen q (({ (s.m.part 0).serving with steps := [] } : Serving).bound { q with k := q.k + 1 })
        (s.m.outRec (serves 0) 0 0 0)
    let d := request .decode
    let posts (st : RingSt) : State :=
      made (fun m => part0 (serving (serves 0) (fun y => { y with records := [aRecord] })) (withResult st m))
    let moves (st : ReqSt) : State := made (part0 (fun x =>
      { serving (serves 0) (fun y => { y with requests := [request st] }) x with
        window := some { extents := [(0, 0, 1)], registered := true, waiting := none } }))
    (let s := commits d (named 3) []
     s.m.servingWindow 0 = some (serves 0, 2, 0) ∧ ran.step < (s.m.part 0).serving.ended ∧ s.m.allClean 0 ran.step = true
       ∧ (s.m.part 0).ctx.windows.contains .servingWindow = false)
    ∧ (names { d with st := .ended, endPosted := true } (named 3))
    ∧ (names { d with k := 6 } (named 3) ∧ good { d with k := 6 } (named 3) = false)
    ∧ (names d (named 3) ∧ good d (named 3) = true ∧ kept d (named 3) = ([77], 0))
    ∧ (names { d with st := .prefill } (named 3) ∧ good { d with st := .prefill } (named 3) = true
      ∧ kept { d with st := .prefill } (named 3) = ([77], 0))
    ∧ (names { d with st := .prefill } { named 2 with run := 1 } ∧ good { d with st := .prefill } { named 2 with run := 1 } = true
      ∧ kept { d with st := .prefill } { named 2 with run := 1 } = ([77], 0))
    ∧ (let y := ((made (part0 (serving (serves 0) (fun y => { y with toRelease := [1] })))).m.part 0).serving
       y.toRelease.contains 1 = true ∧ y.records.any (fun r => r.out == some 1) = false)
    ∧ (∀ fails : Bool, let s := posts .running
       let s := if fails then { s with m := { s.m with hostUp := false } } else s
       let g := (s.m.func (vfOf 0)).result
       s.hub.power.st = .ready ∧ (s.m.part 0).serving.records = [aRecord] ∧ g.st = .running ∧ s.m.holdsBack 0 aRecord = false
         ∧ g.tail < g.size ∧ g.used + 1 ≤ g.size ∧ s.m.dmaFails (g.base + 64 * g.tail) 64 = fails
         ∧ (fails = false → s.m.dmaFails g.wb 8 = false))
    ∧ ((posts .draining).m.func (vfOf 0)).result.st = .draining
    ∧ (∀ st ∈ [ReqSt.endingPause, .decode], let s := moves st
       (s.m.part 0).serving.live 7 = some (request st) ∧ (s.m.part 0).serving.desc = some (serves 0)
         ∧ (s.m.part 0).extents = some [(0, 0, 1)] ∧ s.hub.power.st = .ready ∧ noGroupB s.m = true
         ∧ (s.m.part 0).ctx.windows.contains .tierMover = true ∧ (request st).held (s.m.part 0) (serves 0) = false)
    ∧ ∀ st ∈ [PowerSt.ready, .standby],
        let q := { request .paused with expiry := some 9 }
        let s := made (fun m => part0 (serving (serves 0) (fun y => { y with requests := [q] })) { m with wall := 9000000000 }) st
        (s.m.part 0).serving.live q.handle = some q ∧ s.m.aonAt + 9 * 10 ^ 9 ≤ s.m.wall ∧ s.hub.power.st = st
          ∧ s.hub.power.wakeTtl = true ∧ s.hub.power.waking = false := by
  refine ⟨?_, ?_, ?_, ?_, ?_, ?_, ?_, ?_, ?_, ?_, ?_⟩ <;> decide +kernel

/-! ### Descriptors of the host -/

/-- A descriptor: values at byte offsets. -/
def descriptor (op : Nat) (fs : List (Nat × Nat)) : Bytes :=
  leBytes 64 (op + (fs.map (fun f => f.2 * 256 ^ f.1)).foldl (· + ·) 0)

/-- Ring pair 0 of a function runs with 64 entries and holds a descriptor; host memory has further bytes at 4096. -/
def ring (f : Fn) (b : Bytes) (g : Mod → Mod := id) (more : Bytes := []) : State :=
  made (fun m => g (updPair f 0 (fun r => { r with st := .running, tail := 1, ctrl := { shadow := 13, active := 13 } })
    { m with hostMem := Mem.cells 0 b ++ Mem.cells 4096 more }))

def vf0 : Fn := vfOf 0

/-- The conditions under which a ring takes a descriptor, as one Bool, and with its checks. -/
def takesB (d : HostOp) (f : Fn) (n : PairId) (b : Bytes) (s : State) : Bool :=
  decide (s.hub.power.st = .ready) && s.m.takes f n d.op && decide (s.m.headDesc f n = some b) && decide (dOpcode b = d.op)
  && decide (dGrp b = 0) && !s.m.waitsGroup f n b
  && !s.m.outrun f n ((s.m.func f).pair n).headAt (descPart f b).toList && !d.waits f b s.m
def passesB (d : HostOp) (f : Fn) (n : PairId) (b : Bytes) (s : State) : Bool :=
  takesB d f n b s && decide (d.checks f b (updPair f n (·.took d b) s.m) = none)

theorem takes_of {d f n b s} (h : takesB d f n b s = true) : TakesOp d f n b s := by
  simp only [takesB, Bool.and_eq_true, decide_eq_true_eq, Bool.not_eq_true'] at h
  exact ⟨h.1.1.1.1.1.1.1, h.1.1.1.1.1.1.2, h.1.1.1.1.1.2, h.1.1.1.1.2, h.1.1.1.2, h.1.1.2, h.1.2, h.2⟩
theorem passes_of {d f n b s} (h : passesB d f n b s = true) : PassesOp d f n b s := by
  simp only [passesB, Bool.and_eq_true, decide_eq_true_eq] at h
  exact ⟨takes_of h.1, h.2⟩

theorem witness_FailedChecksRefuse :
    ∀ e ∈ [(nopDef, vf0, descriptor 1 [(63, 1)], (2, 63)), (exwinSetDef, vf0, descriptor 5 [(16, 1)], (3, 16)),
           (partReleaseDef, pf0, descriptor 0x21 [(16, 7)], (3, 16)), (reqCancelDef, vf0, descriptor 0x19 [(16, 9)], (0x72, 0)),
           (domainStartDef, pf0, descriptor 0x26 [(16, 255)], (3, 16))],
      let s := ring e.2.1 e.2.2.1 (part0 id)
      TakesOp e.1 e.2.1 0 e.2.2.1 s ∧ e.1.checks e.2.1 e.2.2.1 (updPair e.2.1 0 (·.took e.1 e.2.2.1) s.m) = some e.2.2.2 := by
  intro e he
  simp only [List.mem_cons, List.not_mem_nil, or_false] at he
  obtain rfl | rfl | rfl | rfl | rfl := he <;> refine ⟨takes_of ?_, ?_⟩ <;> decide +kernel

/-- The image of a PLAN_LOAD has any verdict: the two clauses take them all. -/
theorem witness_PlanRowsAct :
    PassesOp nopDef pf0 0 (descriptor 1 [(1, 4), (4, 77)]) (ring pf0 (descriptor 1 [(1, 4), (4, 77)]))
    ∧ PassesOp planLoadDef vf0 0 (descriptor 2 [(16, 4096), (24, 256), (28, 3)])
        (ring vf0 (descriptor 2 [(16, 4096), (24, 256), (28, 3)]) (part0 id) image)
    ∧ PassesOp planDropDef vf0 0 (descriptor 3 [(28, 3)]) (ring vf0 (descriptor 3 [(28, 3)]) (part0 id))
    ∧ (∀ st ∈ [MemberSt.committed, .running, .prepared, .idle, .teardown],
        PassesOp jobAbortDef vf0 0 (descriptor 4 []) (ring vf0 (descriptor 4 []) (part0 (member st)))
          ∧ ((ring vf0 (descriptor 4 []) (part0 (member st))).m.part 0).member.st = st)
    ∧ PassesOp exwinSetDef vf0 0 (descriptor 5 [(16, 4096), (24, 2 ^ 36)])
        (ring vf0 (descriptor 5 [(16, 4096), (24, 2 ^ 36)]) (part0 id))
    ∧ PassesOp exwinSetDef vf0 0 (descriptor 5 []) (ring vf0 (descriptor 5 []) (part0 id))
    ∧ PassesOp copyInDef vf0 0 (descriptor 6 [(16, 4096), (24, 1), (28, 7), (32, hbmLines - 1)])
        (ring vf0 (descriptor 6 [(16, 4096), (24, 1), (28, 7), (32, hbmLines - 1)]) (part0 id))
    ∧ PassesOp copyOutDef vf0 0 (descriptor 7 [(16, 4096), (24, 2 ^ 20)])
        (ring vf0 (descriptor 7 [(16, 4096), (24, 2 ^ 20)]) (part0 id)) := by
  refine ⟨?_, ?_, ?_, ?_, ?_, ?_, ?_, ?_⟩
  case refine_4 =>
    intro st h
    simp only [List.mem_cons, List.not_mem_nil, or_false] at h
    obtain rfl | rfl | rfl | rfl | rfl := h <;> refine ⟨passes_of ?_, ?_⟩ <;> decide +kernel
  all_goals refine passes_of ?_; decide +kernel

/-- The descriptor of a domain of node 0 alone, id 5, as DOMAIN_PUT delivers it. -/
def rawAlone : Bytes :=
  [5, 0, 8, 0, 1, 0, 1, 0] ++ List.replicate 120 0 ++ [0, 0, 0, 0xFF, 0, 0, 0, 0]

/-- Every row of PF0; NS_DELETE and DOMAIN_START of a partition that has what they name, and of one that has not. -/
theorem witness_PartitionRowsAct :
    let ok (d : HostOp) (b : Bytes) (g : Mod → Mod := id) (more : Bytes := []) : Prop :=
      PassesOp d pf0 0 b (ring pf0 b g more) ∧ descPart pf0 b = some 0
    let bays (m : Mod) : Mod := { m with hbmGood := 0xFF }
    let dev (m : Mod) : Mod := part0 id { m with cxl := m.cxl.set 0 { present := true, gib := 128 } }
    ok partAdmitDef (descriptor 0x20 [(17, 0xFF), (18, 700), (20, 16384)]) bays
    ∧ ok partReleaseDef (descriptor 0x21 []) (part0 id)
    ∧ ok nsCreateDef (descriptor 0x22 [(20, 1)]) (part0 id)
    ∧ ok nsDeleteDef (descriptor 0x23 []) (part0 (fun x => { x with ns := some { granules := 1 } }))
    ∧ ok nsDeleteDef (descriptor 0x23 []) (part0 id)
    ∧ ok cxlWindowSetDef (descriptor 0x24 [(24, 4096), (32, 1)]) dev [0, 0, 0, 1, 0]
    ∧ ok domainPutDef (descriptor 0x25 [(24, 4096), (32, 136)]) (part0 id) rawAlone
    ∧ ok domainStartDef (descriptor 0x26 []) (part0 (inDomain alone))
    ∧ ok domainStartDef (descriptor 0x26 []) (part0 id)
    ∧ ok servingPutDef (descriptor 0x27 [(32, 1), (36, 64), (40, 1), (48, 65536), (52, 1), (54, 1)]) (part0 id)
    ∧ ∀ k, (((ring pf0 (descriptor 0x21 []) (part0 id)).m.func (vfOf 0)).pair k).busy = none := by
  refine ⟨⟨passes_of ?_, ?_⟩, ⟨passes_of ?_, ?_⟩, ⟨passes_of ?_, ?_⟩, ⟨passes_of ?_, ?_⟩, ⟨passes_of ?_, ?_⟩,
    ⟨passes_of ?_, ?_⟩, ⟨passes_of ?_, ?_⟩, ⟨passes_of ?_, ?_⟩, ⟨passes_of ?_, ?_⟩, ⟨passes_of ?_, ?_⟩, ?_⟩ <;> decide +kernel

/-! ### Weights, requests and the ends of long operations -/

def aManifest : Manifest := { model := 9, mver := 1, owner := 0, entries := [(3, 1, 0)] }

/-- A partition with a manifest of MODEL 9, its stone key and a namespace of 1 GiB. -/
def weights (dir : List DirRec) (x : Partition) : Partition :=
  { x with manifests := [aManifest], ns := some { granules := 1, dir := dir }
           keys := { x.keys with models := x.keys.models.set! 0 { model := some 9, stoneKey := some 1, ownerKey := some [1] } } }

def aRecordDir : DirRec := { foff := 0, model := 9, index := 3, version := 1 }
def anEntry : LoadEntry := { index := 3, foff := 0, tier := false, bay := 0, loc := 0 }
def aLoad : LoadJob := { ring := (1, 16), model := 9, entries := [anEntry] }

theorem noDeletion_of {f n x} (h : x.ns.all (fun k => k.dir.all (fun r => r.deleting.isNone)) = true) : NoDeletionAt f n x := by
  intro ns e r hr k hk
  rw [e] at h
  simp only [Option.all_some, List.all_eq_true] at h
  have := h r hr
  simp [hk] at this

/-- The two verdicts of a manifest are both met, since its digest is not fixed. A delete of no record, of one that nothing reads,
and of one that a load reads; an install at a member that is not its first, and of this member alone. -/
theorem witness_WeightRowsAct :
    let ok (d : HostOp) (b : Bytes) (g : Mod → Mod) (more : Bytes := []) : Prop := PassesOp d vf0 0 b (ring vf0 b g more)
    let loads (x : Partition) : Partition := { weights [aRecordDir] x with load := some aLoad }
    let install (first last : Nat) : Bytes := descriptor 0x15 [(16, 4096), (24, 1), (28, 1), (29, 2), (30, first), (32, last), (48, 9)]
    let chained (dir : List DirRec) (x : Partition) : Partition := weights dir (inDomain pairDomain (running 0 10 x))
    ok manifestPutDef (descriptor 0x10 [(16, 4096), (24, 128)]) (part0 id)
    ∧ ok manifestDropDef (descriptor 0x11 [(16, 9)]) (part0 (weights []))
    ∧ ok stoneWriteDef (descriptor 0x12 [(16, 4096), (24, 4096)]) (part0 (weights []))
    ∧ ok stoneDeleteDef (descriptor 0x13 []) (part0 (weights []))
    ∧ (ok stoneDeleteDef (descriptor 0x13 []) (part0 (weights [aRecordDir]))
      ∧ (ring vf0 (descriptor 0x13 []) (part0 (weights [aRecordDir]))).m.recordRead 0 0 = false)
    ∧ (ok stoneDeleteDef (descriptor 0x13 []) (part0 loads)
      ∧ (ring vf0 (descriptor 0x13 []) (part0 loads)).m.recordRead 0 0 = true)
    ∧ ok stoneLoadDef (descriptor 0x14 [(16, 4096), (24, 1), (28, 4), (32, 9)]) (part0 (weights [aRecordDir])) [3]
    ∧ (let s := ring vf0 (install 1 0) (part0 (chained []))
       ok chainInstallDef (install 1 0) (part0 (chained [])) ∧ NoDeletionAt vf0 0 (s.m.part 0)
         ∧ ((s.m.part 0).member.desc = some pairDomain ∧ s.m.memberIndex 0 = some 0 ∧ 0 ≠ leAt (install 1 0) 30 2
           ∧ chainFoffs s.m (install 1 0) ≠ []))
    ∧ (let s := ring vf0 (install 0 0) (part0 (chained [aRecordDir]))
       ok chainInstallDef (install 0 0) (part0 (chained [aRecordDir])) ∧ NoDeletionAt vf0 0 (s.m.part 0)
         ∧ (s.m.memberIndex 0 = some 0 ∧ 0 = leAt (install 0 0) 30 2 ∧ 0 = leAt (install 0 0) 32 2)) := by
  refine ⟨passes_of ?_, passes_of ?_, passes_of ?_, passes_of ?_, ⟨passes_of ?_, ?_⟩, ⟨passes_of ?_, ?_⟩, passes_of ?_,
    ⟨passes_of ?_, noDeletion_of ?_, ?_⟩, ⟨passes_of ?_, noDeletion_of ?_, ?_⟩⟩ <;> decide +kernel

/-- A cancel of a request that waits, of a paused one, of one that an accepted step names, of one that none names, and of one
that is ending. -/
theorem witness_RequestRowsAct :
    let ok (d : HostOp) (b : Bytes) (g : Mod → Mod) (more : Bytes := []) : Prop := PassesOp d vf0 0 b (ring vf0 b g more)
    let asks (st : ReqSt) (x : Partition) : Partition :=
      { serving (serves 0) (fun y => { y with requests := [{ request st with expiry := if st = .paused then some 9 else none }] }) x
        with ttlShare := 1 }
    let cancels (g : Partition → Partition) (st : ReqSt) : Prop := ok reqCancelDef (descriptor 0x19 [(16, 7)]) (part0 g)
      ∧ (((ring vf0 (descriptor 0x19 [(16, 7)]) (part0 g)).m.part 0).serving.live 7).map (·.st) = some st
    let named (x : Partition) : Partition := { asks .decode x with serving := { (asks .decode x).serving with commit := some (table 0) } }
    ok reqSubmitDef (descriptor 0x18 [(16, 7), (20, 3), (24, 4096), (32, 100), (36, 4), (37, 7), (40, 1)]) (part0 id) [1, 0, 0, 0, 2]
    ∧ cancels (asks .queued) .queued ∧ cancels (asks .paused) .paused ∧ cancels (asks .ending) .ending
    ∧ (cancels (asks .decode) .decode
      ∧ (request .decode).held ((ring vf0 (descriptor 0x19 [(16, 7)]) (part0 (asks .decode))).m.part 0) (serves 0) = false)
    ∧ (cancels named .decode ∧ (request .decode).held ((ring vf0 (descriptor 0x19 [(16, 7)]) (part0 named)).m.part 0) (serves 0) = true)
    ∧ ok reqPauseDef (descriptor 0x1A [(16, 7), (20, 86400)]) (part0 (asks .decode))
    ∧ ok reqResumeDef (descriptor 0x1B [(16, 7)]) (part0 (asks .paused)) := by
  refine ⟨passes_of ?_, ⟨passes_of ?_, ?_⟩, ⟨passes_of ?_, ?_⟩, ⟨passes_of ?_, ?_⟩, ⟨⟨passes_of ?_, ?_⟩, ?_⟩,
    ⟨⟨passes_of ?_, ?_⟩, ?_⟩, passes_of ?_, passes_of ?_⟩ <;> decide +kernel

/-- A copy of one line in progress on a ring of the VF. -/
def copying (op : Nat) (g : Mod → Mod := id) : State :=
  made (fun m => g (updPair vf0 15 (fun r => { r with busy := some {
    no := 1, opcode := op, tag := 77, index := 0, irq := true
    body := descriptor op [(16, 4096), (24, 1), (28, 7), (32, hbmLines - 1)] } }) (part0 id m)))

/-- A copy into and out of HBM, with a host that answers and one that does not, and out of a line that cannot be read. -/
theorem witness_LongOperationsEnd :
    let goes (s : State) (op : Nat) (fails bad : Bool) : Prop :=
      s.m.memWf = true ∧ (((s.m.func vf0).pair 15).busy).any (fun k =>
          k.group == false && k.lost == false && copyPlace (s.m.part 0) k.body == some (7, 64 * (hbmLines - 1)) && k.opcode == op
            && s.m.dmaFails (leAt k.body 16 8) (64 * leAt k.body 24 4) == fails && leAt k.body 24 4 == 1) = true
        ∧ partOfFn vf0 = some 0 ∧ s.m.lineBad (.hbm 7 (64 * (hbmLines - 1) / 64 + 0)) = bad
    (∀ op ∈ [6, 7], goes (copying op) op false false ∧ goes (copying op (fun m => { m with hostUp := false })) op true false)
    ∧ goes (copying 7 (fun m => { m with lineErrs := [{ line := .hbm 7 (hbmLines - 1), double := true }] })) 7 false true
    ∧ (let s := made (fun m => { m with zeroing := 0x80 })
       s.m.memWf = true ∧ s.m.zeroing.getLsbD (7 : Fin 8).val = true)
    ∧ (let s := made (part0 (fun x => { x with nsErasing := some (0, 16) }))
       s.m.memWf = true ∧ (s.m.part 0).nsErasing = some (0, 16))
    ∧ (let w : Window := { extents := [(0, 0, 1)], registered := false, waiting := some (0, 16) }
       let s := made (part0 (fun x => { x with window := some w }))
       s.m.memWf = true ∧ (s.m.part 0).window = some w ∧ w.waiting = some (0, 16)) := by
  refine ⟨?_, ?_, ?_, ?_, ?_⟩ <;> decide +kernel

/-- A stone record: its pages, then a trailer with the magic number and nothing else. -/
@[irreducible] def aStone : Bytes := List.replicate (stoneBytes + 32) 0 ++ ([0x53, 0x53, 0x54, 0x52] ++ List.replicate 4060 0)

theorem aStone_length : aStone.length = recordBytes := by
  simp only [aStone, List.length_append, List.length_replicate]; decide +kernel

theorem aStone_trailer : (Mem.cells 0 aStone).read (0 + stoneBytes) 36 = List.replicate 32 0 ++ [0x53, 0x53, 0x54, 0x52] := by
  have h : aStone = List.replicate stoneBytes 0 ++ (List.replicate 32 0 ++ ([0x53, 0x53, 0x54, 0x52] ++ List.replicate 4060 0)) := by
    rw [aStone, ← List.replicate_append_replicate, List.append_assoc]
  have k := read_cells (List.replicate stoneBytes 0) (List.replicate 32 0 ++ ([0x53, 0x53, 0x54, 0x52] ++ List.replicate 4060 0))
    0 36 (by rw [List.length_append, List.length_append, List.length_replicate, List.length_replicate]; decide)
  rw [List.length_replicate] at k
  rw [h, k, ← List.append_assoc]
  exact List.take_left' (by decide)

/-- The record waits to be written from host memory at 0. -/
def storing (foff : Nat) (g : Mod → Mod := id) : State :=
  made (fun m => g (part0 (fun x => { x with ns := some { granules := 1 }, stoneWrites := [(foff, 0, 1, 16)] })
    { m with hostMem := Mem.cells 0 aStone }))

theorem storing_read : (storing 0).m.hostMem.read 0 recordBytes = aStone := by
  have h := read_cells [] aStone 0 recordBytes (Nat.le_of_eq aStone_length.symm)
  rw [← aStone_length, List.take_length] at h
  rw [← aStone_length]
  exact h

theorem enters (bs : Bytes) (h : (Trailer.parse ((Mem.cells 0 bs).read (0 + stoneBytes) 36)).magic = true) :
    ∃ ns', let stored := ({ granules := 1 } : Namespace).store 0 bs
      stored.enter 0 (stored.trailer 0) = some ns' := by
  have k : (({ granules := 1 } : Namespace).store 0 bs).data = Mem.cells 0 bs := by simp [Namespace.store, Mem.write]
  have d : (({ granules := 1 } : Namespace).store 0 bs).dir = [] := rfl
  rw [Nat.zero_add] at h
  simp [Namespace.enter, Namespace.trailer, d, k, h]

theorem aStone_magic : (Trailer.parse ((Mem.cells 0 aStone).read (0 + stoneBytes) 36)).magic = true := by
  rw [aStone_trailer]
  decide +kernel

/-- What a load of the entry finds of the record, whatever its check says. -/
def loading (g : LoadJob → LoadJob) : State := made (part0 (fun x => { weights [aRecordDir] x with load := some (g aLoad) }))

theorem storing_wf (foff : Nat) : (storing foff).m.memWf = true := by
  rw [memWf_iff]
  exact ⟨fun k => ((memWf_iff _).1 reset_memWf).1 k, fun k => ((memWf_iff _).1 reset_memWf).2.1 k, (cells_wf aStone 0).1,
    fun k => ((memWf_iff _).1 reset_memWf).2.2.2 k⟩

/-- No operation of a group waits at a record. -/
theorem alone_of {k m} (h : ((m.func (toFin 9 k.1)).pair (toFin 16 k.2)).busy.all (fun b => !b.group) = true) : AloneAt k m := by
  intro b e
  rw [e] at h
  simpa using h

/-- An install of one record at member 0, which has landed whole and has not been checked. -/
def landed : ChainJob :=
  { ring := (1, 16), dir := 1, first := 1, last := 0, model := 9, foffs := [0], nland := 2, bay := 0, line := 0
    got := (List.range chainPackets).map (0, ·) }

theorem landed_whole : landed.whole 0 = true := by
  rw [ChainJob.whole, List.all_eq_true]
  intro i hi
  rw [List.contains_iff_mem]
  exact List.mem_map.2 ⟨i, hi, rfl⟩

theorem landed_waits : landed.waiting 0 = some 0 := by
  have l : landed.foffs = [0] := rfl
  have k : landed.kept = [] := rfl
  simp [ChainJob.waiting, l, k, landed_whole, List.range_succ]

/-- A write refused, one whose host does not answer, one that is entered, and one that cannot be entered; a record of an install;
the last record of a load and the first of two, into a stack and into the tier; and a load that has failed. -/
theorem witness_StonesArrive :
    let waits (s : State) (foff : Nat) : Prop := s.m.memWf = true ∧ AloneAt (1, 16) s.m ∧ (s.hub.power.st = .ready
      ∧ (s.m.part 0).stoneWrites.find? (fun k => k.1 == foff) = some (foff, 0, 1, 16))
    let loads (l : LoadJob) : Prop := let s := loading (fun _ => l)
      let x := s.m.part 0
      s.m.memWf = true ∧ s.hub.power.st = .ready ∧ x.load = some l ∧ l.failed = none
        ∧ x.manifest l.model = some aManifest ∧ x.slotKey l.keySlot = some 1 ∧ x.ns = some { granules := 1, dir := [aRecordDir] }
        ∧ l.entries[l.pos]?.any (fun e => e.tier || x.bayAt e.bay == some 0) = true
    (waits (storing 0 (part0 (fun x => { x with ns := none }))) 0
      ∧ (stoneWriteRefusal (storing 0 (part0 (fun x => { x with ns := none }))).m 0 0).isSome = true)
    ∧ (waits (storing 0 (fun m => { m with hostUp := false })) 0 ∧ (stoneWriteRefusal (storing 0 (fun m => { m with hostUp := false })).m 0 0 = none
      ∧ (storing 0 (fun m => { m with hostUp := false })).m.dmaFails 0 recordBytes = true))
    ∧ (waits (storing 0) 0 ∧ (stoneWriteRefusal (storing 0).m 0 0 = none ∧ ((storing 0).m.part 0).ns = some { granules := 1 }
      ∧ (storing 0).m.dmaFails 0 recordBytes = false)
      ∧ ∃ ns', let stored := ({ granules := 1 } : Namespace).store 0 ((storing 0).m.hostMem.read 0 recordBytes)
          stored.enter 0 (stored.trailer 0) = some ns')
    ∧ (waits (storing 1) 1 ∧ (stoneWriteRefusal (storing 1).m 0 1 = none ∧ (storing 1).m.dmaFails 0 recordBytes = false)
      ∧ let stored := ({ granules := 1 } : Namespace).store 1 ((storing 1).m.hostMem.read 0 recordBytes)
        stored.enter 1 (stored.trailer 1) = none)
    ∧ (let s := made (part0 (fun x => { weights [] (running 0 10 x) with chain := some landed }))
       landed.waiting 0 = some 0 ∧ AloneAt landed.ring s.m ∧ (s.m.memWf = true ∧ s.hub.power.st = .ready ∧ (s.m.part 0).stoneWrites = []
         ∧ (s.m.part 0).chain = some landed ∧ (s.m.part 0).member.st = .running))
    ∧ (loads aLoad ∧ loads { aLoad with entries := [anEntry, anEntry] } ∧ loads { aLoad with entries := [{ anEntry with tier := true }] })
    ∧ (let s := loading (fun l => { l with failed := some (0, 0x57) })
       let x := s.m.part 0
       AloneAt aLoad.ring s.m ∧ NoDeletionAt (toFin 9 aLoad.ring.1) (toFin 16 aLoad.ring.2) x
         ∧ (s.m.memWf = true ∧ x.load = some { aLoad with failed := some (0, 0x57) })) := by
  have wf (g : Mod → Mod) (h : ∀ m, (g m).memWf = m.memWf) : (storing 0 g).m.memWf = true := (h _).trans (storing_wf 0)
  refine ⟨⟨⟨?_, alone_of ?_, ?_⟩, ?_⟩, ⟨⟨?_, alone_of ?_, ?_⟩, ?_⟩, ⟨⟨storing_wf 0, alone_of ?_, ?_⟩, ?_, ?_⟩,
    ⟨⟨storing_wf 1, alone_of ?_, ?_⟩, ?_, ?_⟩, ⟨landed_waits, alone_of ?_, ?_⟩, ?_, ⟨alone_of ?_, noDeletion_of ?_, ?_⟩⟩
  case refine_1 => exact wf _ (fun _ => rfl)
  case refine_5 => exact wf _ (fun _ => rfl)
  case refine_12 => rw [storing_read]; exact enters aStone aStone_magic
  case refine_16 => simp [Namespace.enter, pageBytes]
  all_goals decide +kernel

/-! ### Rings, groups, resets and registers -/

/-- A ready module with its ring pair 0 of a VF changed; the partition of the VF is admitted. -/
def pairIs (g : RingPair → RingPair) : State :=
  made (fun m => updPair vf0 0 (fun r => g { r with st := .running, ctrl := { shadow := 13, active := 13 } }) (part0 id m))

def aCompl : Compl := { tag := 77, index := 0, head := 1, status := 0, detail := 0, result := 0, irq := true }

/-- Doorbells that break no rule, and each that breaks one, of a READY module; one at a partition that is not admitted; one in
STANDBY, with and without WAKE_DB; completions with room, across the end of the ring, without it, and to a host that does not
answer; the coalesce timer; a drained ring; and a ring and a result ring that meet an error. -/
theorem witness_RingsAct :
    let up (s : State) : Prop := s.hub.power.st = .ready ∧ s.hub.power.entering = false ∧ s.m.hostUp = true
    let door (f : Fn) (g : RingPair → RingPair) (w : Reg) (kind ring : Nat) : Prop := let s := pairIs g
      up s ∧ s.m.fnLive f = true ∧ fld w 29 20 = 0 ∧ dbKind w = kind ∧ dbRing w = ring
    let r (g : RingPair → RingPair) : RingPair := ((pairIs g).m.func vf0).pair 0
    let used (r : RingPair) : RingPair := { r with cqUsed := 63, cqTail := 63 }
    let results : State := made (fun m => (part0 id (m.updFunc vf0 (fun x => { x with result := { x.result with
      st := .running, used := 1, tail := 1, ctrl := { shadow := 13, active := 13 } } }))))
    (up (pairIs id) ∧ (pairIs id).m.fnLive (vfOf 1) = false)
    ∧ (up (pairIs id) ∧ (pairIs id).m.fnLive vf0 = true ∧ fld (0x00100000 : Reg) 29 20 ≠ 0 ∧ dbKind 0xC0000000 = 3)
    ∧ (door pf0 id 0x00040000 0 4 ∧ fnPairs pf0 ≤ 4)
    ∧ (door vf0 id 63 0 0 ∧ tailGood (r id) (dbIndex 63) = true) ∧ (door vf0 id 64 0 0 ∧ tailGood (r id) (dbIndex 64) = false)
    ∧ (door vf0 used 0x4000003F 1 0 ∧ headGood (r used) (dbIndex 0x4000003F) = true)
    ∧ (door vf0 id 0x40000001 1 0 ∧ headGood (r id) (dbIndex 0x40000001) = false)
    ∧ (up results ∧ vf0 ≠ pf0 ∧ dbKind 0x80000001 = 2 ∧ resultGood (results.m.func vf0).result (dbIndex 0x80000001) = true
      ∧ resultGood (results.m.func vf0).result (dbIndex 0x80000002) = false)
    ∧ (∀ k : Bool, let s := { made id .standby with hub := { (made id .standby).hub with
           power := { (made id .standby).hub.power with wakeDb := k } } }
       s.hub.power.st = .standby ∧ s.m.hostUp = true ∧ s.hub.power.wakeDb = k ∧ s.hub.power.waking = false)
    ∧ (∀ t ∈ [0, 63], ∀ n ∈ [0, 64], ∀ h : Bool,
       let s := pairIs (fun r => { r with post := [aCompl], cqTail := t, cqUsed := n })
       let s : State := { s with m := { s.m with hostUp := h } }
       let r := (s.m.func vf0).pair 0
       r.post = [aCompl] ∧ r.st = .running ∧ r.cqTail < r.size ∧ (n = 64 ↔ r.size < r.cqUsed + r.post.length)
         ∧ s.m.dmaFails (r.cqBase + 32 * ((r.cqTail + 0) % r.size)) 32 = !h)
    ∧ (let r := r (fun r => { r with coalAt := some 0 })
       r.coalAt = some 0 ∧ 0 + us r.coalUs ≤ (pairIs (fun r => { r with coalAt := some 0 })).m.wall)
    ∧ (let s := made (fun m => updPair vf0 0 (fun r => { r with st := .draining }) m)
       let r := (s.m.func vf0).pair 0
       r.st = .draining ∧ r.busy = none ∧ r.post = [] ∧ r.whole = false)
    ∧ ((0 : PairId).val < fnPairs vf0 ∧ (r id).st = .running ∧ (results.m.func vf0).result.st = .running) := by
  refine ⟨?_, ?_, ?_, ?_, ?_, ?_, ?_, ?_, ?_, ?_, ?_, ?_, ?_⟩ <;> decide +kernel

/-- A ring that holds a whole group of two. -/
def group (a b : Bytes) : State :=
  made (fun m => updPair vf0 0 (fun r => { r with
    st := .running, head := 2, tail := 2, ctrl := { shadow := 13, active := 13 }, held := [(0, a), (1, b)] }) (part0 id m))

/-- A group that passes, one of which a member fails, one whose last member is refused as it acts, and one whose long member has
ended. -/
theorem witness_GroupsActWhole :
    let a := descriptor 5 [(1, 1), (16, 4096), (24, 4096)]
    let held (b : Bytes) : Prop := let s := group a b
      s.hub.power.st = .ready ∧ s.m.takesGroup vf0 0 = true ∧ partOfFn vf0 = some 0
        ∧ ((s.m.func vf0).pair 0).held = [(0, a), (1, b)] ∧ dOpcode a = 0x05
    let nop := descriptor 1 [(1, 3)]
    let drop := descriptor 3 [(1, 3), (28, 4)]
    let load := descriptor 2 [(1, 3), (16, 4096), (24, 256)]
    (held nop ∧ checkGroup vf0 [(0, a), (1, nop)] 0 (group a nop).m = none ∧ dOpcode nop = 0x01)
    ∧ (held drop ∧ checkGroup vf0 [(0, a), (1, drop)] 0 (group a drop).m = some (1, 3, 28, 0))
    ∧ (held load ∧ checkGroup vf0 [(0, a), (1, load)] 0 (group a load).m = none ∧ dOpcode load = 0x02
      ∧ (planVerdict ((group a load).m.part 0) (planSlotOf load) ((group a load).m.hostMem.read (leAt load 16 8) (leAt load 24 4))
          (leAt load 24 4) (group a load).m.stepping).isSome = true)
    ∧ (let k : Busy := { no := 1, opcode := 6, tag := 77, index := 0, irq := true, body := a, group := true
                         todo := [(1, nop)], fin := some (0, 0, 0) }
       let s := made (fun m => updPair vf0 0 (fun r => { r with busy := some k }) (part0 id m))
       s.hub.power.st = .ready ∧ ((s.m.func vf0).pair 0).busy = some k ∧ k.lost = false ∧ dOpcode nop = 0x01) := by
  refine ⟨?_, ?_, ?_, ?_⟩ <;> decide +kernel

theorem witness_HostResets :
    (made (fun m => { m with hostUp := false })).m.hostUp = false
    ∧ (∀ st ∈ [MemberSt.running, .committed, .idle], let s := made (part0 (member st))
       (∀ n, ((s.m.func (vfOf 0)).pair n).busy = none) ∧ (s.m.part 0).member.st = st)
    ∧ ∀ n, ((State.reset.m.func pf0).pair n).busy = none := by
  refine ⟨?_, ?_, ?_⟩ <;> decide +kernel

/-- The last VF, its partition admitted, with a shadow of PART_CFG. -/
def cfgIs (h : Reg) : State :=
  made (fun m => (m.updPart 7 (fun x => { x with admitted := true })).updFunc (vfOf 7) (fun x =>
    { x with partCfg := { x.partCfg with shadow := h } }))

theorem witness_PartCfgHoldsTheInterval :
    let ok (h : Reg) (n : Nat) : Prop := (cfgIs h).regLive (vfOf 7) 0x0710 = true
      ∧ ((cfgIs h).m.func (vfOf 7)).shadowUpset (vfOf 7) 3 = none
      ∧ ((cfgIs h).m.func (vfOf 7)).mismatch ≠ some (3, (cfgIs h).m.wall)
      ∧ fld ((cfgIs h).m.func (vfOf 7)).partCfg.shadow 9 0 = n
    ok 0 0 ∧ ok 1 1 ∧ ok 720 720 ∧ ok 721 721
    ∧ (let s : State := { cfgIs 5 with m := (cfgIs 5).m.updFunc (vfOf 7) (fun x => { x with mismatch := some (3, (cfgIs 5).m.wall) }) }
       s.regLive (vfOf 7) 0x0710 = true ∧ (s.m.func (vfOf 7)).shadowUpset (vfOf 7) 3 = none
         ∧ (s.m.func (vfOf 7)).mismatch = some (3, s.m.wall)) := by
  refine ⟨?_, ?_, ?_, ?_, ?_⟩ <;> decide +kernel

/-- Registers of PF0 and of a VF with the parity of no shadow upset; a ring that is DISABLED and one that runs; a port to be
released and a tile to be retired, at the last of their numbers. -/
theorem witness_RegistersAreWritten :
    (∀ f ∈ [pf0, vf0], ∀ st ∈ [RingSt.disabled, .running],
       let s := made (fun m => updPair f 3 (fun r => { r with st }) (part0 id m))
       rwsAt f 0x0204 = some .evtMask ∧ s.regLive f 0x0204 = true ∧ s.regLive f 0x0100 = true ∧ s.regLive f 0x0200 = true
         ∧ (s.m.func f).shadowUpset f 1 = none ∧ (s.m.func f).mismatch ≠ some (1, s.m.wall) ∧ (3 : PairId).val < fnPairs f ∧ s.regLive f (ringCtrl (.pair 3)) = true
         ∧ ((s.m.func f).pair 3).st = st)
    ∧ (0x80000000 : Reg).getLsbD 31 = true ∧ (7 : BitVec 4) ≠ 0xF
    ∧ (let u : RegUpset := { off := 0x0710, shadow := false }
       rwsAt vf0 u.off.toNat = some .partCfg ∧ u.shadow = false ∧ (made (part0 id)).m.fnLive vf0 = true
         ∧ (made (part0 id)).hub.power.st = .ready)
    ∧ (let s := made id
       s.regLive pf0 0x0908 = true ∧ (∀ q, (s.m.port q).st = .down) ∧ s.m.regs.portEn.active = 0)
    ∧ (let s := made (fun m => { m.updPort 15 (fun x => { x with st := .isolated }) with
          regs := { m.regs with portEn := { shadow := 0x8000, active := 0x8000 } } })
       s.regLive pf0 0x0A04 = true ∧ (0x8000 : Reg).getLsbD (15 : PortId).val = true ∧ (s.m.port 15).st = .isolated
         ∧ s.m.regs.portEn.active.getLsbD (15 : PortId).val = true)
    ∧ (let s := made id
       let w : Reg := 0x80000047
       s.regLive pf0 0x0B08 = true ∧ w.getLsbD 31 = true ∧ fld w 6 0 < 72
         ∧ s.m.cal.retired.any (fun r => r.1 == fld w 6 0) = false) := by
  refine ⟨?_, ?_, ?_, ?_, ?_, ?_, ?_⟩ <;> decide +kernel

/-! ### Clock, power and start-up -/

/-- A state in which the hub, and then the rest, are changed. -/
def hubIs (st : PowerSt) (g : Hub → Hub) (f : Mod → Mod := id) : State :=
  { made f st with hub := g (made f st).hub }

/-- The timing root, where the strap says so. -/
def rootIs (root : Bool) (w : Nat) (m : Mod) : Mod :=
  { m with wall := w, regs := { m.regs with clk := { m.regs.clk with active := if root then 1 else 0 } } }

/-- The clock acquires in start-up and in a wake, of a root and of a child; a locked one loses its reference beside a running
and a committed job; one in HOLDOVER at its time; a child that waits for its sync, at a wake and in READY. -/
theorem witness_ClockMoves :
    (let s := hubIs .startup (fun h => { h with clock := .acquiring, power := { h.power with step := 3 } })
        (fun m => { m with wall := 100000000 })
     s.hub.power.leaving = none ∧ s.hub.clock = .acquiring ∧ s.hub.clockSince + 10000 ≤ s.m.wall ∧ s.hub.power.st = .startup
       ∧ s.hub.power.step = 3 ∧ s.m.timingRoot = false ∧ s.hub.clockSince + 100000000 ≤ s.m.wall)
    ∧ (∀ root : Bool,
       let s := hubIs .standby (fun h => { h with clock := .acquiring, power := { h.power with waking := true } })
         (rootIs root 10000)
       s.hub.power.leaving = none ∧ s.hub.clock = .acquiring ∧ s.hub.clockSince + 10000 ≤ s.m.wall ∧ s.hub.power.st = .standby
         ∧ s.hub.power.waking = true ∧ s.m.timingRoot = root)
    ∧ (∀ st ∈ [MemberSt.running, .committed, .idle], let s := made (part0 (fun x => member st (running 0 10 x)))
       s.hub.power.leaving = none ∧ s.hub.clock = .locked ∧ s.m.timingRoot = false ∧ (s.m.part 0).member.st = st)
    ∧ (let s := hubIs .ready (fun h => { h with clock := .holdover }) (fun m => { m with wall := 100000 })
       s.hub.power.leaving = none ∧ s.hub.clock = .holdover ∧ s.hub.clockSince + 100000 ≤ s.m.wall)
    ∧ (∀ st ∈ [PowerSt.ready, .standby],
       let s := hubIs st (fun h => { h with clock := .locked, resync := true, power := { h.power with waking := st == .standby } })
       s.hub.power.leaving = none ∧ s.hub.awaitsSync = true ∧ s.m.timingRoot = false ∧ s.hub.power.st = st) := by
  refine ⟨?_, ?_, ?_, ?_, ?_⟩ <;> decide +kernel

/-- What may or may not come true of an input above 72 V: both values of the free value are met. -/
theorem witness_PowerRowsAct :
    (∀ latched : Bool, let w := (hubIs .off (fun h => { h with power := { h.power with latched } })).hub.power
     w.leaving = none ∧ w.st = .off ∧ w.input = false ∧ w.latched = latched)
    ∧ (∀ n, Config.inputDamages n 72001 = true ∨ Config.inputDamages n 72001 = false)
    ∧ (∀ st ∈ [PowerSt.ready, .standby, .startup, .recovery],
       let w := (made id st).hub.power
       w.leaving = none ∧ w.input = true ∧ w.st ≠ .off ∧ w.waking = false
         ∧ ∀ p, ((made id st).m.part p).member.st = .idle)
    ∧ (∀ st ∈ [MemberSt.running, .committed], ((made (part0 (member st))).m.part 0).member.st = st)
    ∧ (let s := hubIs .startup (fun h => { h with power := { h.power with step := 1 } })
       s.hub.power.leaving = none ∧ s.hub.power.st = .startup ∧ s.hub.power.step = 1)
    ∧ (let s := hubIs .off (fun h => { h with power := { h.power with input := true } })
       s.hub.power.leaving = none ∧ s.hub.power.input = true ∧ s.hub.power.st = .off)
    ∧ (0 : Byte).toNat ≤ 2 ∧ (2 : Byte).toNat ≤ 2 ∧ 2 < (3 : Byte).toNat
    ∧ (∀ st ∈ [PowerSt.ready, .standby], let s := made id st
       s.m.hostUp = true ∧ s.hub.power.st = st ∧ s.hub.power.entering = false ∧ s.hub.power.leaving = none
         ∧ s.hub.power.waking = false ∧ s.m.standbyFits = true ∧ ∀ p, (s.m.part p).admitted = false)
    ∧ (made (part0 (running 0 10))).m.standbyFits = false ∧ ((made (part0 id)).m.part 0).admitted = true
    ∧ (∀ ds ∈ [[], [(1, (3 : Reg))]],
       let s := hubIs .ready (fun h => { h with power := { h.power with entering := true, doorbells := ds } })
       s.hub.power.leaving = none ∧ s.hub.power.st = .ready ∧ s.hub.power.entering = true ∧ s.hub.power.doorbells = ds
         ∧ s.hub.power.wakeDb = true ∧ s.hub.power.waking = false ∧ ∀ q, (s.m.port q).st ≠ .active)
    ∧ (∀ e ∈ [(0, MemberSt.idle), (12000000, .teardown)],
       let s := hubIs .ready (fun h => { h with power := { h.power with leaving := some 12000000 } })
         (fun m => part0 (member e.2) { m with wall := e.1 })
       s.hub.power.leaving = some 12000000 ∧ (12000000 ≤ s.m.wall ∨ s.m.tearing = false) ∧ s.hub.power.input = true) := by
  refine ⟨?_, fun n => by cases Config.inputDamages n 72001 <;> simp, ?_, ?_, ?_, ?_, ?_, ?_, ?_, ?_, ?_, ?_, ?_, ?_⟩
    <;> decide +kernel

/-- The header of a firmware image with SVN 1 and a body of 1 MiB of zeros (Table SEC-2). -/
def firmHead : Bytes := [0x52, 0x4B, 0x57, 0x4D, 1, 0, 0, 0, 1, 0, 0, 0, 0, 0, 0, 0, 0, 0, 0x10, 0] ++ List.replicate 44 0
@[irreducible] def firmware : Bytes := firmHead ++ List.replicate (2592 + 2 ^ 20 + 4627) 0

theorem firmware_length : firmware.length = 2656 + 2 ^ 20 + 4627 := by
  rw [firmware, List.length_append, List.length_replicate]; decide +kernel

theorem firmware_slice (o n : Nat) (h : o + n ≤ 64) : sliceB firmware o n = sliceB firmHead o n := by
  have k : firmHead.length = 64 := by decide +kernel
  have e : (firmware.drop o).take n = (firmHead.drop o).take n := by
    rw [firmware, List.drop_append_of_le_length (by omega), List.take_append_of_le_length (by rw [List.length_drop]; omega)]
  simp only [sliceB, e]

theorem firmware_at (o n : Nat) (h : o + n ≤ 64) : leAt firmware o n = leAt firmHead o n := by
  simp only [leAt, firmware_slice o n h]

/-- An image of a right form passes as far as the fused digest and the signature are its own: what the two external
functions say of it is no matter of the model. -/
theorem firmware_passes (k : Config.sha3d512 (imageKey firmware) = Config.fusedKeyDigest)
    (g : Config.mldsaVerify (imageKey firmware) (leBytes 64 (imageDigest firmware).toNat) (imageSig firmware) = true) :
    bootCode firmware 1 false = 0 := by
  have empty : firmware.isEmpty = false := by
    cases h : firmware with
    | nil => exact absurd firmware_length (by rw [h]; decide)
    | cons _ _ => rfl
  have form : imageForm firmware = true := by
    simp only [imageForm, imageBody, firmware_at, firmware_slice, Nat.reduceAdd, Nat.reduceLeDiff, firmware_length]
    decide +kernel
  have svn : imageSvn firmware = 1 := by rw [imageSvn, firmware_at 8 4 (by decide)]; decide +kernel
  simp [bootCode, empty, form, k, g, svn]

/-- An image of another form fails. -/
theorem firmware_fails : bootCode (List.replicate 64 0) 0 false ≠ 0 := by decide +kernel

/-- Step 3 of start-up with an image in the boot area; and a state whose firmware registers name the image. -/
def booting (area : Bytes) (f : Mod → Mod) : State :=
  hubIs .startup (fun h => { h with power := { h.power with step := 2 }, boot := { h.boot with area, svnMin := 1 } }) f
def offered (st : PowerSt) : State :=
  hubIs st (fun h => { h with boot := { h.boot with svnMin := 1, fwLen := 1055859 } })
    (fun m => { m with hostMem := Mem.cells 0 firmware })

theorem offered_image (st : PowerSt) : (offered st).hub.image (offered st).m = some firmware := by
  have h := read_cells [] firmware 0 1055859 (by rw [firmware_length]; decide)
  have l : List.take 1055859 firmware = firmware := List.take_of_length_le (by rw [firmware_length]; decide)
  rw [l] at h
  have r : (offered st).m.hostMem.read 0 1055859 = firmware := h
  have g : ((offered st).m.dmaFails 0 1055859) = false := rfl
  have u : (offered st).m.hostUp = true := rfl
  have a : (offered st).hub.boot.fwAddr.toNat = 0 := by cases st <;> decide
  have n : (offered st).hub.boot.fwLen.toNat = 1055859 := by cases st <;> decide
  simp only [Hub.image, a, n, u, g, r]
  rfl

/-- Where the fused digest and the signature are the image's own, every clause of a good image is met, with calibration
areas of each kind; else the clauses of a bad one are. What the boot area gives back equals the image or does not. -/
theorem witness_StartupRowsAct :
    (∀ c ∈ [(true, true), (true, false), (false, true)], ∀ area,
      let s := booting area (fun m => { m with cal := { m.cal with good := c.1, factoryGood := c.2 } })
      s.hub.power.leaving = none ∧ s.hub.power.st = .startup ∧ s.hub.power.step < 3 ∧ s.hub.power.flowLow = false
        ∧ s.m.cal.good = c.1 ∧ s.m.cal.factoryGood = c.2
        ∧ (Config.sha3d512 (imageKey firmware) = Config.fusedKeyDigest →
           Config.mldsaVerify (imageKey firmware) (leBytes 64 (imageDigest firmware).toNat) (imageSig firmware) = true →
           area = firmware → s.hub.boot.check false = 0)
        ∧ (area = [] → s.hub.boot.check false ≠ 0))
    ∧ (hubIs .startup (fun h => { h with power := { h.power with step := 2, flowLow := true } })).hub.power.flowLow = true
    ∧ (let s := hubIs .startup (fun h => { h with clock := .locked, power := { h.power with step := 4 } })
       s.hub.power.leaving = none ∧ s.hub.power.st = .startup ∧ s.hub.power.step = 4 ∧ s.hub.clock = .locked)
    ∧ (∀ st ∈ [PowerSt.recovery, .ready, .standby], let s := offered st
       s.hub.power.leaving = none ∧ s.hub.image s.m = some firmware ∧ s.hub.boot.fwState ≠ 1 ∧ s.hub.power.st = st
         ∧ (st ≠ .recovery → s.pf0Live = true)
         ∧ (Config.sha3d512 (imageKey firmware) = Config.fusedKeyDigest →
            Config.mldsaVerify (imageKey firmware) (leBytes 64 (imageDigest firmware).toNat) (imageSig firmware) = true →
            bootCode firmware s.hub.boot.svnMin false = 0))
    ∧ (let s := hubIs .recovery (fun h => { h with boot := { h.boot with fwLen := 64 } })
       s.hub.power.leaving = none ∧ s.hub.image s.m = some (List.replicate 64 0) ∧ s.hub.boot.fwState ≠ 1
         ∧ s.hub.power.st = .recovery ∧ bootCode (List.replicate 64 0) s.hub.boot.svnMin false ≠ 0)
    ∧ (∀ e ∈ [(0, 0), (63, 0), (63, 1), (64, 0)], ∀ st ∈ [PowerSt.ready, .standby],
       let s := hubIs st (fun h => { h with boot := { h.boot with svn := 1, svnMin := e.2, raises := e.1 } })
       s.hub.power.leaving = none ∧ s.pf0Live = true ∧ s.hub.boot.raises = e.1 ∧ s.hub.boot.svnMin = e.2 ∧ s.hub.boot.svn = 1) := by
  refine ⟨?_, ?_, ?_, ?_, ?_, ?_⟩
  · intro c _ area
    have step : 2 < 3 := by decide
    refine ⟨rfl, rfl, step, rfl, rfl, rfl, ?_, ?_⟩
    · intro k g h; subst h; exact firmware_passes k g
    · intro h
      have e : bootCode [] 1 false ≠ 0 := by decide +kernel
      subst h; exact e
  · decide +kernel
  · decide +kernel
  · intro st h
    have live : ∀ st ∈ [PowerSt.recovery, .ready, .standby], st ≠ .recovery → (offered st).pf0Live = true := by decide +kernel
    have free : (0 : Nat) ≠ 1 := by decide
    exact ⟨rfl, offered_image st, free, rfl, live st h, firmware_passes⟩
  · decide +kernel
  · decide +kernel

/-! ### Maintenance, security and the whole block -/

/-- Sensors that read nothing special, with a temperature of one compute die. -/
def sensors (c : Int) : Sensors :=
  { compute := [c], base := [400], hbm := [400], hub := 400, inlet := 200, outlet := 250, flow := 500, pressure := 100 }

/-- One resident stone with a digest. -/
def aResident (digest : BitVec 512) : Resident :=
  { bay := 0, line := 0, model := 9, mver := 1, index := 3, digest }
def stored (digest : BitVec 512) : State :=
  made (fun m => part0 (fun x => { x with manifests := [aManifest], resident := [aResident digest] })
    { m with wall := 24 * 3600000000000 })

/-- The digest of what the stack holds. -/
def heldDigest : BitVec 512 := Config.sha3d512 (Mem.read [] (64 * 0) stoneBytes)

theorem digest_found (d : BitVec 512) :
    digestOf (stored d).m 0 (aResident d) = if heldDigest == d then .good else .mismatched := by
  have a : ((stored d).m.part 0).load = none := rfl
  have b : ((stored d).m.part 0).manifests = [aManifest] := rfl
  have c : (stored d).m.lineErrs = [] := rfl
  have e : (stored d).m.hbm.get (toFin 8 (aResident d).bay) = [] := rfl
  have f : (aResident d).line = 0 := rfl
  have g : (aResident d).digest = d := rfl
  have h : ([aManifest].any fun f => f.model == (aResident d).model && f.mver == (aResident d).mver) = true := rfl
  simp only [digestOf, a, b, c, e, f, g, h, heldDigest]
  simp only [Option.any_none, List.any_nil, Bool.not_true, Bool.or_false, if_false, Bool.false_eq_true]
  congr

/-- The resident stone falls due, and its digest is that of the manifest, or is not. -/
theorem witness_digests : digestOf (stored heldDigest).m 0 (aResident heldDigest) = .good
    ∧ digestOf (stored (heldDigest + 1)).m 0 (aResident (heldDigest + 1)) = .mismatched := by
  rw [digest_found, digest_found]
  refine ⟨by rw [beq_self_eq_true, if_pos rfl], ?_⟩
  have : heldDigest ≠ heldDigest + 1 := by
    intro h
    have k : heldDigest + 0#512 = heldDigest + 1#512 := by rw [BitVec.add_zero]; exact h
    exact absurd ((BitVec.add_right_inj heldDigest).1 k) (by decide +kernel)
  rw [beq_eq_false_iff_ne.2 this, if_neg (by decide)]

theorem stored_due (d : BitVec 512) : (stored d).hub.power.st = .ready ∧ ((stored d).m.part 0).admitted = true
    ∧ (stored d).hub.power.entering = false ∧ ((stored d).m.part 0).resident = [aResident d] ∧ (stored d).m.memWf = true
    ∧ ((stored d).m.part 0).checkedAt + (stored d).m.interval 0 * 3600000000000 ≤ (stored d).m.wall := by
  have h : 0 + (stored 0).m.interval 0 * 3600000000000 ≤ (stored 0).m.wall := by decide +kernel
  exact ⟨rfl, rfl, rfl, rfl, reset_memWf, h⟩

/-- A rotation comes to page 0 of a window, whose epoch is 0, with the slot cur in use; the device and the slots. -/
def rotating (cur : Fin 2) (data : Mem := []) (tier : Vector (Option TierSlot) 2 := Vector.replicate 2 none) : State :=
  made (fun m => part0 (fun x => { x with
      window := some { extents := [(0, 0, 1)], registered := true, waiting := none }
      keys := { x.keys with cur, tier, rotation := some { pos := 0, stalled := [] }, pendingAck := [(5, 0, 1)] } })
    { m with cxl := m.cxl.set 0 { present := true, gib := 128, data } })

/-- The metadata record of a page of zeros under key 0: its tag, and zeros. -/
def pageRecord : Bytes :=
  leBytes 16 (Config.gcmTag 0 (pageIv 0 0 0) (pageAad 0 (List.replicate 8 0)) (List.replicate 4096 0)).toNat ++ List.replicate 16 0

theorem pageRecord_parts : pageRecord.length = 32 ∧ pageRecord.drop 24 = List.replicate 8 0 ∧ leAt pageRecord 16 8 = 0
    ∧ BitVec.ofNat 128 (leAt pageRecord 0 16)
      = Config.gcmTag 0 (pageIv 0 0 0) (pageAad 0 (List.replicate 8 0)) (List.replicate 4096 0) := by
  have l := fun n => length_leBytes 16 n
  refine ⟨?_, ?_, ?_, ?_⟩
  · rw [pageRecord, List.length_append, l, List.length_replicate]
  · rw [pageRecord, List.drop_append, List.drop_eq_nil_of_le (by rw [l]; decide), l]; rfl
  · rw [leAt, sliceB, pageRecord, List.drop_left' (l _)]; decide +kernel
  · rw [leAt, sliceB, pageRecord, List.drop_zero, List.take_left' (l _), l]
    simp only [Nat.sub_self, List.replicate_zero, List.append_nil, leNat_leBytes]
    apply BitVec.eq_of_toNat_eq
    rw [BitVec.toNat_ofNat, show (256 : Nat) ^ 16 = 2 ^ 128 by decide, Nat.mod_mod, Nat.mod_eq_of_lt (BitVec.isLt _)]

/-- What lies below the cells of a memory reads as zeros. -/
theorem read_below (n : Nat) : ∀ (m : Mem) (a : Nat), (∀ e ∈ m, a + n ≤ e.1) → Mem.readGo m a n = List.replicate n 0 := by
  induction n with
  | zero => intro m a _; rfl
  | succ n ih =>
    intro m a h
    rw [readGo_skip m a n (fun e he => by have := h e he; omega), ih m (a + 1) (fun e he => by have := h e he; omega)]
    rfl

/-- A device page of zeros with its record: it is read under its key, and a rotation to slot 1 writes it again. -/
def sealedPage : State :=
  rotating 1 (Mem.cells (127 * 2 ^ 30) pageRecord) #v[some { key := 0, wcount := 0, pages := 1 }, some { key := 1, wcount := 0, pages := 0 }]

theorem sealedPage_reads : ∃ bs, readPage sealedPage.m 0 0 0 = .ok bs := by
  obtain ⟨len, tail, count, tag⟩ := pageRecord_parts
  have r : (Mem.cells (127 * 2 ^ 30) pageRecord).read (127 * 2 ^ 30) 32 = pageRecord := by
    have h := read_cells [] pageRecord (127 * 2 ^ 30) 32 (Nat.le_of_eq len.symm)
    rw [List.take_of_length_le (Nat.le_of_eq len)] at h
    exact h
  have above : ∀ e ∈ Mem.cells (127 * 2 ^ 30) pageRecord, 127 * 2 ^ 30 ≤ e.1 :=
    fun e he => (((wfFrom_iff _ _ _).1 (cells_wf pageRecord (127 * 2 ^ 30)).1).1 e he).1
  have z : (Mem.cells (127 * 2 ^ 30) pageRecord).read 0 4096 = List.replicate 4096 0 := by
    have d : (Mem.cells (127 * 2 ^ 30) pageRecord).dropWhile (fun c => c.1 < 0) = Mem.cells (127 * 2 ^ 30) pageRecord := by
      cases Mem.cells (127 * 2 ^ 30) pageRecord with
      | nil => rfl
      | cons _ _ => rfl
    rw [Mem.read, d]
    exact read_below 4096 _ 0 (fun e he => by have := above e he; omega)
  have data : (sealedPage.m.cxl.get 0).data = Mem.cells (127 * 2 ^ 30) pageRecord := rfl
  have good : (sealedPage.m.cxl.get 0).good = true := rfl
  have place : (sealedPage.m.cxl.get 0).metaAt 0 = 127 * 2 ^ 30 := by
    have : (sealedPage.m.cxl.get 0).granules = 127 := by
      show 127 * min 128 2048 / 128 = 127
      decide
    exact congrArg (fun g => g * 2 ^ 30 + 32 * 0) this
  have epoch : pageEpoch (sealedPage.m.cxl.get 0) 0 = 0 := by
    have h := read_cells (pageRecord.take 24) (pageRecord.drop 24) (127 * 2 ^ 30) 1 (by rw [tail]; decide)
    rw [List.take_append_drop, tail, List.length_take, len] at h
    rw [pageEpoch, place, data]
    have e : 127 * 2 ^ 30 + min 24 32 = 127 * 2 ^ 30 + 24 := by decide
    rw [e] at h
    rw [h]; decide
  have key : (sealedPage.m.part 0).keys.tier.get 0 = some { key := 0, wcount := 0, pages := 1 } := rfl
  simp only [readPage, good, data, place, epoch, key, r, tail, count, pageBytes, Nat.mul_zero, z, tag]
  rw [Bool.not_true, if_neg Bool.false_ne_true, beq_self_eq_true, Bool.and_true]
  exact ⟨_, if_pos (by decide)⟩

theorem sealedPage_writes : (sealedPage.m.part 0).keys.rotation = some { pos := 0, stalled := [] }
    ∧ (sealedPage.m.part 0).extents = some [(0, 0, 1)] ∧ (sealedPage.m.part 0).keys.cur = 1
    ∧ (sealedPage.m.part 0).keys.tier.get 1 = some { key := 1, wcount := 0, pages := 0 }
    ∧ (∃ bs, readPage sealedPage.m 0 0 0 = .ok bs)
    ∧ (sealedPage.m.part 0).keys.pendingAck.find? (fun k => k.1 == 5) = some (5, 0, 1) :=
  ⟨rfl, rfl, rfl, rfl, sealedPage_reads, rfl⟩

/-- A sample at its boundary and one before it; captures at a boundary and off it; a line with one wrong bit and one with
two; a line to be rewritten and a row to be repaired, at the last of each; resident stones that are due, whose digest is that
of their manifest or is not; a rotation at a page already written, at one that can be read and at one that cannot, and an
acknowledged page that is the last of PREV; a core at the start of its slice and behind its rotation. -/
theorem witness_MaintenanceRowsAct :
    (∀ w ∈ [9999999, 10000000], let s := made (fun m => { m with wall := w })
     s.hub.power.leaving = none ∧ s.hub.power.st ≠ .off ∧ s.m.aonAt + 10000000 * (s.hub.power.samples + 1) = 10000000
       ∧ criticalBit (sensors 1199) = false ∧ criticalBit (sensors 1200) = true ∧ s.m.aonAt ≤ s.m.wall
       ∧ decide ((s.m.wall - s.m.aonAt) % 10000000 = 0) = decide (w = 10000000))
    ∧ (let s := made (fun m => { m with lineErrs := [{ line := .hbm 7 3, double := false }] })
       s.hub.power.st = .ready ∧ s.m.lineBad (.hbm 7 3) = false ∧ s.m.lineSoft (.hbm 7 3) = true
         ∧ Sparse.wfFrom 0 0 s.m.hbmCal = true)
    ∧ (let s := made (fun m => part0 id { m with lineErrs := [{ line := .hbm 7 3, double := true }] })
       s.m.lineBad (.hbm 7 3) = true ∧ (s.m.lineOwner (.hbm 7 3)).1 = some 0)
    ∧ (made (fun m => { m with rewrites := [.hbm 7 3] })).m.rewrites.contains (.hbm 7 3) = true
    ∧ (made (fun m => { m with cal := { m.cal with due := [(7, 31, 5)] } })).m.repairable 7 31 5 = true
    ∧ ([aResident heldDigest].Pairwise (fun a b => a.under b.bay b.line = false) ∧ ∀ r ∈ [aResident heldDigest], r.bay < 8)
    ∧ (∀ cur ∈ [(0 : Fin 2), 1], let s := rotating cur
       (s.m.part 0).keys.rotation = some { pos := 0, stalled := [] } ∧ (s.m.part 0).extents = some [(0, 0, 1)]
         ∧ locatePage [(0, 0, 1)] 0 = some (0, 0) ∧ (s.m.cxl.get 0).good = true
         ∧ (decide (pageEpoch (s.m.cxl.get 0) 0 = (s.m.part 0).keys.cur) = decide (cur = 0))
         ∧ (match readPage s.m 0 0 0 with | .ok _ => false | .error _ => true) = true)
    ∧ (let s := rotating 1 [] #v[some { key := 0, wcount := 1, pages := 1 }, some { key := 1, wcount := 0, pages := 0 }]
       let k := (s.m.part 0).keys
       k.pendingAck.find? (fun e => e.1 == 5) = some (5, 0, 1) ∧ k.cur = 1 ∧ (0 : Fin 2) = k.cur + 1
         ∧ k.tier.get k.cur = some { key := 1, wcount := 0, pages := 0 }
         ∧ k.tier.get (k.cur + 1) = some { key := 0, wcount := 1, pages := 1 }
         ∧ k.pendingAck.eraseP (fun e => e.1 == 5) = [])
    ∧ (∀ w ∈ [0, 40000], let s := made (fun m => { m with wall := w })
       s.m.aonAt ≤ s.m.wall ∧ s.hub.slices.get 3 = 0 ∧ decide (sliceAt (s.m.wall - s.m.aonAt) = 0) = decide (w = 0))
    ∧ (made id).m.flashWorn = false ∧ ((rotating 0).m.cxl.get 0).present = true
    ∧ (let s := made (part0 (running 0 10))
       s.m.partOfTile 63 = some 0 ∧ (s.m.part 0).running = true) := by
  refine ⟨?_, ?_, ?_, ?_, ?_, ⟨List.pairwise_singleton _ _, by intro r h; cases List.mem_singleton.1 h; decide⟩,
    ?_, ?_, ?_, ?_, ?_, ?_⟩ <;> decide +kernel

/-- A message of SPDM 1.3: code, parameters, further bytes. -/
def spdm (code p1 p2 : Byte) (r : Bytes) : Bytes := [0x13, code, p1, p2] ++ r

/-- The connection of VF 0. -/
def connected (g : Spdm → Spdm) : State :=
  made (fun m => part0 id (m.updFunc vf0 (fun x => { x with spdm := g { x.spdm with version := true, caps := true, algs := true } })))

/-- A key message with a code: the PCI-SIG standard ID, the module's vendor ID, and a payload. -/
def keyMsg (k : Byte) : Bytes := spdm 0xFE 0 0 [3, 0, 2] ++ (leBytes 2 Config.vendorId.toNat ++ [1, 0, k])

theorem keyMsg_parts (k : Byte) (h : 1 ≤ k.toNat ∧ k.toNat ≤ 5) : msgVersion (keyMsg k) = 0x13 ∧ msgCode (keyMsg k) = 0xFE
    ∧ keyRequest (keyMsg k) = true ∧ leAt (vendorPayload (keyMsg k)) 0 1 = k.toNat := by
  have b : ∀ v : BitVec 16, let m := spdm 0xFE 0 0 [3, 0, 2] ++ (leBytes 2 v.toNat ++ [1, 0, k])
      leAt m 1 1 = 0xFE ∧ leAt m 0 1 = 0x13 ∧ leAt m 4 2 = 3 ∧ leAt m 6 1 = 2 ∧ leAt m 7 2 = v.toNat
        ∧ m.drop 11 = [k] ∧ leAt [k] 0 1 = k.toNat := by
    intro v
    have l : (leBytes 2 v.toNat).length = 2 := length_leBytes 2 _
    refine ⟨rfl, rfl, rfl, rfl, ?_, rfl, ?_⟩
    · have d : (spdm 0xFE 0 0 [3, 0, 2] ++ (leBytes 2 v.toNat ++ [1, 0, k])).drop 7 = leBytes 2 v.toNat ++ [1, 0, k] := rfl
      rw [leAt, sliceB, d, List.take_left' l, l]
      simp only [Nat.sub_self, List.replicate_zero, List.append_nil, leNat_leBytes]
      exact Nat.mod_eq_of_lt v.isLt
    · simp [leAt, sliceB, leNat]
  obtain ⟨c, v, s, n, i, d, p⟩ := b Config.vendorId
  have pay : vendorPayload (keyMsg k) = [k] := by rw [vendorPayload, keyMsg, n]; exact d
  refine ⟨v, c, ?_, by rw [pay]; exact p⟩
  simp only [keyRequest, pay, p]
  simp only [keyMsg, s, n, i, beq_self_eq_true, Bool.true_and, Bool.and_eq_true, decide_eq_true_eq]
  exact h

/-- The connection of VF 0 with its partition and of PF0, and of a VF without one; requests in and out of order; a chunk
that is not the last and one that is, a response kept for CHUNK_GET, and requests that are none. -/
theorem witness_SecurityRowsAct :
    (∀ g ∈ [(true, true, true), (true, true, false), (true, false, false), (false, false, false)],
       let s := connected (fun c => { c with version := g.1, caps := g.2.1, algs := g.2.2 })
       let c := (s.m.func vf0).spdm
       s.hub.power.st = .ready ∧ s.m.fnLive vf0 = true ∧ c.version = g.1 ∧ c.caps = g.2.1 ∧ c.algs = g.2.2
         ∧ (s.m.part 0).keys.tier.get ((s.m.part 0).keys.cur + 1) = none)
    ∧ ((rotating 1 [] #v[some { key := 0, wcount := 1, pages := 1 }, none]).m.part 0).keys.tier.get (1 + 1) ≠ none
    ∧ (made id).m.fnLive vf0 = false ∧ (made id).m.fnLive pf0 = true
    ∧ (∀ code ∈ [(0xE1 : Byte), 0xE3, 0x81, 0x82, 0x83, 0xE0, 0x85, 0x86],
        let msg := spdm code 0 0 [0, 0, 0, 1]
        msgVersion msg = 0x13 ∧ msgCode msg = code.toNat ∧ leAt msg 2 1 = 0 ∧ leAt msg 3 1 = 0 ∧ leAt msg 4 2 = 0)
    ∧ leAt (spdm 0x82 1 0 [0, 0, 0, 1]) 2 1 ≠ 0 ∧ leAt (spdm 0x83 1 0 []) 2 1 ≠ 0
    ∧ (∀ f ∈ [pf0, vf0], ∀ op ∈ [(0xFF : Byte), 1], let msg := spdm 0xE0 1 op []
        leAt msg 3 1 = op.toNat ∧ leAt msg 2 1 % 2 = 1 ∧ (measurementList f).filter (· == 1) ≠ [] ∧ measurementList f ≠ [])
    ∧ (measurementList vf0).filter (· == 0xFE) = []
    ∧ msgCode [0x10, 0x84, 0, 0] = 0x84
    ∧ (∀ last ∈ [(0 : Byte), 1], let msg := spdm 0x85 last 9 (List.replicate 12 0 ++ [1, 2])
       msgCode msg = 0x85 ∧ leAt msg 4 2 = 0 ∧ leAt msg 2 1 % 2 = last.toNat
         ∧ ([] ++ (msg.drop 16).take (leAt msg 8 4)).length ≤ 65536)
    ∧ (∀ n ∈ [4081, 8000], let b : Bytes := List.replicate n 1
       let s := connected (fun c => { c with chunkOut := some (0, b) })
       ((s.m.func vf0).spdm).chunkOut = some (0, b) ∧ msgCode (spdm 0x86 0 9 [0, 0]) = 0x86
         ∧ leAt (spdm 0x86 0 9 [0, 0]) 4 2 = 0 ∧ (b.drop 0).take chunkRoom ≠ [])
    ∧ (supportedCode (msgCode (spdm 0xE4 0 0 [])) = false ∧ msgCode (spdm 0xE4 0 0 []) ≠ 0x85
       ∧ msgCode (spdm 0xE4 0 0 []) ≠ 0x86)
    ∧ (msgCode (spdm 0xFE 0 0 []) = 0xFE ∧ keyRequest (spdm 0xFE 0 0 []) = false)
    ∧ (msgCode [0x12, 0x81] ≠ 0x84 ∧ msgVersion [0x12, 0x81] ≠ 0x13)
    ∧ partOfFn vf0 = some 0 ∧ partOfFn pf0 = none
    ∧ ∀ k ∈ [(1 : Nat), 2, 3, 4, 5], msgVersion (keyMsg (BitVec.ofNat 8 k)) = 0x13 ∧ msgCode (keyMsg (BitVec.ofNat 8 k)) = 0xFE
        ∧ keyRequest (keyMsg (BitVec.ofNat 8 k)) = true ∧ leAt (vendorPayload (keyMsg (BitVec.ofNat 8 k))) 0 1 = k := by
  have key : ∀ k ∈ [(1 : Nat), 2, 3, 4, 5], msgVersion (keyMsg (BitVec.ofNat 8 k)) = 0x13
      ∧ msgCode (keyMsg (BitVec.ofNat 8 k)) = 0xFE ∧ keyRequest (keyMsg (BitVec.ofNat 8 k)) = true
      ∧ leAt (vendorPayload (keyMsg (BitVec.ofNat 8 k))) 0 1 = k := by
    intro k h
    have r : ∀ k ∈ [(1 : Nat), 2, 3, 4, 5], (1 ≤ (BitVec.ofNat 8 k).toNat ∧ (BitVec.ofNat 8 k).toNat ≤ 5)
        ∧ (BitVec.ofNat 8 k).toNat = k := by decide
    obtain ⟨a, b, c, d⟩ := keyMsg_parts _ (r k h).1
    exact ⟨a, b, c, d.trans (r k h).2⟩
  refine ⟨?_, ?_, ?_, ?_, ?_, ?_, ?_, ?_, ?_, ?_, ?_, ?_, ?_, ?_, ?_, ?_, ?_, key⟩ <;> decide +kernel

theorem witness_IdleStepPassesOneCycle : State.reset.pending = [] ∧ State.reset.hub.power.leaving = none := ⟨rfl, rfl⟩

theorem witness_HubInvariantIsKept : State.reset.hub.Inv ∧ ∃ t, step State.reset = .next t := by
  refine ⟨?_, _, rfl⟩
  constructor <;> decide +kernel

theorem witness_PowerAndFusesMove :
    ∃ t, step { State.reset with pending := [.powerApplied 56000 true 0 500] } = .next t
      ∧ State.reset.hub.power.st = .off ∧ t.hub.power.st ≠ .off := by
  exact ⟨_, rfl, rfl, by decide +kernel⟩

theorem witness_BytesReadAsWritten : Mem.wf [(3, 1), (2 ^ 40, 255)] = true := by decide

/-! ### The worked examples of the spec -/

/-- 05: the 32 bytes of the closing MATMUL of the encoding example. -/
def closingMatmul : CmdWord := BitVec.ofNat 256 (leNat
  [0x20, 0x00, 0x00, 0x00, 0x02, 0x01, 0x05, 0x01, 0x10, 0x00, 0x1C, 0x00, 0x00, 0x00, 0xC8, 0x00,
   0x00, 0x00, 0x01, 0x01, 0x00, 0x00, 0x42, 0x01, 0x7F, 0x00, 0xFF, 0xFF, 0x11, 0x64, 0xEC, 0x03])

theorem test_matmul_header : cmdOp closingMatmul = 0x20 ∧ cmdWait closingMatmul = some (2, 1) ∧ cmdSig closingMatmul = some (5, 1)
    ∧ cmdPopA closingMatmul = some 0 ∧ cmdPopB closingMatmul = none ∧ cmdPush closingMatmul = some 12 := by decide

theorem test_matmul_control : ctlFa closingMatmul = 1 ∧ ctlFb closingMatmul = 1 ∧ ctlK closingMatmul = 4096
    ∧ ctlRows closingMatmul = 256 ∧ ctlCols closingMatmul = 256 ∧ ctlSet closingMatmul = 0 ∧ ctlZero closingMatmul = true
    ∧ ctlClose closingMatmul = true ∧ ctlAnchor closingMatmul = -20 ∧ matmulCycles closingMatmul = 4096 := by decide

/-- 03: the bank load of rows 4 KiB apart, of rows 4,352 bytes apart, and of one contiguous row. -/
theorem test_bank_load : occupancy { rows := 256, cols := 4, stride := 64 } 16 = 1024
    ∧ occupancy { rows := 256, cols := 4, stride := 68 } 16 = 64 ∧ occupancy { rows := 1, cols := 1024, stride := 0 } 16 = 64 := by
  decide +kernel

/-- 02: the parameters of the example of 48 modules. -/
theorem test_domain_timing :
    (timing { pairDomain with fexp := 10, greq := 128 } { path := 96, diameter := 6, hmax := 12, rmax := 28 }).map
      (fun k => (k.g, k.theta, k.s, k.d, k.h)) = some (128, 384, 440, 536, 536) := by decide

/-- 02: in furlong 3 at rod 512, a flit due at rod 936 with 40 rods to go: a new hold at rod 640. -/
theorem test_new_hold :
    chooseNotice { (default : Partition) with ctr := 5 * (3 * 1024 + 512), running := true
                                              member := { (default : Member) with params := { n := 10, g := 128 } } }
      (3 * 1024 + 936) 40 = some (5 * (3 * 1024 + 640), 0) := by decide

/-- 15: the second thermal hold of step 1, after one at plan rod 10,176. -/
theorem test_thermal_spacing :
    thermalTarget { (default : Partition) with ctr := 5 * 10176, running := true
                                               member := { (default : Member) with params := { n := 16, g := 128, h := 536 } } }
      10176 1 = 11840 := by decide

/-- 06: the three products of the cell, at both anchors, and its FP32 and BF16 results. -/
def cellAt (anchor : Int) : AccCell × Bool :=
  let f (x : Nat) : FVal := decodeF fE4M3 x
  cellAdd (cellAdd (cellAdd ({}, false) (f 0x3C) (f 0x44) anchor 128) (f 0x2A) (f 0xA6) anchor 128) (f 0xC2) (f 0x36) anchor 128

theorem test_cell_sums : (cellAt (-4)).1.sum = 36 ∧ (cellAt (-8)).1.sum = 575 ∧ (cellAt (-8)).2 = false := by decide +kernel

theorem test_cell_drains : (drainCell (cellAt (-4)).1 5 (-4) 128 none).1 = 0x40100000
    ∧ (drainCell (cellAt (-8)).1 5 (-8) 128 none).1 = 0x400FC000 ∧ (drainCell (cellAt (-8)).1 4 (-8) 128 none).1 = 0x4010
    ∧ (drainCell (cellAt (-8)).1 4 (-8) 128 (some 12582911)).1 = 0x4010
    ∧ (drainCell (cellAt (-8)).1 4 (-8) 128 (some 12582912)).1 = 0x400F := by decide +kernel

/-- 06, R176: 470 rounds to 480 in E4M3, which saturates to 448. -/
theorem test_round_saturates : roundFmt fE4M3 none true false 470 1 = (0x7E, true) := by decide +kernel

/-- 09: the header of the NAK in the example of one corrupt flit. -/
theorem test_nak_header :
    mkHeader { idleFlit with domain := 0x0A31 } 0xFFF 0xFFF 1 1 0x12A = 0x0A314A8BFFFFFE00#64 := by decide +kernel

/-- 07: six tokens, four experts: the scores as FP32. -/
def tokens : List (List Reg) :=
  [[0x3F666666, 0x3F000000, 0x3DCCCCCD, 0x3E99999A], [0x3F4CCCCD, 0x3E4CCCCD, 0x3F19999A, 0x3F19999A],
   [0x3F333333, 0x3F333333, 0, 0xFF800000], [0x3F733333, 0x3DCCCCCD, 0x3E4CCCCD, 0x3ECCCCCD],
   [0x3F59999A, 0x3E99999A, 0x3F666666, 0x3DCCCCCD], [0xFF800000, 0xFF800000, 0x3F000000, 0x7FC00000]]

def routed : SelResult :=
  let d (cap : Nat) : GroupDecl := { byRow := false, nb := 4, cap, rline := 0, sline := 0, lstride := 0 }
  selectFill (d 3) (d 2) {} {} 2 true tokens

theorem test_select_places : routed.placed1 = [0, 1, 2, 3, 4, 6, 7, 8, 9] ∧ routed.placed2 = [2, 4] ∧ routed.choices = 11
    ∧ routed.dropped = 0 ∧ routed.g1.rowNext = 6 ∧ routed.g1.rerOut = 2 ∧ routed.g2.rowNext = 0 ∧ routed.g2.rerIn = 2 := by
  decide +kernel

theorem test_select_gate : [(3, 0, 2, (0x3E4CCCCD : Reg), 2, 4), (3, 1, 3, 0x3ECCCCCD, 1, 9), (4, 0, 2, 0x3F666666, 1, 7),
    (4, 1, 1, 0x3E99999A, 2, 2)].all routed.gate.contains = true := by decide +kernel

/-! ### Steps -/

/-- What a step leaves. -/
def after (s : State) (c : Instr) : State :=
  match step { s with pending := [c] } with
  | .next t => t
  | _ => s

/-- 18: the events of the example, and a stale value written back. -/
def withEvents : State :=
  made (fun m => m.updFunc pf0 (fun x => { x with seq := 0x42, events := [(8, 0x40), (9, 0x41), (17, 0x42)] }))

theorem test_event_write_back : ((after withEvents (.eventWriteBack 0 0x41)).m.func pf0).events = [(17, 0x42)]
    ∧ ((after withEvents (.eventWriteBack 0 0xC0)).m.func pf0).events = [(8, 0x40), (9, 0x41), (17, 0x42)] := by decide +kernel

/-- 00: furlong 0 of n = 12 ends after 20,480 cycles. -/
theorem test_furlong_length : ({ (default : Partition) with member := { (default : Member) with params := { n := 12 } } }
    : Partition).furStart 1 = 20480 := by decide

/-- The tick of wall time: an idle step from reset. -/
theorem test_idle_step : (match step State.reset with | .next t => t.m.wall | _ => 0) = 1 := by decide +kernel

/-- A start: power, secure boot of an absent image, and RECOVERY (Tables OPS-4 and PHY-5). -/
theorem test_power_applied : (after State.reset (.powerApplied 56000 true 5 500)).hub.power.st = .startup
    ∧ (after State.reset (.powerApplied 46999 true 5 500)).hub.power.st = .off := by decide +kernel

theorem test_image_absent :
    (after (after State.reset (.powerApplied 56000 true 5 500)) (.secureBoot {})).hub.power.st = .recovery := by decide +kernel

/-- Table PHY-1: 72 V is an overvoltage; 62 V for 1 ms is borne. -/
theorem test_overvoltage : (after (made id) (.inputOv 72000 0)).hub.power.fault = 2
    ∧ (after (made id) (.inputOv 62000 1000)).hub.power.fault = 0 := by decide +kernel

/-- R115: FSET's flag is set at the end of its completion cycle; an entry of QPUSH goes to the queue. -/
theorem test_fset : ((after (atCmd .execute 0x04 [(12, 63), (14, 9)]) (.fset 0 .execute)).m.tile 0).inflight.map (·.landing.fset)
    = [some (63, 9)] := by decide +kernel

theorem test_loop_opens : (((after (atCmd .access 0x02 [(12, 2), (14, 1)]) (.repeatCmd 0 .access)).m.tile 0).stream .access).pc = 1 := by
  decide +kernel

/-- R264: NOP completes with its tag and status 0 (Table HST-6). -/
theorem test_nop : (((after (ring pf0 (descriptor 1 [(4, 77)])) (.nop 0 0)).m.func pf0).pair 0).post.map (fun c => (c.tag, c.status))
    = [(77, 0)] := by decide +kernel

/-- R429: the tenth sample in a row with bit 0 lowers the step. -/
theorem test_thermal_next : thermalNext 2 9 false = (1, 0) ∧ thermalNext 3 4 true = (3, 0) ∧ thermalNext 0 9 false = (0, 0) := by
  decide

/-! ### Commands that cannot be spelled -/

def noMeters : Meters :=
  { volt := 0, amp := 0, watt := 0, sensors := sensors 1, energy := [], spareBlocks := 0, flashWritten := 0 }

theorem test_ill_formed :
    [Instr.commandComplete 0 .access 4096, .vExternalComplete 0 4096 .ok 0, .vExternalComplete 0 0 .ok (2 ^ 26),
     .vCommandDeadline 0 4096, .booksCheck (some { part := 0, quantity := 9, object := 0 }),
     .booksCheck (some { part := 0, quantity := 0, object := 0 }), .vHoldCheck 0 (2 ^ 62),
     .flitReceive 0 0 { errors := [], markers := none },
     .flitReceive 0 0 { errors := [0, 0, 0, 0, 0], markers := some [0, 1] }, .prbs31Check 0 0 (2 ^ 20 + 1),
     .stoneRecordEntered 0 4095, .powerApplied (2 ^ 17) true 0 0, .powerApplied 0 true 0 (2 ^ 16),
     .inputUv (2 ^ 17) 0 true, .inputOv (2 ^ 17) 0, .inputOc (2 ^ 20) 0, .thermalSample { sensors 1 with base := [] },
     .criticalSensorRead { sensors 1 with hbm := [] }, .powerOn (List.replicate 33 0), .powerOff (List.replicate 33 0),
     .wake (List.replicate 33 0), .i3cSelect (List.replicate 33 0), .scrub (.localStore 0 524288),
     .correctedLineRewrite (.hbm 0 0x50000000), .hbmRowRepair 0 0 (2 ^ 20), .tierPageAck 0 (2 ^ 29),
     .startupCalibration { fails := 0 } { hbmStacks := 0, cxl0 := 2 ^ 24, cxl1 := 0 },
     .startupCalibration { fails := 0 } { hbmStacks := 0, cxl0 := 0, cxl1 := 2 ^ 24 }, .tableBufferWrite 0 0 (2 ^ 20) 0,
     .trainComplete 0 1 0 4096, .telemetryCapture noMeters].all
      (fun c => !c.wellFormed) = true := by decide +kernel

/-- Readings that are in their ranges, but for one. -/
theorem test_ill_sensors :
    let r : Sensors := { compute := List.replicate 4 1, base := List.replicate 4 1, hbm := List.replicate 8 1, hub := 1
                         inlet := 1, outlet := 1, flow := 1, pressure := 1 }
    wfSensors r = true ∧ [{ r with compute := [] }, { r with base := [] }, { r with hbm := [] }, { r with hub := 32768 },
      { r with inlet := -32769 }, { r with flow := 2 ^ 16 }, { r with pressure := 2 ^ 16 }].all (fun r => !wfSensors r) = true := by
  decide +kernel

/-- A message longer than one transfer, for every row of SPDM. -/
theorem test_long_messages :
    let msg : List Byte := List.replicate 4097 0
    [Instr.getVersion 0 msg, .getCapabilities 0 msg, .negotiateAlgorithms 0 msg, .getDigests 0 msg, .getCertificate 0 msg,
     .challenge 0 msg, .getMeasurements 0 msg, .chunkSend 0 msg, .chunkGet 0 msg, .unsupportedRequest 0 msg,
     .encapGet 0 msg, .keyPut 0 msg, .keyDrop 0 msg, .tierRotate 0 msg, .keyStatus 0 msg].all (fun c => !c.wellFormed) = true := by
  decide +kernel

end Sys2Proof.Tests
end

/-!
SUPPORT. The failure of a node's domain, and of a late hold notice (R54, R298): what the record of the fault, the stop of the
plan, the ABORT on the domain ports and DOMAIN_FAILED do and leave alone, each once; then the notice that comes too late.
-/
namespace Sys2Proof.Machine

/-! ### What a failing partition leaves alone -/

/-- Time, tiles, memories and every partition but p stand, and p keeps its counter and its recorded holds. -/
structure OnlyPart (p : Part) (m m' : Mod) : Prop where
  wall : m'.wall = m.wall
  tiles : m'.tiles = m.tiles
  ls : m'.ls = m.ls
  hbm : m'.hbm = m.hbm
  hostMem : m'.hostMem = m.hostMem
  cxl : m'.cxl = m.cxl
  ctr : (m'.part p).ctr = (m.part p).ctr
  holds : (m'.part p).holds = (m.part p).holds
  others : ∀ k, k ≠ p → m'.part k = m.part k

namespace OnlyPart

variable {p : Part} {a b c m : Mod}

theorem refl (p : Part) (m : Mod) : OnlyPart p m m := ⟨rfl, rfl, rfl, rfl, rfl, rfl, rfl, rfl, fun _ _ => rfl⟩

theorem trans (h : OnlyPart p a b) (k : OnlyPart p b c) : OnlyPart p a c :=
  ⟨k.wall.trans h.wall, k.tiles.trans h.tiles, k.ls.trans h.ls, k.hbm.trans h.hbm, k.hostMem.trans h.hostMem,
    k.cxl.trans h.cxl, k.ctr.trans h.ctr, k.holds.trans h.holds, fun j hj => (k.others j hj).trans (h.others j hj)⟩

theorem setPart {x : Partition} (hc : x.ctr = (m.part p).ctr) (hh : x.holds = (m.part p).holds) : OnlyPart p m (m.setPart p x) :=
  ⟨rfl, rfl, rfl, rfl, rfl, rfl, by simpa using hc, by simpa using hh, fun k hk => part_setPart_ne m p k x hk⟩

theorem updPart {g : Partition → Partition} (hc : (g (m.part p)).ctr = (m.part p).ctr)
    (hh : (g (m.part p)).holds = (m.part p).holds) : OnlyPart p m (m.updPart p g) := setPart hc hh

theorem updPort (q : PortId) (g : Port → Port) : OnlyPart p m (m.updPort q g) :=
  ⟨rfl, rfl, rfl, rfl, rfl, rfl, rfl, rfl, fun _ _ => rfl⟩

theorem updFunc (f : Fn) (g : Func → Func) : OnlyPart p m (m.updFunc f g) :=
  ⟨rfl, rfl, rfl, rfl, rfl, rfl, rfl, rfl, fun _ _ => rfl⟩

/-- In the terms of the statements: hub, queue, time, every counter and every memory stand. -/
theorem stands {s : State} (h : OnlyPart p s.m m) : Still s { s with m := m } ∧ MemoriesStand s { s with m := m } := by
  refine ⟨⟨rfl, rfl, h.wall, fun k => ?_⟩, ⟨h.ls, h.hbm, h.hostMem, h.cxl⟩⟩
  by_cases hk : k = p
  · subst hk; exact h.ctr
  · exact congrArg Partition.ctr (h.others k hk)

end OnlyPart

/-! ### Events -/

theorem alPut_has_key {α : Type} (l : List (Nat × α)) (k : Nat) (v : α) : (alPut l k v).any (fun e => e.1 == k) = true := by
  induction l with
  | nil => simp [alPut]
  | cons e l ih =>
    obtain ⟨j, w⟩ := e
    rw [alPut]
    by_cases hlt : k < j
    · rw [if_pos hlt, List.any_cons, beq_self_eq_true, Bool.true_or]
    · by_cases heq : k = j
      · rw [if_neg hlt, if_pos heq, List.any_cons, beq_self_eq_true, Bool.true_or]
      · rw [if_neg hlt, if_neg heq, List.any_cons, ih, Bool.or_true]

@[simp] theorem msix_events (x : Func) (v : Nat) : (x.msix v).events = x.events := by
  unfold Func.msix; split <;> rfl

theorem occur_events (x : Func) (bit : Nat) : (x.occur bit).events.any (fun e => e.1 == bit) = true := by
  unfold Func.occur
  dsimp only
  split
  · rw [msix_events]; exact alPut_has_key ..
  · exact alPut_has_key ..

theorem vfOf_ne_pf0 (p : Part) : vfOf p ≠ pf0 := fun h => absurd (congrArg Fin.val h) (Nat.succ_ne_zero p.val)

/-- An event posted for a partition stands in its VF and in PF0. -/
theorem postBoth_events (p : Part) (bit : Nat) (m : Mod) :
    ((postBoth p bit m).func (vfOf p)).events.any (fun e => e.1 == bit) = true
      ∧ ((postBoth p bit m).func pf0).events.any (fun e => e.1 == bit) = true := by
  unfold postBoth postEvent
  constructor
  · rw [func_updFunc_ne _ _ _ _ (vfOf_ne_pf0 p), func_updFunc]; exact occur_events ..
  · rw [func_updFunc]; exact occur_events ..

@[simp] theorem postBoth_part (p : Part) (bit : Nat) (m : Mod) : (postBoth p bit m).part = m.part := rfl

theorem postBoth_onlyPart (p k : Part) (bit : Nat) (m : Mod) : OnlyPart k m (postBoth p bit m) :=
  (OnlyPart.updFunc (vfOf p) (·.occur bit)).trans (OnlyPart.updFunc pf0 (·.occur bit))

@[simp] theorem postFailed_part (p : Part) (cause : Nat) (m : Mod) : (postFailed p cause m).part = m.part := rfl
@[simp] theorem postFailed_port (p : Part) (cause : Nat) (m : Mod) : (postFailed p cause m).port = m.port := rfl

theorem postFailed_events (p : Part) (cause : Nat) (m : Mod) :
    ((postFailed p cause m).func (vfOf p)).events.any (fun e => e.1 == evDomainFailed) = true
      ∧ ((postFailed p cause m).func pf0).events.any (fun e => e.1 == evDomainFailed) = true :=
  postBoth_events p evDomainFailed _

theorem postFailed_onlyPart (p k : Part) (cause : Nat) (m : Mod) : OnlyPart k m (postFailed p cause m) := by
  unfold postFailed
  exact ((OnlyPart.updFunc ..).trans (OnlyPart.updFunc ..)).trans (postBoth_onlyPart ..)

/-! ### The record of a fault that names no line of memory (R445) -/

/-- The partition with one record more in its fault log of 16, or with the log's overflow noted. -/
def Partition.keepRecord (r : FaultRec) (x : Partition) : Partition :=
  let r := { r with seq := x.faultLog.length }
  let x := { x with faultCount := satAdd 255 x.faultCount 1 }
  if x.faultLog.length < 16 then { x with faultLog := x.faultLog ++ [r] } else { x with flogOvf := true }

theorem keepRecord_of_room {x : Partition} (h : x.faultLog.length < 16) (r : FaultRec) :
    (x.keepRecord r).faultLog = x.faultLog ++ [{ r with seq := x.faultLog.length }] := by
  simp [Partition.keepRecord, h]

theorem keepRecord_of_full {x : Partition} (h : 16 ≤ x.faultLog.length) (r : FaultRec) : (x.keepRecord r).flogOvf = true := by
  simp [Partition.keepRecord, Nat.not_lt.2 h]

/-- A record changes nothing of the partition but its fault log and the count and overflow of the log. -/
theorem keepRecord_eq (r : FaultRec) (x : Partition) :
    ∃ n l o, x.keepRecord r = { x with faultCount := n, faultLog := l, flogOvf := o } := by
  unfold Partition.keepRecord
  dsimp only
  split <;> exact ⟨_, _, _, rfl⟩

theorem keepRecord_frame (r : FaultRec) (x : Partition) :
    (x.keepRecord r).ctr = x.ctr ∧ (x.keepRecord r).holds = x.holds ∧ (x.keepRecord r).member = x.member
      ∧ (x.keepRecord r).hasBay = x.hasBay := by
  obtain ⟨n, l, o, h⟩ := keepRecord_eq r x
  rw [h]
  exact ⟨rfl, rfl, rfl, rfl⟩

/-- Only a MEM_UE names a line for the UE log. -/
theorem logFault_of_not_memUe {r : FaultRec} (h : r.code ≠ 0x0011) (p : Part) (m : Mod) :
    logFault p r m = postBoth p evFault (m.updPart p (Partition.keepRecord r)) := by
  have hl : r.line p m = none := by unfold FaultRec.line; rw [if_pos h]
  unfold logFault
  rw [hl]
  rfl

/-! ### The end of the plan (R57, R298) -/

theorem cutHold_eq (x : Partition) (wall : Nat) : ∃ st t, x.cutHold wall = { x with standing := st, tel := t } := by
  unfold Partition.cutHold
  split
  · exact ⟨x.standing, x.tel, rfl⟩
  · exact ⟨_, _, rfl⟩

/-- The partition as its plan stops. -/
def Partition.stopped (wall : Nat) (x : Partition) : Partition :=
  { x.cutHold wall with running := false, chkPending := false, dueFaults := [] }

theorem stopped_frame (wall : Nat) (x : Partition) :
    (x.stopped wall).ctr = x.ctr ∧ (x.stopped wall).holds = x.holds ∧ (x.stopped wall).member = x.member
      ∧ (x.stopped wall).hasBay = x.hasBay ∧ (x.stopped wall).faultLog = x.faultLog
      ∧ (x.stopped wall).flogOvf = x.flogOvf := by
  unfold Partition.stopped
  obtain ⟨st, t, h⟩ := cutHold_eq x wall
  rw [h]
  exact ⟨rfl, rfl, rfl, rfl, rfl, rfl⟩

/-- A stop of the plan changes the partition and the check block of its VF. -/
theorem stopPlan_eq (p : Part) (m : Mod) :
    ∃ fs, stopPlan p m = ({ m with funcs := fs } : Mod).setPart p ((m.part p).stopped m.wall) := by
  unfold stopPlan
  dsimp only
  split
  · exact ⟨_, rfl⟩
  · exact ⟨m.funcs, rfl⟩

/-- A stop that refuses a HOLD_REQ of its cycle (R488) changes one register more. -/
theorem refuseHoldReq_stopPlan_eq (p : Part) (w : Nat) (m : Mod) :
    ∃ fs v, refuseHoldReq p w (stopPlan p m)
      = ({ m with funcs := fs, regs := { m.regs with holdReq := v } } : Mod).setPart p ((m.part p).stopped m.wall) := by
  obtain ⟨fs, h⟩ := stopPlan_eq p m
  rw [h]
  unfold refuseHoldReq
  split
  · exact ⟨fs, 2, rfl⟩
  · exact ⟨fs, m.regs.holdReq, rfl⟩

theorem refuseHoldReq_stopPlan_onlyPart (p : Part) (w : Nat) (m : Mod) : OnlyPart p m (refuseHoldReq p w (stopPlan p m)) := by
  obtain ⟨fs, v, h⟩ := refuseHoldReq_stopPlan_eq p w m
  obtain ⟨hc, hh, -⟩ := stopped_frame m.wall (m.part p)
  rw [h]
  have k : OnlyPart p m { m with funcs := fs, regs := { m.regs with holdReq := v } } :=
    ⟨rfl, rfl, rfl, rfl, rfl, rfl, rfl, rfl, fun _ _ => rfl⟩
  exact k.trans (.setPart hc hh)

/-! ### The ABORT on the domain ports (R298) -/

/-- The domain ports of a partition depend on its bays, its member and the module's node alone (R283). -/
theorem isDomainPort_congr {p : Part} {m m' : Mod} (hb : (m'.part p).hasBay = (m.part p).hasBay)
    (hm : (m'.part p).member = (m.part p).member) (hn : m'.node = m.node) : m'.isDomainPort p = m.isDomainPort p := by
  funext q
  unfold Mod.isDomainPort Mod.domainLink
  rw [hb, hm, hn]

theorem cutPayloads_ne_nil : ∀ (n : Nat) (bs : Bytes), 0 < n → cutPayloads n bs ≠ []
  | _ + 1, _, _ => List.cons_ne_nil _ _

/-- A management packet has a flit. -/
theorem mgFlits_ne_nil (m : Mod) (q : PortId) (b : Bytes) : m.mgFlits q b ≠ [] := by
  unfold Mod.mgFlits packetFlits
  dsimp only
  rw [ne_eq, List.mapIdx_eq_nil_iff]
  exact cutPayloads_ne_nil _ _ (Nat.lt_of_lt_of_le Nat.one_pos (Nat.le_max_left 1 _))

/-- The ABORT put ahead of the packets of MG on some ports. -/
def queueAbort (b : Bytes) (ports : List PortId) (m : Mod) : Mod :=
  ports.foldl (fun m q => queueVcFirst q vcMg (m.mgFlits q b) m) m

theorem queueAbort_cons (b : Bytes) (q : PortId) (l : List PortId) (m : Mod) :
    queueAbort b (q :: l) m = queueAbort b l (queueVcFirst q vcMg (m.mgFlits q b) m) := rfl

theorem queueAbort_onlyPart (p : Part) (b : Bytes) (l : List PortId) (m : Mod) : OnlyPart p m (queueAbort b l m) := by
  induction l generalizing m with
  | nil => exact .refl p m
  | cons q l ih => rw [queueAbort_cons]; exact (OnlyPart.updPort ..).trans (ih _)

@[simp] theorem queueAbort_part (b : Bytes) (l : List PortId) (m : Mod) : (queueAbort b l m).part = m.part := by
  induction l generalizing m with
  | nil => rfl
  | cons q l ih => rw [queueAbort_cons, ih]; rfl

theorem queueVcFirst_rxHold (q k : PortId) (vc : Nat) (fs : List TxFlit) (m : Mod) :
    ((queueVcFirst q vc fs m).port k).rxHold = (m.port k).rxHold := by
  unfold queueVcFirst
  by_cases hk : k = q
  · subst hk; rw [port_updPort]
  · rw [port_updPort_ne _ _ _ _ hk]

theorem queueAbort_rxHold (b : Bytes) (l : List PortId) (m : Mod) (k : PortId) :
    ((queueAbort b l m).port k).rxHold = (m.port k).rxHold := by
  induction l generalizing m with
  | nil => rfl
  | cons q l ih => rw [queueAbort_cons, ih, queueVcFirst_rxHold]

/-- MG waits at the port that is given flits of it, and where it has waited. -/
theorem queueVcFirst_waits {q k : PortId} {fs : List TxFlit} {m : Mod} (hf : fs ≠ [])
    (h : k = q ∨ (m.port k).txVc[4]! ≠ []) : ((queueVcFirst q vcMg fs m).port k).txVc[4]! ≠ [] := by
  unfold queueVcFirst
  by_cases hk : k = q
  · subst hk
    rw [port_updPort]
    simp [vcMg, hf]
  · rw [port_updPort_ne _ _ _ _ hk]
    exact h.resolve_left hk

theorem queueAbort_waits (b : Bytes) (l : List PortId) (m : Mod) (k : PortId) (h : k ∈ l ∨ (m.port k).txVc[4]! ≠ []) :
    ((queueAbort b l m).port k).txVc[4]! ≠ [] := by
  induction l generalizing m with
  | nil => exact h.resolve_left (by simp)
  | cons q l ih =>
    rw [queueAbort_cons]
    rw [List.mem_cons, or_comm (a := k = q), or_assoc] at h
    exact ih _ (h.imp_right (queueVcFirst_waits (mgFlits_ne_nil m q b)))

/-! ### The failure of a member (R298) -/

/-- The member is COMMITTED or RUNNING: its job can fail. -/
def Partition.inJob (x : Partition) : Prop := x.member.st = .running ∨ x.member.st = .committed

/-- The partition as its member enters TEARDOWN for a failure. -/
def Partition.tornDown (cause wall : Nat) (x : Partition) : Partition :=
  { x with member := { x.member with st := .teardown, since := wall, failed := some cause },
           serving := x.serving.fail, thermNext := none }

/-- The line of the ABORT by which a member fails its domain. -/
def abortLine (p : Part) (cause : Nat) (origin : BitVec 24) (stamp : Nat) (m : Mod) : MgLine :=
  { mtype := 5, domain := m.domainId p, cause, stamp, origin }

/-- The module as a plan has stopped and the ABORT waits. -/
def abortPlan (p : Part) (cause : Nat) (origin : BitVec 24) (stamp : Nat) (src : Option PortId) (m : Mod) : Mod :=
  let m := refuseHoldReq p m.wall (stopPlan p m)
  queueAbort (abortLine p cause origin stamp m).bytes ((m.domainPorts p).filter (fun q => some q != src)) m

section
variable {p : Part} {m : Mod} (h : (m.part p).inJob) (cause : Nat) (origin : BitVec 24) (stamp : Nat) (src : Option PortId)

theorem abortPlan_onlyPart (p : Part) (m : Mod) : OnlyPart p m (abortPlan p cause origin stamp src m) :=
  (refuseHoldReq_stopPlan_onlyPart ..).trans (queueAbort_onlyPart ..)

theorem abortPlan_part (p : Part) (m : Mod) :
    (abortPlan p cause origin stamp src m).part p = (m.part p).stopped m.wall := by
  unfold abortPlan
  obtain ⟨fs, v, e⟩ := refuseHoldReq_stopPlan_eq p m.wall m
  rw [queueAbort_part, e, part_setPart]

theorem abortPlan_rxHold (p : Part) (m : Mod) (k : PortId) :
    ((abortPlan p cause origin stamp src m).port k).rxHold = (m.port k).rxHold := by
  unfold abortPlan
  obtain ⟨fs, v, e⟩ := refuseHoldReq_stopPlan_eq p m.wall m
  rw [queueAbort_rxHold, e]
  rfl

theorem abortPlan_waits {k : PortId} (hk : m.isDomainPort p k = true) (hs : some k ≠ src) :
    ((abortPlan p cause origin stamp src m).port k).txVc[4]! ≠ [] := by
  obtain ⟨-, -, hm, hb, -⟩ := stopped_frame m.wall (m.part p)
  obtain ⟨fs, v, e⟩ := refuseHoldReq_stopPlan_eq p m.wall m
  have hd : (refuseHoldReq p m.wall (stopPlan p m)).isDomainPort p k = true := by
    rw [isDomainPort_congr (m := m) (by rw [e, part_setPart, hb]) (by rw [e, part_setPart, hm]) (by rw [e]; rfl)]
    exact hk
  exact queueAbort_waits _ _ _ _ (.inl (by simp [Mod.domainPorts, allPorts, hd, hs]))

include h

theorem failMember_eq : failMember p cause origin stamp src m
    = postFailed p cause ((abortPlan p cause origin stamp src m).updPart p (Partition.tornDown cause m.wall)) := by
  rw [← (abortPlan_onlyPart cause origin stamp src p m).wall]
  unfold failMember
  rcases h with h | h <;> rw [h] <;> rfl

theorem failMember_onlyPart : OnlyPart p m (failMember p cause origin stamp src m) := by
  rw [failMember_eq h]
  exact ((abortPlan_onlyPart ..).trans (.updPart rfl rfl)).trans (postFailed_onlyPart ..)

theorem failMember_part :
    (failMember p cause origin stamp src m).part p = ((m.part p).stopped m.wall).tornDown cause m.wall := by
  rw [failMember_eq h, postFailed_part, part_updPart, abortPlan_part]

theorem failMember_rxHold (k : PortId) : ((failMember p cause origin stamp src m).port k).rxHold = (m.port k).rxHold := by
  rw [failMember_eq h, postFailed_port, port_updPart, abortPlan_rxHold]

theorem failMember_waits {k : PortId} (hk : m.isDomainPort p k = true) (hs : some k ≠ src) :
    ((failMember p cause origin stamp src m).port k).txVc[4]! ≠ [] := by
  rw [failMember_eq h, postFailed_port, port_updPart]
  exact abortPlan_waits cause origin stamp src hk hs

theorem failMember_events :
    ((failMember p cause origin stamp src m).func (vfOf p)).events.any (fun e => e.1 == evDomainFailed) = true
      ∧ ((failMember p cause origin stamp src m).func pf0).events.any (fun e => e.1 == evDomainFailed) = true := by
  rw [failMember_eq h]
  exact postFailed_events ..

end

/-! ### The failure of a node (R54, R298) -/

/-- The record of a failure of the module that ends a domain. -/
def nodeRecord (code cause object cycle : Nat) : FaultRec :=
  { code, cause, seq := 0, cycle, locA := none, locB := none, object, ptileA := none, ptileB := none }

/-- The module as that record is kept. -/
def recordNode (p : Part) (code cause object : Nat) (m : Mod) : Mod :=
  postBoth p evFault (m.updPart p (Partition.keepRecord (nodeRecord code cause object (m.part p).ctr)))

section
variable {p : Part} {m : Mod} {code : Nat} (cause object : Nat)

theorem recordNode_part (p : Part) (m : Mod) (code : Nat) : (recordNode p code cause object m).part p
    = (m.part p).keepRecord (nodeRecord code cause object (m.part p).ctr) := by
  rw [recordNode, postBoth_part, part_updPart]

theorem recordNode_onlyPart : OnlyPart p m (recordNode p code cause object m) := by
  obtain ⟨hc, hh, -⟩ := keepRecord_frame (nodeRecord code cause object (m.part p).ctr) (m.part p)
  exact (OnlyPart.updPart hc hh).trans (postBoth_onlyPart ..)

theorem recordNode_isDomainPort : (recordNode p code cause object m).isDomainPort p = m.isDomainPort p := by
  obtain ⟨-, -, hm, hb⟩ := keepRecord_frame (nodeRecord code cause object (m.part p).ctr) (m.part p)
  exact isDomainPort_congr (by rw [recordNode_part, hb]) (by rw [recordNode_part, hm]) rfl

theorem recordNode_inJob (h : (m.part p).inJob) : ((recordNode p code cause object m).part p).inJob := by
  obtain ⟨-, -, hm, -⟩ := keepRecord_frame (nodeRecord code cause object (m.part p).ctr) (m.part p)
  rw [recordNode_part, Partition.inJob, hm]
  exact h

/-- The record is kept, then the member fails by its own failure. -/
theorem failNode_eq (h : (m.part p).inJob) (hc : code ≠ 0x0011) :
    failNode p code cause object m = failOwn p code (recordNode p code cause object m) := by
  unfold recordNode
  rw [← logFault_of_not_memUe (r := nodeRecord code cause object (m.part p).ctr) hc]
  unfold failNode
  rcases h with h | h <;> rw [h] <;> rfl

end

/-- The partition of a failed node: the record is kept, the plan has stopped, and its member is in TEARDOWN. -/
def Partition.failedNode (code cause object wall : Nat) (x : Partition) : Partition :=
  ((x.keepRecord (nodeRecord code cause object x.ctr)).stopped wall).tornDown code wall

theorem failedNode_log (code cause object wall : Nat) {x : Partition} (h : x.faultLog.length < 16) :
    (x.failedNode code cause object wall).faultLog
      = x.faultLog ++ [{ nodeRecord code cause object x.ctr with seq := x.faultLog.length }] := by
  obtain ⟨-, -, -, -, hl, -⟩ := stopped_frame wall (x.keepRecord (nodeRecord code cause object x.ctr))
  exact hl.trans (keepRecord_of_room h _)

theorem failedNode_ovf (code cause object wall : Nat) {x : Partition} (h : 16 ≤ x.faultLog.length) :
    (x.failedNode code cause object wall).flogOvf = true := by
  obtain ⟨-, -, -, -, -, ho⟩ := stopped_frame wall (x.keepRecord (nodeRecord code cause object x.ctr))
  exact ho.trans (keepRecord_of_full h _)

/-- What the failure of a node does: its record and TEARDOWN in the partition, DOMAIN_FAILED, and an ABORT that waits on every
domain port; what it leaves: the notices that wait, time, tiles, memories and the other partitions. -/
structure NodeFails (p : Part) (code cause object : Nat) (m m' : Mod) : Prop where
  only : OnlyPart p m m'
  part : m'.part p = (m.part p).failedNode code cause object m.wall
  rxHold : ∀ k, (m'.port k).rxHold = (m.port k).rxHold
  aborts : ∀ k, m.isDomainPort p k = true → (m'.port k).txVc[4]! ≠ []
  vfEvent : (m'.func (vfOf p)).events.any (fun e => e.1 == evDomainFailed) = true
  pfEvent : (m'.func pf0).events.any (fun e => e.1 == evDomainFailed) = true

theorem failNode_fails {p : Part} {m : Mod} (h : (m.part p).inJob) {code : Nat} (hc : code ≠ 0x0011) (cause object : Nat) :
    NodeFails p code cause object m (failNode p code cause object m) := by
  have hj := recordNode_inJob (code := code) cause object h
  have ho : OnlyPart p m (recordNode p code cause object m) := recordNode_onlyPart cause object
  rw [failNode_eq cause object h hc]
  unfold failOwn
  refine ⟨ho.trans (failMember_onlyPart hj ..), ?_, fun k => failMember_rxHold hj .., fun k hk => ?_,
    (failMember_events hj ..).1, (failMember_events hj ..).2⟩
  · rw [failMember_part hj, recordNode_part, ho.wall, Partition.failedNode]
  · exact failMember_waits hj _ _ _ _ (by rw [recordNode_isDomainPort]; exact hk) nofun

/-! ### A notice that comes too late (R54) -/

/-- The module as the oldest notice of a port is taken, and others are left. -/
def takeHold (q : PortId) (rest : List (Bytes × BitVec 64 × Nat)) (m : Mod) : Mod :=
  m.updPort q (fun x => { x with rxHold := rest })

theorem takeHold_port (q : PortId) (rest : List (Bytes × BitVec 64 × Nat)) (m : Mod) :
    (takeHold q rest m).port q = { m.port q with rxHold := rest } := port_updPort ..

theorem takeHold_onlyPart (p : Part) (q : PortId) (rest : List (Bytes × BitVec 64 × Nat)) (m : Mod) :
    OnlyPart p m (takeHold q rest m) := .updPort ..

@[simp] theorem partOfPort_updPort (m : Mod) (k : PortId) (g : Port → Port) : (m.updPort k g).partOfPort = m.partOfPort := rfl

/-- A good notice on a domain in its job, whose TARGET is neither ahead, nor stood at, nor recorded at the present cycle, is
taken from the port and fails the node. -/
theorem holdNotice_late {q : PortId} {p : Part} {m : Mod} {b : Bytes} {h : BitVec 64} {n : Nat}
    {rest : List (Bytes × BitVec 64 × Nat)} (hq : (m.port q).rxHold = (b, h, n) :: rest)
    (hg : noticeGood b (m.port q).domain = true) (hp : m.partOfPort q = some p) (hj : (m.part p).inJob)
    (hs : ∀ st, (m.part p).standing = some st → st.target ≠ (Notice.parse b).target)
    (ht : (Notice.parse b).target < (m.part p).ctr
      ∨ ((Notice.parse b).target = (m.part p).ctr ∧ (m.part p).hold (Notice.parse b).target = none)) :
    holdNotice q m = failNode p cHoldLate 0 q.val (takeHold q rest m) := by
  unfold holdNotice takeHold
  simp only [hq, port_updPort, hg, partOfPort_updPort, hp, part_updPort, Bool.not_true, Bool.false_eq_true, if_false]
  refine (if_neg ?_).trans (if_neg ?_)
  · rcases hj with hj | hj <;> rw [hj] <;> decide
  · intro hc
    simp only [Bool.or_eq_true, Bool.and_eq_true, beq_iff_eq] at hc
    rcases hc with (hc | hc) | ⟨hc, hr⟩
    · split at hc
      · next st e => exact hs st e (beq_iff_eq.1 hc)
      · exact Bool.false_ne_true hc
    · have hlt : (m.part p).ctr < (Notice.parse b).target := of_decide_eq_true hc
      omega
    · rcases ht with ht | ⟨-, hn⟩
      · omega
      · rw [hn] at hr; exact Bool.false_ne_true hr

/-- Settles O24: the late notice is taken, and the failure of the node is all that it does. -/
theorem lateHoldFailsTheDomain : Obligations.LateHoldFailsTheDomain := by
  intro q p s b h n rest hq hg hp hj hs ht
  have hf : NodeFails p cHoldLate 0 q.val (takeHold q rest s.m) (holdNotice q s.m) := by
    rw [holdNotice_late hq hg hp hj hs ht]
    exact failNode_fails (m := takeHold q rest s.m) hj (by decide : cHoldLate ≠ 0x0011) 0 q.val
  have hpart : (holdNotice q s.m).part p = (s.m.part p).failedNode cHoldLate 0 q.val s.m.wall := hf.part
  have hrest : ((holdNotice q s.m).port q).rxHold = rest := by rw [hf.rxHold, takeHold_port]
  have ho : OnlyPart p s.m (holdNotice q s.m) := (takeHold_onlyPart p q rest s.m).trans hf.only
  refine ⟨{ s with m := holdNotice q s.m }, rfl, ho.stands.1, ho.stands.2, ho.tiles, hrest, ho.holds, ?_⟩
  dsimp only
  rw [hpart]
  exact ⟨fun hn => ⟨_, failedNode_log cHoldLate 0 q.val s.m.wall hn, rfl, rfl, rfl⟩,
    failedNode_ovf cHoldLate 0 q.val s.m.wall, rfl, rfl, rfl, rfl, hf.vfEvent, hf.pfEvent, hf.aborts, ho.others⟩

end Sys2Proof.Machine

/-!
SUPPORT. The slot of a link port and the turn of the VCs (R250, R262, R264): what LINK_SLOT does in a slot that begins now, what
putting a flit on the lanes leaves of the port, what a spent credit leaves, and which VC order 7 takes; each once.
-/
namespace Sys2Proof.Machine

/-! ### A slot that begins now (R243, R250) -/

@[simp] theorem advanceWall_self (m : Mod) : advanceWall m.wall m = m := by
  simp [advanceWall, advance]

/-- Where a slot begins in the present cycle and the port stays, LINK_SLOT is that slot. -/
theorem exec_linkSlot_of_begins {q : PortId} {s : State} (h : SlotBegins q s) :
    exec (.linkSlot q) s = .next { s with m := slotNow q s.m } := by
  have hst : ((s.m.port q).st != .active && (s.m.port q).st != .narrow && (s.m.port q).st != .calibrate) = false := by
    rcases h.sends with e | e | e <;> rw [e] <;> rfl
  have hka : ((s.m.port q).kaDue && s.m.nextFrame q s.m.wall == s.m.wall) = false := by
    rcases h.stays with e | e
    · rw [e, Bool.false_and]
    · rw [beq_false_of_ne e, Bool.and_false]
  change execLinkSlot q s = _
  simp [execLinkSlot, hst, h.begins, hka]

/-- The beginning of a slot moves the frame, the planned flits and the counts, and leaves the rest of the port. -/
theorem slotPort_eq (q : PortId) (m : Mod) :
    ∃ at' n pl c, m.slotPort q = { m.port q with txFrameAt := at', txFrame := n, planned := pl, counts := c } := by
  unfold Mod.slotPort Mod.frameNow
  dsimp only
  split <;> exact ⟨_, _, _, _, rfl⟩

theorem st_ne_calibrate_of_carries {x : Port} (h : x.carries = true) : x.st ≠ .calibrate := by
  intro e
  simp [Port.carries, e] at h

/-- A port that carries packets has been activated already. -/
theorem tryActivate_of_carries {q : PortId} {m : Mod} (h : (m.port q).carries = true) : tryActivate q m = m := by
  unfold tryActivate
  dsimp only
  split
  · rfl
  · exact if_pos (by simp [st_ne_calibrate_of_carries h])

/-! ### What leaves on the lanes (R246, R262, R264) -/

theorem sendUse_st (x : Port) (u : SlotUse) (wall : Nat) : (x.sendUse u wall).st = x.st := by
  cases u with
  | replay s => rw [Port.sendUse]; split <;> rfl
  | _ => rfl

theorem sendUse_data_txVc (x : Port) (vc : Nat) (f : TxFlit) (wall : Nat) :
    (x.sendUse (.data vc f) wall).txVc = x.txVc.set! (vc - 1) ((x.txVc[vc - 1]!).drop 1) := rfl

theorem sendUse_data_lastVc (x : Port) (vc : Nat) (f : TxFlit) (wall : Nat) : (x.sendUse (.data vc f) wall).lastVc = vc := rfl

theorem sendUse_data_creditOf (x : Port) (vc : Nat) (f : TxFlit) (wall : Nat) :
    (x.sendUse (.data vc f) wall).creditOf = (x.spend vc wall).creditOf := rfl

/-- The flit carries the next sequence number and the first 240 bytes of its payload. -/
theorem sendUse_data_sent (x : Port) (vc : Nat) (f : TxFlit) (wall : Nat) :
    ∃ w, (x.sendUse (.data vc f) wall).sent = some w ∧ w.seq = x.nextSeq ∧ w.payload = sliceB f.payload 0 240 :=
  ⟨_, rfl, rfl, rfl⟩

theorem sliceB_replicate (n : Nat) (a : Byte) : sliceB (List.replicate n a) 0 n = List.replicate n a := by
  simp [sliceB]

/-! ### Credits (R262) -/

theorem getElem!_set!_self (v : Vector Nat 5) {i : Nat} (h : i < 5) (a : Nat) : (v.set! i a)[i]! = a := by
  rw [getElem!_pos _ i h]
  exact Vector.getElem_setIfInBounds_self ..

theorem getElem!_mapIdx (v : Vector Nat 5) (g : Nat → Nat → Nat) {i : Nat} (h : i < 5) : (v.mapIdx g)[i]! = g i v[i]! := by
  rw [getElem!_pos _ i h, getElem!_pos _ i h, Vector.getElem_mapIdx]

/-- Once the usable reports are taken in, none of those left is usable. -/
theorem filter_usable_later (l : List (Nat × Nat × Nat)) (vc wall : Nat) :
    (l.filter (not ∘ fun c => decide (c.2.2 ≤ wall))).filter (fun c => c.1 == vc && decide (c.2.2 ≤ wall)) = [] := by
  rw [List.filter_filter, List.filter_eq_nil_iff]
  intro c _ hc
  simp only [Function.comp_apply, Bool.and_eq_true, Bool.not_eq_true', decide_eq_false_iff_not, decide_eq_true_eq] at hc
  exact hc.2 hc.1.2

/-- A flit of a VC takes in the reports that are usable, and spends one of the credits they make up. -/
theorem creditOf_spend (x : Port) {vc : Nat} (wall : Nat) (h1 : 1 ≤ vc) (h5 : vc ≤ 5) :
    (x.spend vc wall).creditOf vc wall = x.creditOf vc wall - 1 := by
  have hi : vc - 1 < 5 := by omega
  have hsub : vc - 1 + 1 = vc := by omega
  simp only [Port.creditOf, Port.spend, List.partition_eq_filter_filter, filter_usable_later, List.map_nil, List.foldl_nil,
    Nat.add_zero]
  rw [getElem!_set!_self _ hi, getElem!_mapIdx _ _ hi, hsub, List.filter_filter]

/-! ### The turn of the VCs (R264) -/

/-- The VC that comes i places after the one last served. -/
def Port.turn (x : Port) (i : Nat) : Nat := (x.lastVc + i) % 5 + 1

theorem turn_pos (x : Port) (i : Nat) : 1 ≤ x.turn i := Nat.le_add_left ..

theorem turn_le (x : Port) (i : Nat) : x.turn i ≤ 5 := Nat.succ_le_of_lt (Nat.mod_lt _ (by decide))

/-- A VC can be served: it has a flit ready and a credit. -/
def Port.Serves (x : Port) (wall vc : Nat) : Prop := x.txVc[vc - 1]! ≠ [] ∧ 0 < x.creditOf vc wall

/-- What a VC gives order 7: its oldest flit, where it has a credit. -/
def Port.offer (x : Port) (wall vc : Nat) : Option (Nat × TxFlit) :=
  if 0 < x.creditOf vc wall then (x.txVc[vc - 1]!).head?.map (vc, ·) else none

theorem offer_of_serves {x : Port} {wall vc : Nat} (h : x.Serves wall vc) :
    ∃ f rest, x.txVc[vc - 1]! = f :: rest ∧ x.offer wall vc = some (vc, f) := by
  obtain ⟨f, rest, hf⟩ := List.exists_cons_of_ne_nil h.1
  exact ⟨f, rest, hf, by simp [Port.offer, h.2, hf]⟩

theorem offer_of_not_serves {x : Port} {wall vc : Nat} (h : ¬ x.Serves wall vc) : x.offer wall vc = none := by
  unfold Port.offer
  split
  · next hc =>
    have hnil : x.txVc[vc - 1]! = [] := Decidable.byContradiction fun hn => h ⟨hn, hc⟩
    simp [hnil]
  · rfl

theorem nextData_eq_findSome_offer (x : Port) (wall : Nat) :
    x.nextData wall = (List.range 5).findSome? (fun i => x.offer wall (x.turn i)) := by
  unfold Port.nextData
  rw [List.findSome?_map]
  congr 1
  funext i
  simp only [Function.comp_apply, Port.offer, Port.turn]
  split <;> simp only [*, List.head?_cons, List.head?_nil, Option.map_some, Option.map_none, ite_self, gt_iff_lt]

theorem findSome?_range_of_first {α : Type} {g : Nat → Option α} {n i : Nat} {a : α} (hi : i < n) (ha : g i = some a)
    (hb : ∀ j, j < i → g j = none) : (List.range n).findSome? g = some a := by
  induction n with
  | zero => omega
  | succ n ih =>
    rw [List.range_succ, List.findSome?_append]
    rcases Nat.lt_succ_iff_lt_or_eq.1 hi with hlt | rfl
    · rw [ih hlt, Option.some_or]
    · rw [List.findSome?_eq_none_iff.2 fun j hj => hb j (List.mem_range.1 hj)]
      simp [ha]

/-- The first VC in turn that can be served is taken, with its oldest flit. -/
theorem nextData_of_first {x : Port} {wall i : Nat} (hi : i < 5) (h : x.Serves wall (x.turn i))
    (hb : ∀ j, j < i → ¬ x.Serves wall (x.turn j)) :
    ∃ f rest, x.txVc[x.turn i - 1]! = f :: rest ∧ x.nextData wall = some (x.turn i, f) := by
  obtain ⟨f, rest, hf, ho⟩ := offer_of_serves h
  refine ⟨f, rest, hf, ?_⟩
  rw [nextData_eq_findSome_offer]
  exact findSome?_range_of_first hi ho fun j hj => offer_of_not_serves (hb j hj)

theorem nextData_of_none {x : Port} {wall : Nat} (h : ∀ i, i < 5 → ¬ x.Serves wall (x.turn i)) : x.nextData wall = none := by
  rw [nextData_eq_findSome_offer, List.findSome?_eq_none_iff]
  exact fun i hi => offer_of_not_serves (h i (List.mem_range.1 hi))

/-! ### Nothing of orders 1 to 6 (Table LNK-5) -/

theorem insertBy_ne_nil {α : Type} (key : α → Nat) (a : α) (l : List α) : insertBy key a l ≠ [] := by
  cases l with
  | nil => simp [insertBy]
  | cons b l => rw [insertBy]; split <;> simp

theorem sortBy_eq_nil {α : Type} {key : α → Nat} {l : List α} : sortBy key l = [] ↔ l = [] := by
  refine ⟨fun h => ?_, fun h => by rw [h]; rfl⟩
  rcases List.eq_nil_or_concat l with hl | ⟨l', a, rfl⟩
  · exact hl
  · rw [List.concat_eq_append, sortBy, List.foldl_append] at h
    exact (insertBy_ne_nil _ _ _ h).elim

/-- Where no replay may start, none of a PL flit may. -/
theorem replays_pl_eq_nil {x : Port} {wall : Nat} (h : x.replays wall false = []) : x.replays wall true = [] := by
  unfold Port.replays at h ⊢
  rw [sortBy_eq_nil, List.map_eq_nil_iff, List.filter_eq_nil_iff] at h ⊢
  intro r hr hc
  refine h r hr ?_
  simp only [Bool.and_eq_true, List.any_eq_true] at hc ⊢
  obtain ⟨hdue, o, ho, ⟨hseq, -⟩, hwide⟩ := hc
  exact ⟨hdue, o, ho, ⟨hseq, rfl⟩, hwide⟩

/-- In a slot of order 7 the choice is the turn's: its flit, or an IDLE. -/
theorem pick_of_orderSeven {q : PortId} {s : State} (h : OrderSeven q s) (fl : Option TxFlit) :
    (s.m.port q).pick s.m.wall (s.m.slotAssigned q) fl
      = (((s.m.port q).nextData s.m.wall).map fun d => .data d.1 d.2).getD .idle := by
  have hcal := st_ne_calibrate_of_carries h.carries
  cases hw : (s.m.port q).wide with
  | true =>
    obtain ⟨hh, hd⟩ := h.wide hw
    cases hn : (s.m.port q).nextData s.m.wall <;>
      simp [Port.pick, hcal, h.free, hw, hh, hd, h.replays, replays_pl_eq_nil h.replays, h.lctl, h.pv, h.room, hn]
  | false =>
    cases hn : (s.m.port q).nextData s.m.wall <;>
      simp [Port.pick, hcal, h.free, hw, h.replays, h.lctl, h.pv, h.room, hn]

/-! ### The STAMP of a COMMIT (R301) -/

/-- The first flit of a COMMIT on its VC. -/
def CommitFlit (vc : Nat) (f : TxFlit) : Prop := vc = 5 ∧ f.sop = true ∧ leAt f.payload 16 1 = 3

@[simp] theorem stampCommit_idle (q : PortId) (m : Mod) : stampCommit q .idle m = (.idle, m) := rfl

/-- Stamping changes the payload alone of a flit, and that only of the first flit of a COMMIT. -/
theorem stampCommit_data (q : PortId) (vc : Nat) (f : TxFlit) (m : Mod) :
    ∃ pl, (stampCommit q (.data vc f) m).1 = .data vc { f with payload := pl } ∧ (¬ CommitFlit vc f → pl = f.payload) := by
  unfold stampCommit
  dsimp only
  split
  · next hc =>
    have hcommit : CommitFlit vc f := by simpa [CommitFlit, vcMg, and_assoc] using hc
    split
    · exact ⟨f.payload, rfl, fun _ => rfl⟩
    · exact ⟨_, rfl, fun hn => absurd hcommit hn⟩
  · exact ⟨f.payload, rfl, fun _ => rfl⟩

/-! ### The slot of order 7 -/

/-- In a slot without a planned flit a port that carries packets sends what was picked, stamped. -/
theorem slotNow_port {q : PortId} {m : Mod} {u : SlotUse} (hc : (m.port q).carries = true) (hu : m.slotFlit q = none)
    (hp : (m.port q).pick m.wall (m.slotAssigned q) none = u) :
    (slotNow q m).port q = (m.slotPort q).sendUse (stampCommit q u m).1 m.wall := by
  obtain ⟨at', k, pl, c, hx⟩ := slotPort_eq q m
  have hcarries : ((m.slotPort q).sendUse (stampCommit q u m).1 m.wall).carries = true := by
    simpa [Port.carries, sendUse_st, hx] using hc
  unfold slotNow
  simp only [hu, Option.map_none, hp, displaceUnsent]
  rw [tryActivate_of_carries (by rw [port_setPort]; exact hcarries), port_setPort]

/-- Settles O22: the pick of the slot is the turn's, and its flit alone moves the queue, the turn and the credit. -/
theorem vcsAreServedInTurn : Obligations.VcsAreServedInTurn := by
  intro q s hb h7
  obtain ⟨at', k, p, c, hx⟩ := slotPort_eq q s.m
  have hpick := pick_of_orderSeven h7 none
  refine ⟨fun i hi hable hbefore => ?_, fun hnone => ?_⟩
  · obtain ⟨f, rest, hf, hd⟩ := nextData_of_first (x := s.m.port q) hi hable hbefore
    rw [hd, Option.map_some, Option.getD_some] at hpick
    obtain ⟨pl, hstamp, hpl⟩ := stampCommit_data q ((s.m.port q).turn i) f s.m
    have hport := slotNow_port h7.carries h7.unplanned hpick
    rw [hstamp, hx] at hport
    obtain ⟨w, hw, hseq, hpay⟩ := sendUse_data_sent (s.m.port q) ((s.m.port q).turn i) { f with payload := pl } s.m.wall
    refine ⟨_, w, f, rest, exec_linkSlot_of_begins hb, hf, ?_⟩
    dsimp only
    rw [hport]
    refine ⟨?_, sendUse_data_lastVc .., ?_, hw, hseq, fun hn => by rw [hpay, hpl hn]⟩
    · exact (sendUse_data_txVc ..).trans (congrArg (fun l : List TxFlit => (s.m.port q).txVc.set! _ (l.drop 1)) hf)
    · have hspend := creditOf_spend (s.m.port q) s.m.wall (turn_pos (s.m.port q) i) (turn_le (s.m.port q) i)
      rw [sendUse_data_creditOf]
      exact (congrArg (· + 1) hspend).trans (Nat.sub_add_cancel hable.2)
  · rw [nextData_of_none hnone, Option.map_none, Option.getD_none] at hpick
    have hport := slotNow_port h7.carries h7.unplanned hpick
    rw [stampCommit_idle, hx] at hport
    have hidle : SentIdle q s { s with m := slotNow q s.m } :=
      ⟨(congrArg Port.replayBuf hport :), (congrArg Port.nextSeq hport :), _, (congrArg Port.sent hport :), rfl,
        sliceB_replicate 240 0⟩
    exact ⟨_, exec_linkSlot_of_begins hb, hidle, (congrArg Port.txVc hport :), (congrArg Port.lastVc hport :),
      (congrArg Port.credits hport :)⟩

end Sys2Proof.Machine

/-!
SUPPORT. PART_CFG of a VF (R482): what a write to a shadowed register without RESET, a read, and a strobe of a block whose shadow
is good do, each once; then the interval of the check of a partition.
-/
namespace Sys2Proof.Machine

/-! ### The registers of a VF answer (R359, R472) -/

@[simp] theorem partOfFn_vfOf (p : Part) : partOfFn (vfOf p) = some p := rfl

/-- All registers of a VF answer, or none. -/
theorem regLive_vfOf (s : State) (p : Part) (off : Nat) :
    s.regLive (vfOf p) off = (s.m.hostUp && s.hub.power.st == .ready && s.m.fnLive (vfOf p)) := by
  have hf : (vfOf p == pf0) = false := beq_false_of_ne (vfOf_ne_pf0 p)
  unfold State.regLive
  rw [hf]
  cases s.hub.power.st <;> simp

/-- At reset every function holds its reset values. -/
@[simp] theorem func_reset (f : Fn) : State.reset.m.func f = {} := Vector.getElem_replicate f.isLt

/-! ### Writes and reads (R16, R472) -/

theorem rwsAt_partCfg (p : Part) : rwsAt (vfOf p) 0x0710 = some .partCfg := by
  simp [rwsAt, vfOf_ne_pf0]

/-- A whole write to a shadowed register that answers. -/
theorem exec_registerWrite_rws {f : Fn} {off : BitVec 16} {x : RwsReg} {s : State} (ha : off.toNat % 4 = 0)
    (hl : s.regLive f off.toNat = true) (hx : rwsAt f off.toNat = some x) (w : Reg) :
    exec (.registerWrite f off 0xF w) s = .next { s with m := writeRws f off.toNat x w s.m } := by
  simp only [exec, execRegisterWrite, ha, hl, hx]
  rfl

/-- PART_CFG has no RESET bit: a write to it changes its shadow alone, whose parity is good again. -/
theorem writeRws_partCfg (f : Fn) (off : Nat) (w : Reg) (m : Mod) :
    writeRws f off .partCfg w m = writeShadow f off .partCfg w m := by
  unfold writeRws restartRing
  split <;> rfl

theorem writeRws_partCfg_onlyPart (p : Part) (f : Fn) (off : Nat) (w : Reg) (m : Mod) :
    OnlyPart p m (writeRws f off .partCfg w m) := by
  rw [writeRws_partCfg]
  dsimp only [writeShadow, setRws]
  exact (OnlyPart.updFunc ..).trans (OnlyPart.updFunc ..)

/-- A write to PART_CFG reaches the field's bits of the shadow, and no other function. -/
theorem writeRws_partCfg_frame (f : Fn) (off : Nat) (w : Reg) (m : Mod) :
    (writeRws f off .partCfg w m).parts = m.parts
      ∧ ((writeRws f off .partCfg w m).func f).partCfg = { (m.func f).partCfg with shadow := w &&& 0x3FF }
      ∧ ∀ g, g ≠ f → (writeRws f off .partCfg w m).func g = m.func g := by
  rw [writeRws_partCfg]
  unfold writeShadow setRws
  refine ⟨rfl, ?_, fun g hg => ?_⟩
  · rw [func_updFunc, func_updFunc]; rfl
  · rw [func_updFunc_ne _ _ _ _ hg, func_updFunc_ne _ _ _ _ hg]

theorem readBar0_partCfg {p : Part} {s : State} (hl : s.regLive (vfOf p) 0x0710 = true) :
    readBar0 s (vfOf p) 0x0710 0xF = (s.m.func (vfOf p)).partCfg.active := by
  simp [readBar0, hl, readVf]

/-! ### Strobes (R474 to R476, R488) -/

/-- A MASK of block 3 alone. -/
theorem exec_update_partCfg {f : Fn} {s : State} (hl : s.regLive f 0x0100 = true) :
    exec (.update f 8) s = .next (strobeBlock f s 3) := by
  have hmask : (List.range 6).filter (fun k => (8 : Reg).getLsbD k) = [3] := by decide
  simp only [exec, execUpdate, hl, hmask]
  rfl

theorem strobeBlock_of_mismatch {f : Fn} {s : State} {block : Nat} (hu : (s.m.func f).shadowUpset f block = none)
    (hm : (s.m.func f).mismatch = some (block, s.m.wall)) : strobeBlock f s block = s := by
  simp [strobeBlock, hu, hm]

theorem strobeBlock_of_match {f : Fn} {s : State} {block : Nat} (hu : (s.m.func f).shadowUpset f block = none)
    (hm : (s.m.func f).mismatch ≠ some (block, s.m.wall)) : strobeBlock f s block = applyBlock f s block := by
  simp [strobeBlock, hu, hm]

theorem applyBlock_partCfg (p : Part) (s : State) :
    applyBlock (vfOf p) s 3 = { s with m := strobePartCfg (vfOf p) s.m } := by
  simp [applyBlock, vfOf_ne_pf0]

theorem strobePartCfg_of_inRange {f : Fn} {m : Mod} (h1 : 1 ≤ fld (m.func f).partCfg.shadow 9 0)
    (h2 : fld (m.func f).partCfg.shadow 9 0 ≤ 720) :
    strobePartCfg f m = m.updFunc f (fun y => { y with partCfg := y.partCfg.apply }) := by
  simp [strobePartCfg, Nat.ne_of_gt h1, Nat.not_lt.2 h2]

theorem strobePartCfg_of_outOfRange {f : Fn} {m : Mod}
    (h : fld (m.func f).partCfg.shadow 9 0 = 0 ∨ 720 < fld (m.func f).partCfg.shadow 9 0) :
    strobePartCfg f m = rejectStrobe f 0x0710 3 m := by
  simp [strobePartCfg, h]

/-! ### A rejected strobe (R476) -/

@[simp] theorem msix_partCfg (x : Func) (v : Nat) : (x.msix v).partCfg = x.partCfg := by
  unfold Func.msix; split <;> rfl

@[simp] theorem msix_rejectInfo (x : Func) (v : Nat) : (x.msix v).rejectInfo = x.rejectInfo := by
  unfold Func.msix; split <;> rfl

@[simp] theorem occur_partCfg (x : Func) (bit : Nat) : (x.occur bit).partCfg = x.partCfg := by
  simp only [Func.occur, apply_ite Func.partCfg, msix_partCfg, ite_self]

@[simp] theorem occur_rejectInfo (x : Func) (bit : Nat) : (x.occur bit).rejectInfo = x.rejectInfo := by
  simp only [Func.occur, apply_ite Func.rejectInfo, msix_rejectInfo, ite_self]

/-- An event of a VF is posted at it and at PF0. -/
theorem postAt_vfOf (p : Part) (bit : Nat) (m : Mod) : postAt (vfOf p) bit m = postBoth p bit m := if_neg (vfOf_ne_pf0 p)

/-- At its VF an event posted for a partition occurs once. -/
theorem postBoth_func_vfOf (p : Part) (bit : Nat) (m : Mod) :
    (postBoth p bit m).func (vfOf p) = (m.func (vfOf p)).occur bit := by
  unfold postBoth postEvent
  rw [func_updFunc_ne _ _ _ _ (vfOf_ne_pf0 p), func_updFunc]

/-- CFG_REJECT_INFO gives the offset of the register in its low half. -/
theorem fld_rejectInfo (off block : Nat) :
    fld (BitVec.ofNat 32 (off % 2 ^ 16 + block * 2 ^ 16)) 15 0 = off % 2 ^ 16 := by
  simp only [fld, BitVec.toNat_ofNat]
  omega

/-- A rejected strobe of a VF leaves its PART_CFG, notes the offset of the register, and posts CFG_REJECT. -/
theorem rejectStrobe_vfOf (p : Part) (off block : Nat) (m : Mod) :
    let y := (rejectStrobe (vfOf p) off block m).func (vfOf p)
    y.partCfg = (m.func (vfOf p)).partCfg ∧ fld y.rejectInfo 15 0 = off % 2 ^ 16
      ∧ y.events.any (fun e => e.1 == evCfgReject) = true := by
  unfold rejectStrobe
  rw [postAt_vfOf, postBoth_func_vfOf, func_updFunc]
  exact ⟨occur_partCfg .., by rw [occur_rejectInfo, fld_rejectInfo], occur_events ..⟩

theorem rejectStrobe_onlyPart (p k : Part) (off block : Nat) (m : Mod) :
    OnlyPart k m (rejectStrobe (vfOf p) off block m) := by
  unfold rejectStrobe
  rw [postAt_vfOf]
  exact (OnlyPart.updFunc ..).trans (postBoth_onlyPart ..)

@[simp] theorem rejectStrobe_parts (p : Part) (off block : Nat) (m : Mod) :
    (rejectStrobe (vfOf p) off block m).parts = m.parts := by
  unfold rejectStrobe
  rw [postAt_vfOf]
  rfl

/-! ### The interval (R349, R482) -/

theorem interval_of_pos {m : Mod} {p : Part} (h : 1 ≤ fld (m.func (vfOf p)).partCfg.active 9 0) :
    m.interval p = fld (m.func (vfOf p)).partCfg.active 9 0 := Nat.max_eq_right h

/-- Settles O49: a write changes the shadow, a strobe copies it where it is in range and is rejected elsewhere; each changes
functions alone, so all else stands. -/
theorem partCfgHoldsTheInterval : Obligations.PartCfgHoldsTheInterval := by
  refine ⟨fun p => ?_, fun p s hl => ?_⟩
  · have h : fld (State.reset.m.func (vfOf p)).partCfg.active 9 0 = 24 := by rw [func_reset]; rfl
    exact ⟨h, (interval_of_pos (by omega)).trans h⟩
  have hupdate : exec (.update (vfOf p) 8) s = .next (strobeBlock (vfOf p) s 3) :=
    exec_update_partCfg (by rwa [regLive_vfOf] at hl ⊢)
  refine ⟨fun w => ?_, readBar0_partCfg hl, fun hu hm => ?_, fun hu hm => ⟨fun h1 h2 => ?_, fun hout => ?_⟩⟩
  · have honly := writeRws_partCfg_onlyPart p (vfOf p) 0x0710 w s.m
    obtain ⟨hparts, hcfg, hothers⟩ := writeRws_partCfg_frame (vfOf p) 0x0710 w s.m
    exact ⟨_, exec_registerWrite_rws rfl hl (rwsAt_partCfg p) w, honly.stands.1, honly.stands.2, hparts, hcfg, hothers⟩
  · rw [hupdate, strobeBlock_of_mismatch hu hm]
  · rw [hupdate, strobeBlock_of_match hu hm, applyBlock_partCfg]
    have hstrobe := strobePartCfg_of_inRange h1 h2
    have honly : OnlyPart p s.m (strobePartCfg (vfOf p) s.m) := by rw [hstrobe]; exact .updFunc ..
    have hcfg : ((strobePartCfg (vfOf p) s.m).func (vfOf p)).partCfg = (s.m.func (vfOf p)).partCfg.apply := by
      rw [hstrobe, func_updFunc]
    have hfield : fld ((strobePartCfg (vfOf p) s.m).func (vfOf p)).partCfg.active 9 0
        = fld (s.m.func (vfOf p)).partCfg.shadow 9 0 := by rw [hcfg]; rfl
    have hparts : (strobePartCfg (vfOf p) s.m).parts = s.m.parts := by rw [hstrobe]; rfl
    exact ⟨_, rfl, honly.stands.1, honly.stands.2, hparts, hcfg, (interval_of_pos (by rw [hfield]; exact h1)).trans hfield⟩
  · rw [hupdate, strobeBlock_of_match hu hm, applyBlock_partCfg, strobePartCfg_of_outOfRange hout]
    have honly := rejectStrobe_onlyPart p p 0x0710 3 s.m
    exact ⟨_, rfl, honly.stands.1, honly.stands.2, rejectStrobe_parts .., rejectStrobe_vfOf p 0x0710 3 s.m⟩

end Sys2Proof.Machine
